-- ==== Sys2Proof/Word.lean ====
section
/-!
DEFINITION. The word types of the WV-880 and their plainest arithmetic.
-/
namespace Sys2Proof

/-- One byte of a store (R6). -/
abbrev Byte := BitVec 8

/-- A control register, an s-register, an instruction word: 64 bits (R11, R112, R118). -/
abbrev Word := BitVec 64

/-- A device address: 48 bits (R74). -/
abbrev DA := BitVec 48

/-- A tensor descriptor: 256 bits (R72). -/
abbrev Desc := BitVec 256

/-- A physical tile of the module: `160 * die + p` (R39), for every die and every physical index. -/
abbrev TileId := Fin 1280

/-- The die of a physical tile. -/
def tileDie (t : TileId) : Nat := t.val / 160

/-- The physical index of a tile on its die (R39). -/
def tilePhys (t : TileId) : Nat := t.val % 160

end Sys2Proof
end

