-- ==== Sys2Proof/Config.lean ====
section
/-!
DEFINITION. The values that the spec leaves open (R22-R24, R138, R68). Each is a constant without a body: nothing in Lean can
tell its value, so a claim about the model holds for every value. The step applies them to the counter `State.free`,
which it advances at each use.
-/
namespace Sys2Proof

/-- A free word: a value that the spec leaves open (log 1). -/
opaque Config.freeWord : Nat → BitVec 64

/-- A free choice between the two outcomes that the spec lists as alternatives (R138, log 1). -/
opaque Config.freeBool : Nat → Bool

/-- Codes that the spec names without giving them: of an instruction in PADDOCK_LINK (R352), of a cause or a trigger in events and records of
the service island (log 17). -/
opaque Config.openCode : Nat → BitVec 64

/-- A byte of a last-gasp record (R511), of what the record holds: the spec gives the record's size and contents and not its layout (log 18). -/
opaque Config.gaspByte : List Nat → Nat → BitVec 8

/-- A byte of the status page (R507, R508, R516), of what the page shows; byte 63 is given by R508 (log 18). -/
opaque Config.pageByte : List Nat → Nat → BitVec 8

/-- As what a register field acts that holds a value outside the range of its table, by the field and the value: the spec states no effect of such a value
(log 52). -/
opaque Config.fieldAs : Nat → Nat → Nat

/-- A byte of a page map as the cold store has loaded or updated it (R287, R294): the spec gives its size, and not what its entries hold (log 6). -/
opaque Config.mapByte : Nat → Nat → BitVec 8

/-- A field of a service request's body, by its number: the spec names the fields and not their places (R514, log 19). -/
opaque Config.svcField : Nat → List (BitVec 8) → Nat

/-- The KEK that a KEK_INSTALL body holds, of the ECDH shared secret, the ciphertext and the tag, if the tag verifies (R515); the key derivation and
the IV are not given (log 19). -/
opaque Config.kekOpen : Nat → List (BitVec 8) → List (BitVec 8) → Option (BitVec 256)

/-- A byte of a handover's state record, of what the record holds: the spec gives its ranges and not their layout (R527, log 18). -/
opaque Config.recordByte : List Nat → Nat → BitVec 8

end Sys2Proof
end

