-- ==== Sys2Proof/Syntax.lean ====
section
/-!
DEFINITION. The syntax: Kalroko instructions (R112-R160 and the engine chapters), the messages of the near fabric and the
datagrams of the far ports, and `Instr`, the commands of the block, one constructor per row of the command table.
-/
namespace Sys2Proof

/-! ### Kalroko instructions -/

/-- The arithmetic operations of majors 0x00 and 0x01 (R140). -/
inductive AluOp where
  | add | sub | and | or | xor | shl | shr | sra | mul | mulhu | mulhs | min | max | minu | maxu | sel | clz | li
  | popc | shori | divu | remu
  deriving DecidableEq, Repr

/-- The comparisons of majors 0x02 and 0x03 (R143). -/
inductive CmpOp where
  | eq | ne | lt | ge | ltu | geu | flt | fge | pand | por | pxor | pandn | fnf | tst
  deriving DecidableEq, Repr

/-- The branch conditions (R145). -/
inductive Cond where
  | always | pt | pf | z | nz | lt | ge | gt | le
  deriving DecidableEq, Repr

/-- The file pairs of a move, destination first (R152). -/
inductive MovPair where
  | ss | sa | as | aa | sp | ps | pp | ssys | dd
  deriving DecidableEq, Repr

/-- The scalar memory operations (R153). -/
inductive MemOp where
  | ld8u | ld16u | ld32u | ld64 | ld8s | ld16s | ld32s | st8 | st16 | st32 | st64 | lda
  deriving DecidableEq, Repr

/-- The matrix operations (R218, R220). -/
inductive MxOp where
  | open | close | discard | pass | passr | passb
  deriving DecidableEq, Repr

/-- The vector operations (R236, R240, R242, R243, R248-R251, R257). -/
inductive VxOp where
  | add | sub | mul | mul3 | fma | fms | fnma | mas | max | min | abs | cvt | rcp | rsqrt | gt | sel | fill
  | rrow | rcol | scan | perm | shuf | pack | unpack | rescale | drain | ftld | fn | fnd | drop
  deriving DecidableEq, Repr

/-- The drover operations (R269, R270). -/
inductive DvOp where
  | copy | gather | scatter | scadd | coldupd
  deriving DecidableEq, Repr

/-- The link operations (R355, R371-R373). -/
inductive LkOp where
  | arm | go | barrier | put | get | commit
  deriving DecidableEq, Repr

/-- An engine operation; `vxl` is a vector operation in its length form (R258). -/
inductive EngOp where
  | mx (o : MxOp) | vx (o : VxOp) | vxl (o : VxOp) | dv (o : DvOp) | lk (o : LkOp)
  deriving DecidableEq, Repr

/-- What an instruction names besides its predicate and tokens. -/
inductive KBody where
  | alu (op : AluOp) (dst a b : Fin 32) (c : Fin 8)
  | aluI (op : AluOp) (dst a : Fin 32) (imm : BitVec 28)
  | cmp (op : CmpOp) (dst : Fin 8) (a b : Fin 32)
  | cmpI (op : CmpOp) (dst : Fin 8) (a : Fin 32) (imm : BitVec 28)
  | br (link : Bool) (cond : Cond) (src : Fin 32) (psel : Fin 8) (off : BitVec 26)
  | jr (a : Fin 16)
  | ret
  | tset (k : Fin 64) (n : Fin 256)
  | tadd (k : Fin 64) (n : Fin 256)
  | tget (dst : Fin 32) (k : Fin 64)
  | nop
  | halt (a : Fin 32)
  | fence (mask : Fin 16)
  | event (a : Fin 32)
  | mode (m : Bool)
  | setvl (dst a : Fin 32)
  | icinv
  | icpf (a : Fin 16) (b : Fin 32)
  | mov (m : MovPair) (dst src : Fin 32) (imm : BitVec 16)
  | mem (op : MemOp) (dst : Fin 32) (a : Fin 16) (imm : BitVec 28)
  | dld (d : Fin 32) (a : Fin 16) (imm : BitVec 16)
  | dst (d : Fin 32) (a : Fin 16) (imm : BitVec 16)
  | dset (d s : Fin 32) (f : Fin 14) (imm : BitVec 16)
  | dget (s d : Fin 32) (f : Fin 14)
  | dadd (d s : Fin 32) (imm : BitVec 16)
  | eng (op : EngOp) (opa opb opc : Fin 32) (ctrl : BitVec 23)
  deriving DecidableEq, Repr

/-- One Kalroko instruction (R112): guard, wait token, signal token, body. -/
structure KInsn where
  pred : Fin 8
  wait : Fin 64
  signal : Fin 64
  body : KBody
  deriving DecidableEq, Repr

/-! ### What crosses the module's edge -/

/-- How a control register is accessed (R12): whole, its lower or upper half, or in another way. -/
inductive Acc where
  | full | low | high | other
  deriving DecidableEq, Repr

/-- A host request on BAR2 (R470). -/
inductive MemReq where
  | read (n : Nat)
  | write (bytes : List Byte)
  deriving DecidableEq, Repr

/-- The traffic classes of the near fabric (R349). -/
inductive NetClass where
  | dawn | noon | dusk | night
  deriving DecidableEq, Repr

/-- The outcome of a commit wave (R380, R384). -/
inductive Outcome3 where
  | committed | skipped | aborted
  deriving DecidableEq, Repr

/-- The elements of a tensor as they cross between memories: element codes in element order, and block-scale bytes. -/
structure TensorData where
  codes : List Nat
  scales : List Nat
  deriving DecidableEq, Repr

/-- A remote access of an lk.put or lk.get (R352, R355): the remote descriptor, the scale descriptor after it, and the data of a put. -/
inductive RemoteReq where
  | put (d ed : Desc) (data : TensorData)
  | get (d ed : Desc)
  deriving DecidableEq, Repr

/-- One message of a reduction's chunk (R362, R363, R368): the ring and tag, the chunk, the counts that travel with it (a partial sum's one count; a
result's count for each element, or one for all of them), the byte offset of the payload in the chunk's wire image, and whether it is
the chunk's last message. -/
structure ChunkMsg where
  ring : Nat
  tag : Nat
  chunk : Nat
  counts : List Nat
  offset : Nat
  last : Bool
  payload : List Byte
  deriving DecidableEq, Repr

/-- What a near-fabric message carries (R337, R340, R349, R355, R363, R372, R376). -/
inductive NetBody where
  | vote (kind : Bool) (step cv : Nat) (skip mismatch : Bool)
  | prepare (kind : Bool) (step : Nat) (o : Outcome3)
  | ack (kind : Bool) (step : Nat)
  | final (kind : Bool) (step : Nat) (o : Outcome3)
  | barrierUp (seq : Nat)
  | barrierDown (seq : Nat)
  | flockDigest (flock member step : Nat) (lo hi : Word)
  | flockVerdict (flock step verdict source : Nat)
  | cleared (flock member step : Nat)
  | partialSum (m : ChunkMsg)
  | resultChunk (m : ChunkMsg)
  | remote (id : Nat) (paddock : Bool) (r : RemoteReq)
  | remoteAck (id : Nat)
  | remoteData (id : Nat) (data : TensorData)
  | shardRead (da n : Nat)
  | shardData (da : Nat) (bytes : List Byte)
  deriving DecidableEq, Repr

/-- A near-fabric message (R345, R348, R351): source and destination module, traffic class, and the virtual channel that it travels on. -/
structure NetMsg where
  src : Nat
  dst : Nat
  cls : NetClass
  vc : Bool
  body : NetBody
  deriving DecidableEq, Repr

/-- What Shepherd writes into PSRC, PDST, PLEN and PSEQ, in this order, before POP, on its own path to them (R454). -/
structure ShepRegs where
  psrc : Word
  pdst : Word
  plen : Word
  pseq : Word
  deriving DecidableEq, Repr

/-- A write of PLOCK: its width, and whether Shepherd makes it, on its own path, or the host (R452). -/
structure LockAcc where
  acc : Acc
  shep : Bool
  deriving DecidableEq, Repr

/-- A write of POP: its width, and what Shepherd writes ahead of it where it makes the write, not the host (R454). -/
structure PopAcc where
  acc : Acc
  shep : Option ShepRegs
  deriving DecidableEq, Repr

/-- A member that its flock's bellwether has held, and the step of the comparison that set its hold (R340). -/
structure HeldMember where
  member : Nat
  step : Nat
  deriving DecidableEq, Repr

/-- A root PLL that loses lock (R496), and whether the reference clocks of J2 and J3 are good then (R536). -/
structure ClockLoss where
  die : Fin 8
  clk0 : Bool
  clk1 : Bool
  deriving DecidableEq, Repr

/-- What a compaction pass leaves (R294): FREE_BP, and whether a block still holds a stale page. -/
structure Compacted where
  freeBp : Nat
  stale : Bool
  deriving DecidableEq, Repr

/-- A datagram that a far port receives or sends (R408, R409): MAC addresses, IP addresses, traffic class, flow label, hop limit, UDP ports,
the UDP payload, whether the frame check sequence and the checksums of the layers below hold, and whether the receive buffer of its engine has
room for it (R444). -/
structure Datagram where
  mac : Nat
  srcMac : Nat
  srcAddr : Nat
  dstAddr : Nat
  tclass : Nat
  flow : Nat
  hops : Nat
  srcPort : Nat
  dstPort : Nat
  ok : Bool
  room : Bool
  payload : List Byte
  deriving DecidableEq, Repr

/-- How a near port's training ends (R342). -/
inductive TrainEnd where
  | up | upHalf | failed
  deriving DecidableEq, Repr

/-! ### Commands -/

/-- The commands of the block, one constructor per row of the command table. A command of a tile's sequencer or engine names only
its tile: the instruction it runs is the one that the tile's state holds. -/
inductive Instr where
  /-- REGISTER_WRITE (R14). -/
  | registerWrite (port : Fin 2) (off : Nat) (acc : Acc) (v : Word)
  /-- RC_REGISTER_READ (R17). -/
  | rcRegisterRead (port : Fin 2) (off : Nat) (acc : Acc)
  /-- MEMORY_WINDOW_ACCESS (R470). -/
  | memoryWindowAccess (port : Fin 2) (off : Nat) (req : MemReq)
  /-- TILE_CFG_WRITE (R46). -/
  | tileCfgWrite (t : TileId) (acc : Acc) (v : Word)
  /-- PADDOCK_ENABLE_WRITE (R48). -/
  | paddockEnableWrite (acc : Acc) (v : Word)
  /-- HBM_REGION_WRITE (R57). -/
  | hbmRegionWrite (r : Fin 1024) (acc : Acc) (v : Word)
  /-- TILE_START (R174). -/
  | tileStart (t : TileId)
  /-- TILE_STOP (R175). -/
  | tileStop (t : TileId)
  /-- START_PC_WRITE (R173). -/
  | startPcWrite (t : TileId) (acc : Acc) (v : Word)
  /-- TOKEN_WRITE (R173). -/
  | tokenWrite (t : TileId) (n : Fin 8) (acc : Acc) (v : Word)
  /-- TILE_HALT (R151). -/
  | tileHalt (t : TileId)
  /-- TILE_STOP_COMPLETE (R175). -/
  | tileStopComplete (t : TileId)
  /-- TILE_STALL (R177). -/
  | tileStall (t : TileId)
  /-- ICACHE_LINE_FILL (R166). -/
  | icacheLineFill (t : TileId)
  /-- ENGINE_DISPATCH (R125). -/
  | engineDispatch (t : TileId)
  /-- SQ_ADD (R140). -/
  | sqAdd (t : TileId)
  /-- SQ_SUB (R140). -/
  | sqSub (t : TileId)
  /-- SQ_AND (R140). -/
  | sqAnd (t : TileId)
  /-- SQ_OR (R140). -/
  | sqOr (t : TileId)
  /-- SQ_XOR (R140). -/
  | sqXor (t : TileId)
  /-- SQ_SHL (R140). -/
  | sqShl (t : TileId)
  /-- SQ_SHR (R140). -/
  | sqShr (t : TileId)
  /-- SQ_SRA (R140). -/
  | sqSra (t : TileId)
  /-- SQ_MUL (R140). -/
  | sqMul (t : TileId)
  /-- SQ_MULHU (R140). -/
  | sqMulhu (t : TileId)
  /-- SQ_MULHS (R140). -/
  | sqMulhs (t : TileId)
  /-- SQ_MIN (R140). -/
  | sqMin (t : TileId)
  /-- SQ_MAX (R140). -/
  | sqMax (t : TileId)
  /-- SQ_MINU (R140). -/
  | sqMinu (t : TileId)
  /-- SQ_MAXU (R140). -/
  | sqMaxu (t : TileId)
  /-- SQ_SEL (R140). -/
  | sqSel (t : TileId)
  /-- SQ_CLZ (R140). -/
  | sqClz (t : TileId)
  /-- SQ_LI (R140). -/
  | sqLi (t : TileId)
  /-- SQ_POPC (R140). -/
  | sqPopc (t : TileId)
  /-- SQ_SHORI (R140). -/
  | sqShori (t : TileId)
  /-- SQ_DIVU (R140). -/
  | sqDivu (t : TileId)
  /-- SQ_REMU (R140). -/
  | sqRemu (t : TileId)
  /-- SQ_EQ (R143). -/
  | sqEq (t : TileId)
  /-- SQ_NE (R143). -/
  | sqNe (t : TileId)
  /-- SQ_LT (R143). -/
  | sqLt (t : TileId)
  /-- SQ_GE (R143). -/
  | sqGe (t : TileId)
  /-- SQ_LTU (R143). -/
  | sqLtu (t : TileId)
  /-- SQ_GEU (R143). -/
  | sqGeu (t : TileId)
  /-- SQ_FLT (R143). -/
  | sqFlt (t : TileId)
  /-- SQ_FGE (R143). -/
  | sqFge (t : TileId)
  /-- SQ_PAND (R143). -/
  | sqPand (t : TileId)
  /-- SQ_POR (R143). -/
  | sqPor (t : TileId)
  /-- SQ_PXOR (R143). -/
  | sqPxor (t : TileId)
  /-- SQ_PANDN (R143). -/
  | sqPandn (t : TileId)
  /-- SQ_FNF (R143). -/
  | sqFnf (t : TileId)
  /-- SQ_TST (R143). -/
  | sqTst (t : TileId)
  /-- SQ_B (R146). -/
  | sqB (t : TileId)
  /-- SQ_CALL (R146). -/
  | sqCall (t : TileId)
  /-- SQ_JR (R146). -/
  | sqJr (t : TileId)
  /-- SQ_RET (R146). -/
  | sqRet (t : TileId)
  /-- SQ_TSET (R148). -/
  | sqTset (t : TileId)
  /-- SQ_TADD (R148). -/
  | sqTadd (t : TileId)
  /-- SQ_TGET (R148). -/
  | sqTget (t : TileId)
  /-- SQ_NOP (R150). -/
  | sqNop (t : TileId)
  /-- SQ_HALT (R150). -/
  | sqHalt (t : TileId)
  /-- SQ_FENCE (R150). -/
  | sqFence (t : TileId)
  /-- SQ_EVENT (R150). -/
  | sqEvent (t : TileId)
  /-- SQ_MODE (R150). -/
  | sqMode (t : TileId)
  /-- SQ_SETVL (R150). -/
  | sqSetvl (t : TileId)
  /-- SQ_ICINV (R150). -/
  | sqIcinv (t : TileId)
  /-- SQ_ICPF (R150). -/
  | sqIcpf (t : TileId)
  /-- ICPF_COMPLETE (R150). -/
  | icpfComplete (t : TileId)
  /-- SQ_MOV (R152). -/
  | sqMov (t : TileId)
  /-- SQ_LOAD (R153). -/
  | sqLoad (t : TileId)
  /-- SQ_STORE (R153). -/
  | sqStore (t : TileId)
  /-- SQ_LDA (R153). -/
  | sqLda (t : TileId)
  /-- SQ_DLD (R157). -/
  | sqDld (t : TileId)
  /-- SQ_DST (R157). -/
  | sqDst (t : TileId)
  /-- SQ_DSET (R157). -/
  | sqDset (t : TileId)
  /-- SQ_DGET (R157). -/
  | sqDget (t : TileId)
  /-- SQ_DADD (R157). -/
  | sqDadd (t : TileId)
  /-- MX_OPEN (R196). -/
  | mxOpen (t : TileId)
  /-- MX_PASS (R182). -/
  | mxPass (t : TileId)
  /-- MX_PASSR (R211). -/
  | mxPassr (t : TileId)
  /-- MX_PASSB (R211). -/
  | mxPassb (t : TileId)
  /-- PASS_STREAM_START (R216). -/
  | passStreamStart (t : TileId)
  /-- PASS_COMPLETE (R205). -/
  | passComplete (t : TileId)
  /-- CAPTURE (R200). -/
  | capture (t : TileId)
  /-- SPILL_FOLD (R201). -/
  | spillFold (t : TileId)
  /-- MX_CLOSE (R195). -/
  | mxClose (t : TileId)
  /-- CLOSE_COMPLETE (R203). -/
  | closeComplete (t : TileId)
  /-- MX_DISCARD (R218). -/
  | mxDiscard (t : TileId)
  /-- DISCARD_COMPLETE (R195). -/
  | discardComplete (t : TileId)
  /-- HELD_GROUP_READ (R204). -/
  | heldGroupRead (id : Nat)
  /-- VX_ADD (R236). -/
  | vxAdd (t : TileId)
  /-- VX_SUB (R236). -/
  | vxSub (t : TileId)
  /-- VX_MUL (R236). -/
  | vxMul (t : TileId)
  /-- VX_MUL3 (R236). -/
  | vxMul3 (t : TileId)
  /-- VX_FMA (R236). -/
  | vxFma (t : TileId)
  /-- VX_FMS (R236). -/
  | vxFms (t : TileId)
  /-- VX_FNMA (R236). -/
  | vxFnma (t : TileId)
  /-- VX_MAS (R236). -/
  | vxMas (t : TileId)
  /-- VX_MAX (R236). -/
  | vxMax (t : TileId)
  /-- VX_MIN (R236). -/
  | vxMin (t : TileId)
  /-- VX_ABS (R236). -/
  | vxAbs (t : TileId)
  /-- VX_CVT (R236). -/
  | vxCvt (t : TileId)
  /-- VX_RCP (R236). -/
  | vxRcp (t : TileId)
  /-- VX_RSQRT (R236). -/
  | vxRsqrt (t : TileId)
  /-- VX_GT (R236). -/
  | vxGt (t : TileId)
  /-- VX_SEL (R236). -/
  | vxSel (t : TileId)
  /-- VX_FILL (R236). -/
  | vxFill (t : TileId)
  /-- VX_RROW (R240). -/
  | vxRrow (t : TileId)
  /-- VX_RCOL (R240). -/
  | vxRcol (t : TileId)
  /-- VX_SCAN (R240). -/
  | vxScan (t : TileId)
  /-- VX_PERM (R242). -/
  | vxPerm (t : TileId)
  /-- VX_SHUF (R242). -/
  | vxShuf (t : TileId)
  /-- VX_PACK (R242). -/
  | vxPack (t : TileId)
  /-- VX_UNPACK (R242). -/
  | vxUnpack (t : TileId)
  /-- VX_RESCALE (R243). -/
  | vxRescale (t : TileId)
  /-- VX_DRAIN (R243). -/
  | vxDrain (t : TileId)
  /-- VX_FTLD (R248). -/
  | vxFtld (t : TileId)
  /-- VX_FN (R250). -/
  | vxFn (t : TileId)
  /-- VX_FND (R251). -/
  | vxFnd (t : TileId)
  /-- VX_DROP (R257). -/
  | vxDrop (t : TileId)
  /-- VX_LENGTH_FORM (R258). -/
  | vxLengthForm (t : TileId)
  /-- VECTOR_COMPLETION (R206). -/
  | vectorCompletion (t : TileId)
  /-- DV_COPY (R269). -/
  | dvCopy (t : TileId)
  /-- DV_GATHER (R270). -/
  | dvGather (t : TileId)
  /-- DV_SCATTER (R270). -/
  | dvScatter (t : TileId)
  /-- DV_SCADD (R273). -/
  | dvScadd (t : TileId)
  /-- DV_COLDUPD (R291). -/
  | dvColdupd (t : TileId)
  /-- TRANSFER_COMPLETE (R275). -/
  | transferComplete (id : Nat)
  /-- QUEUE_DOORBELL (R281). -/
  | queueDoorbell (q : Fin 256) (acc : Acc) (v : Word)
  /-- QUEUE_ENTRY_START (R281). -/
  | queueEntryStart (q : Fin 256)
  /-- QUEUE_CTRL_WRITE (R283). -/
  | queueCtrlWrite (q : Fin 256) (acc : Acc) (v : Word)
  /-- ENGINE_OWN_WRITE (R268). -/
  | engineOwnWrite (d : Fin 8) (acc : Acc) (v : Word)
  /-- FLASH_ENABLE (R287). -/
  | flashEnable (acc : Acc) (v : Word)
  /-- FLASH_READY (R288). -/
  | flashReady
  /-- COMPACTION_START (R294). -/
  | compactionStart (acc : Acc) (v : Word)
  /-- COMPACTION_AUTO_START (R294). -/
  | compactionAutoStart (freeBp : Nat)
  /-- COMPACTION_END (R294): the free space, and whether a stale page remains. -/
  | compactionEnd (left : Compacted)
  /-- NORM_CHECK (R309). -/
  | normCheck (acc : Acc) (v : Word)
  /-- LEDGER_INIT (R318). -/
  | ledgerInit (acc : Acc) (v : Word)
  /-- LEDGER_INIT_COMPLETE (R318). -/
  | ledgerInitComplete
  /-- RUN_LOSS_WRITE (R330). -/
  | runLossWrite (acc : Acc) (v : Word)
  /-- RUN_CLEAR (R330). -/
  | runClear (acc : Acc) (v : Word)
  /-- FLOCK_DIGEST (R337). -/
  | flockDigest (flock member step : Nat) (lo hi : Word)
  /-- FLOCK_VERDICT (R337). -/
  | flockVerdict
  /-- FLOCK_VERDICT_RECEIVED (R338). -/
  | flockVerdictReceived (flock step verdict source : Nat)
  /-- FLOCK_TIMEOUT (R337). -/
  | flockTimeout
  /-- HOLD_CLEAR (R339). -/
  | holdClear
  /-- FLOCK_ENABLE_WRITE (R340). -/
  | flockEnableWrite (acc : Acc) (v : Word)
  /-- CLEARED (R340). -/
  | cleared (flock : Nat) (held : HeldMember)
  /-- PORT_ENABLE (R342). -/
  | portEnable (n : Fin 32) (acc : Acc) (v : Word)
  /-- RETRAIN (R342). -/
  | retrain (n : Fin 32)
  /-- PEER_TRAINING (R342). -/
  | peerTraining (n : Fin 32)
  /-- LINK_UP (R342). -/
  | linkUp (n : Fin 32) (e : TrainEnd) (peer peerPort lanes : Nat)
  /-- FLIT_RETRANSMIT (R343). -/
  | flitRetransmit (n : Fin 32)
  /-- LINK_DOWN (R343). -/
  | linkDown (n : Fin 32)
  /-- DAWN_OVER (R353). -/
  | dawnOver (n : Fin 32) (bytes : Nat)
  /-- MESSAGE_ARRIVAL (R345). -/
  | messageArrival (n : Fin 32) (m : NetMsg)
  /-- DAWN_ACK (R351). -/
  | dawnAck
  /-- ROUTE_SWITCH (R347). -/
  | routeSwitch (acc : Acc) (v : Word)
  /-- LK_PUT (R355). -/
  | lkPut (t : TileId)
  /-- LK_GET (R355). -/
  | lkGet (t : TileId)
  /-- REMOTE_ACCESS (R352). -/
  | remoteAccess (src id : Nat) (cls : NetClass) (paddock : Bool) (r : RemoteReq)
  /-- LINK_TRANSFER_COMPLETE (R356). -/
  | linkTransferComplete (id : Nat) (data : TensorData)
  /-- LK_ARM (R371). -/
  | lkArm (t : TileId)
  /-- LK_GO (R365). -/
  | lkGo (t : TileId)
  /-- PARTIAL_ARRIVAL (R362). -/
  | partialArrival (m : ChunkMsg)
  /-- DEADLINE_EXPIRY (R365). -/
  | deadlineExpiry (ctx : Fin 64) (stage chunk : Nat)
  /-- RESULT_ARRIVAL (R368). -/
  | resultArrival (m : ChunkMsg)
  /-- LK_GO_COMPLETE (R368). -/
  | lkGoComplete (ctx : Fin 64)
  /-- LK_BARRIER (R372). -/
  | lkBarrier (t : TileId)
  /-- BARRIER_MESSAGE (R372). -/
  | barrierMessage (src : Nat) (up : Bool) (seq : Nat)
  /-- LK_COMMIT (R376). -/
  | lkCommit (t : TileId)
  /-- WAVE_ENABLE (R376). -/
  | waveEnable (acc : Acc) (v : Word)
  /-- VOTE (R377). -/
  | vote (src : Nat) (kind : Bool) (step cv : Nat) (skip mismatch : Bool)
  /-- PREPARE (R379). -/
  | prepare (kind : Bool) (step : Nat) (o : Outcome3)
  /-- ACK (R379). -/
  | ack (src : Nat) (kind : Bool) (step : Nat)
  /-- FINAL (R380). -/
  | final (kind : Bool) (step : Nat) (o : Outcome3)
  /-- WAVE_TIMEOUT (R379). -/
  | waveTimeout
  /-- WAVE_STUCK (R383). -/
  | waveStuck
  /-- WAVE_RESOLVE (R384). -/
  | waveResolve (acc : Acc) (v : Word)
  /-- SHARD_TRANSFER (R385). -/
  | shardTransfer (acc : Acc) (v : Word)
  /-- XFER_DONE (R385). -/
  | xferDone (ok : Bool)
  /-- ROUNDEND_COMPLETE (R389). -/
  | roundendComplete
  /-- APPLY_COMPLETE (R391). -/
  | applyComplete
  /-- APPLY_WAIT_READ (R391). -/
  | applyWaitRead (id : Nat)
  /-- FAR_ENABLE (R396). -/
  | farEnable (acc : Acc) (v : Word)
  /-- CHANNEL_ENABLE (R450). -/
  | channelEnable (c : Fin 4096) (acc : Acc) (v : Word)
  /-- FAR_QUOTA (R416). -/
  | farQuota (off : Nat) (acc : Acc) (v : Word)
  /-- DATA (R403). -/
  | data (f : Fin 4) (g : Datagram)
  /-- ACK_FRAME (R420). -/
  | ackFrame (f : Fin 4) (g : Datagram)
  /-- PROBE (R421). -/
  | probe (f : Fin 4) (g : Datagram)
  /-- ECHO (R418). -/
  | echo (f : Fin 4) (g : Datagram)
  /-- HELLO (R423). -/
  | hello (f : Fin 4) (g : Datagram)
  /-- STATE (R430). -/
  | state (f : Fin 4) (g : Datagram)
  /-- FRAME_ADMIT (R415). -/
  | frameAdmit (c : Fin 4096)
  /-- FRAME_SEND (R419). -/
  | frameSend (c : Fin 4096)
  /-- RETRANSMIT (R420). -/
  | retransmit (c : Fin 4096) (seq : Nat)
  /-- ACK_DELAY (R420). -/
  | ackDelay (c : Fin 4096)
  /-- PROBE_INT (R421). -/
  | probeInt (c : Fin 4096)
  /-- RATE_ADJUST (R419). -/
  | rateAdjust (c : Fin 4096)
  /-- FAR_DARK (R424). -/
  | farDark (c : Fin 4096)
  /-- ADMISSION_START (R430). -/
  | admissionStart (acc : Acc) (v : Word)
  /-- LOCK_ACQUIRE (R452), by the host or by Shepherd. -/
  | lockAcquire (f : Fin 4) (by_ : LockAcc) (v : Word)
  /-- LOCK_RELEASE (R452). -/
  | lockRelease (f : Fin 4) (by_ : LockAcc) (v : Word)
  /-- CIP_LOCK_BREAK (R453). -/
  | cipLockBreak (f : Fin 4)
  /-- ENCRYPT (R455), by the host or by Shepherd. -/
  | encrypt (f : Fin 4) (by_ : PopAcc) (v : Word)
  /-- DECRYPT (R455). -/
  | decrypt (f : Fin 4) (by_ : PopAcc) (v : Word)
  /-- KEYLOAD (R455). -/
  | keyload (f : Fin 4) (by_ : PopAcc) (v : Word)
  /-- PKEYLOAD (R455). -/
  | pkeyload (f : Fin 4) (by_ : PopAcc) (v : Word)
  /-- KEK_INSTALL (R460). -/
  | kekInstall (f : Fin 4) (by_ : PopAcc) (v : Word)
  /-- PRIVILEGED_RESULT (R457). -/
  | privilegedResult (f : Fin 4)
  /-- KEY_ZEROISATION (R462). -/
  | keyZeroisation (acc : Acc) (v : Word)
  /-- RESTART (R463). -/
  | restart (f : Fin 4) (acc : Acc) (v : Word)
  /-- START_UP_TESTS_PASS (R463). -/
  | startUpTestsPass (f : Fin 4)
  /-- CIP_ENTROPY_FAIL (R464). -/
  | cipEntropyFail (f : Fin 4) (test : Fin 3)
  /-- RESEED (R463). -/
  | reseed (f : Fin 4)
  /-- WORK_RING_DOORBELL (R472). -/
  | workRingDoorbell (w : Fin 64) (acc : Acc) (v : Word)
  /-- NOP (R472). -/
  | wrNop (w : Fin 64)
  /-- SLICE_START (R473). -/
  | wrSliceStart (w : Fin 64)
  /-- SLICE_STOP (R472). -/
  | wrSliceStop (w : Fin 64)
  /-- SLICE_WAIT (R472). -/
  | wrSliceWait (w : Fin 64)
  /-- REG_WRITE (R472). -/
  | wrRegWrite (w : Fin 64)
  /-- REG_WAIT (R472). -/
  | wrRegWait (w : Fin 64)
  /-- RING_DONE (R472). -/
  | ringDone (w : Fin 64) (timeout : Bool)
  /-- RING_RESUME (R475). -/
  | ringResume (w : Fin 64)
  /-- EVENT_RING_ENABLE (R479). -/
  | eventRingEnable (acc : Acc) (v : Word)
  /-- EVENT_RING_HEAD_WRITE (R480). -/
  | eventRingHeadWrite (acc : Acc) (v : Word)
  /-- HOLDOFF_END (R482). -/
  | holdoffEnd (vec : Fin 2048)
  /-- SNAPSHOT (R488). -/
  | snapshot
  /-- SNAPSHOT_CLEAR (R488). -/
  | snapshotClear
  /-- SNAPSHOT_COMPLETE (R488). -/
  | snapshotComplete
  /-- SATURATED_CLEAR (R489). -/
  | saturatedClear (off : Nat)
  /-- POWER_UP (R499); whether the reference clock of each host connector is good (R536). -/
  | powerUp (clk0 clk1 : Bool)
  /-- READY (R499). -/
  | ready
  /-- PERST (R537). -/
  | perst (port : Fin 2)
  /-- PERST_RELEASE (R500). -/
  | perstRelease (port : Fin 2)
  /-- PLL_LOSS (R496). -/
  | pllLoss (d : ClockLoss)
  /-- POWER_INTERVAL (R501). -/
  | powerInterval (watts : Nat)
  /-- THERMAL_INTERVAL (R504). -/
  | thermalInterval (dies hbm0 hbm1 : List Nat) (coolant : List Nat)
  /-- THERMAL_TRIP (R505). -/
  | thermalTrip (d : Fin 8) (hbm : Bool) (temp : Nat)
  /-- ISLAND_OVERTEMP (R506). -/
  | islandOvertemp (temp : Nat)
  /-- TAMPER (R543). -/
  | tamper
  /-- HEARTBEAT_CHECK (R495). -/
  | heartbeatCheck (alive : List Bool)
  /-- QUIESCE (R509). -/
  | quiesce
  /-- POWER_OFF (R510). -/
  | powerOff
  /-- LAST_GASP_READ (R512). -/
  | lastGaspRead
  /-- LAST_GASP_CLEAR (R512). -/
  | lastGaspClear
  /-- DIGEST_SWEEP (R513). -/
  | digestSweep
  /-- MAILBOX_DONE (R512). -/
  | mailboxDone
  /-- STATUS_READ (R507). -/
  | statusRead (dgram : List Byte)
  /-- REG_READ (R508). -/
  | regRead (dgram : List Byte)
  /-- SERVICE_LAST_GASP_READ (R507). -/
  | serviceLastGaspRead (dgram : List Byte)
  /-- SERVICE_QUIESCE (R514). -/
  | serviceQuiesce (dgram : List Byte)
  /-- SERVICE_POWER_OFF (R514). -/
  | servicePowerOff (dgram : List Byte)
  /-- POWER_ON (R514). -/
  | powerOn (dgram : List Byte)
  /-- SERVICE_RESET (R514). -/
  | serviceReset (dgram : List Byte)
  /-- ZEROISE (R514). -/
  | zeroise (dgram : List Byte)
  /-- SERVICE_KEK_INSTALL (R515). -/
  | serviceKekInstall (dgram : List Byte)
  /-- FW_BEGIN (R526). -/
  | fwBegin (src : Nat) (dgram : List Byte)
  /-- FW_DATA (R526). -/
  | fwData (src : Nat) (dgram : List Byte)
  /-- FW_COMMIT (R526). -/
  | fwCommit (src : Nat) (dgram : List Byte)
  /-- SET_SVC_KEY (R514). -/
  | setSvcKey (dgram : List Byte)
  /-- FW_HANDOVER_DONE (R527). -/
  | fwHandoverDone
  /-- FW_HANDOVER_FAIL (R528). -/
  | fwHandoverFail
  /-- SMBUS_BLOCK_READ (R516). -/
  | smbusBlockRead (cmd : Nat)
  /-- SVC_ARM_CHANGE (R542). -/
  | svcArmChange (closed : Bool)
  /-- COLD_RESET (R517). -/
  | coldReset
  /-- WARM_RESET (R517). -/
  | warmReset
  /-- DIE_RESET (R517). -/
  | dieReset (d : Fin 8)
  /-- TILE_RESET (R517). -/
  | tileReset (t : TileId)
  /-- LINK_RESET (R517). -/
  | linkReset (port : Nat)
  /-- RESET_DONE (R517). -/
  | resetDone
  /-- MAIN_LOSS (R534). -/
  | mainLoss
  /-- MAIN_VALID (R531). -/
  | mainValid
  /-- STBY_LOSS (R534). -/
  | stbyLoss
  /-- OVER_VOLTAGE (R533). -/
  | overVoltage
  /-- OVER_VOLTAGE_RECOVERY (R533). -/
  | overVoltageRecovery
  /-- INHIBIT (R534). -/
  | inhibit
  /-- INHIBIT_RELEASE (R534). -/
  | inhibitRelease
  /-- PLUG_IN_MODULE_CHANGE (R540): the watts of the inserted module's power class (R541); none when a module is removed. -/
  | plugInModuleChange (f : Fin 4) (watts : Option Nat)
  /-- STEP_CLOSE_COMPLETE (R324). -/
  | stepCloseComplete
  /-- SHEPHERD_FATAL_ERROR (R507). -/
  | shepherdFatalError
  /-- FAR_PORT_LINK_CHANGE (R540). -/
  | farPortLinkChange (f : Fin 4) (up : Bool)
  deriving DecidableEq, Repr

end Sys2Proof
end

