-- ==== Sys2Proof/Decode.lean ====
section
/-!
DEFINITION. Decoding. The command table of the block gives no row any bits, so no word spells a command. The words that the
block itself decodes are Kalroko instructions (R112-R160, R218-R226, R258, R270, R371): `kDecode` reads one, and refuses every
word that R117 makes undefined; `kEncode` writes one.
-/
namespace Sys2Proof

/-- The command that a table word spells: the table numbers no bits for any row, so none. -/
def decodeTableWord (_nbits _w : Nat) : Option Instr := none

/-- Bits `[lo + len - 1 : lo]` of a number. -/
def fld (w lo len : Nat) : Nat := w / 2 ^ lo % 2 ^ len

/-- A number as a sign-extended value of `len` bits. -/
def sext (len n : Nat) : Int := if n < 2 ^ (len - 1) then (n : Int) else (n : Int) - 2 ^ len

/-- A field as a register number. -/
def fin32 (n : Nat) : Fin 32 := ⟨n % 32, Nat.mod_lt _ (by decide)⟩
def fin16 (n : Nat) : Fin 16 := ⟨n % 16, Nat.mod_lt _ (by decide)⟩
def fin8 (n : Nat) : Fin 8 := ⟨n % 8, Nat.mod_lt _ (by decide)⟩
def fin64 (n : Nat) : Fin 64 := ⟨n % 64, Nat.mod_lt _ (by decide)⟩
def fin256 (n : Nat) : Fin 256 := ⟨n % 256, Nat.mod_lt _ (by decide)⟩
def fin14 (n : Nat) : Fin 14 := ⟨n % 14, Nat.mod_lt _ (by decide)⟩

/-! ### Operation codes -/

/-- The arithmetic operation of major 0x00 with a minor code (R140). -/
def aluOfCode : Nat → Option AluOp
  | 0x00 => some .add | 0x01 => some .sub | 0x02 => some .and | 0x03 => some .or | 0x04 => some .xor
  | 0x05 => some .shl | 0x06 => some .shr | 0x07 => some .sra | 0x08 => some .mul | 0x09 => some .mulhu
  | 0x0A => some .mulhs | 0x0B => some .min | 0x0C => some .max | 0x0D => some .minu | 0x0E => some .maxu
  | 0x0F => some .sel | 0x10 => some .clz | 0x11 => some .popc | 0x12 => some .divu | 0x13 => some .remu
  | _ => none

/-- The arithmetic operation of major 0x01 with a minor code (R140). -/
def aluIOfCode : Nat → Option AluOp
  | 0x00 => some .add | 0x01 => some .sub | 0x02 => some .and | 0x03 => some .or | 0x04 => some .xor
  | 0x05 => some .shl | 0x06 => some .shr | 0x07 => some .sra | 0x08 => some .mul
  | 0x0B => some .min | 0x0C => some .max | 0x0D => some .minu | 0x0E => some .maxu
  | 0x10 => some .li | 0x11 => some .shori
  | _ => none

/-- The minor code of an arithmetic operation; of the immediate form where the operation has only that one (R140). -/
def aluCode : AluOp → Nat
  | .add => 0x00 | .sub => 0x01 | .and => 0x02 | .or => 0x03 | .xor => 0x04 | .shl => 0x05 | .shr => 0x06 | .sra => 0x07
  | .mul => 0x08 | .mulhu => 0x09 | .mulhs => 0x0A | .min => 0x0B | .max => 0x0C | .minu => 0x0D | .maxu => 0x0E
  | .sel => 0x0F | .clz => 0x10 | .popc => 0x11 | .divu => 0x12 | .remu => 0x13 | .li => 0x10 | .shori => 0x11

/-- The comparison of majors 0x02 and 0x03 with a minor code (R143); `imm` asks for the immediate form. -/
def cmpOfCode (imm : Bool) : Nat → Option CmpOp
  | 0x00 => some .eq | 0x01 => some .ne | 0x02 => some .lt | 0x03 => some .ge | 0x04 => some .ltu | 0x05 => some .geu
  | 0x06 => if imm then none else some .flt
  | 0x07 => if imm then none else some .fge
  | 0x08 => if imm then none else some .pand
  | 0x09 => if imm then none else some .por
  | 0x0A => if imm then none else some .pxor
  | 0x0B => if imm then none else some .pandn
  | 0x0C => if imm then none else some .fnf
  | 0x10 => some .tst
  | _ => none

/-- The minor code of a comparison (R143). -/
def cmpCode : CmpOp → Nat
  | .eq => 0 | .ne => 1 | .lt => 2 | .ge => 3 | .ltu => 4 | .geu => 5 | .flt => 6 | .fge => 7
  | .pand => 8 | .por => 9 | .pxor => 0xA | .pandn => 0xB | .fnf => 0xC | .tst => 0x10

/-- Whether a comparison works on predicates (R144). -/
def CmpOp.onPreds : CmpOp → Bool
  | .pand | .por | .pxor | .pandn => true
  | _ => false

/-- The branch condition with a code (R145). -/
def condOfCode : Nat → Option Cond
  | 0 => some .always | 1 => some .pt | 2 => some .pf | 3 => some .z | 4 => some .nz | 5 => some .lt | 6 => some .ge
  | 7 => some .gt | 8 => some .le
  | _ => none

def condCode : Cond → Nat
  | .always => 0 | .pt => 1 | .pf => 2 | .z => 3 | .nz => 4 | .lt => 5 | .ge => 6 | .gt => 7 | .le => 8

/-- The scalar memory operation with a minor code (R153). -/
def memOfCode : Nat → Option MemOp
  | 0 => some .ld8u | 1 => some .ld16u | 2 => some .ld32u | 3 => some .ld64 | 4 => some .ld8s | 5 => some .ld16s
  | 6 => some .ld32s | 8 => some .st8 | 9 => some .st16 | 0xA => some .st32 | 0xB => some .st64 | 0xC => some .lda
  | _ => none

def memCode : MemOp → Nat
  | .ld8u => 0 | .ld16u => 1 | .ld32u => 2 | .ld64 => 3 | .ld8s => 4 | .ld16s => 5 | .ld32s => 6
  | .st8 => 8 | .st16 => 9 | .st32 => 0xA | .st64 => 0xB | .lda => 0xC

/-- The permitted file pair of a move, by DFILE and SFILE (R116, R152). -/
def movOfFiles (d s : Nat) : Option MovPair :=
  match d, s with
  | 0, 0 => some .ss | 0, 1 => some .sa | 1, 0 => some .as | 1, 1 => some .aa | 0, 2 => some .sp | 2, 0 => some .ps
  | 2, 2 => some .pp | 0, 5 => some .ssys | 3, 3 => some .dd
  | _, _ => none

/-- DFILE and SFILE of a move. -/
def movFiles : MovPair → Nat × Nat
  | .ss => (0, 0) | .sa => (0, 1) | .as => (1, 0) | .aa => (1, 1) | .sp => (0, 2) | .ps => (2, 0) | .pp => (2, 2)
  | .ssys => (0, 5) | .dd => (3, 3)

/-- Whether a move's registers and addend are ones that R117 and R152 permit. -/
def movOk (m : MovPair) (dst src : Fin 32) (imm : BitVec 16) : Bool :=
  match m with
  | .ss => true
  | .sa => src.val < 16
  | .as => dst.val < 16
  | .aa => dst.val < 16 && src.val < 16
  | .sp => src.val < 8 && imm == 0
  | .ps => dst.val < 8 && imm == 0
  | .pp => dst.val < 8 && src.val < 8 && imm == 0
  | .ssys => src.val < 7 && imm == 0
  | .dd => imm == 0

/-- The element-wise vector operation with a minor code (R236). -/
def vxElemOfCode : Nat → Option VxOp
  | 0x00 => some .add | 0x01 => some .sub | 0x02 => some .mul | 0x03 => some .mul3 | 0x04 => some .fma | 0x05 => some .fms
  | 0x06 => some .fnma | 0x07 => some .mas | 0x08 => some .max | 0x09 => some .min | 0x0A => some .abs | 0x0B => some .cvt
  | 0x0C => some .rcp | 0x0D => some .rsqrt | 0x0E => some .gt | 0x0F => some .sel | 0x10 => some .fill
  | _ => none

/-- The engine operation with a major and minor code (R122, R218-R226, R236-R258, R270, R371). -/
def engOfCode (maj min : Nat) : Option EngOp :=
  match maj, min with
  | 0x10, 0 => some (.mx .open) | 0x10, 1 => some (.mx .close) | 0x10, 2 => some (.mx .discard)
  | 0x11, 0 => some (.mx .pass) | 0x11, 1 => some (.mx .passr) | 0x11, 2 => some (.mx .passb)
  | 0x20, m => (vxElemOfCode m).map .vx
  | 0x21, 0 => some (.vx .ftld) | 0x21, 1 => some (.vx .fn) | 0x21, 2 => some (.vx .fnd) | 0x21, 3 => some (.vx .drop)
  | 0x22, 0 => some (.vx .rrow) | 0x22, 1 => some (.vx .rcol) | 0x22, 2 => some (.vx .scan)
  | 0x23, 0 => some (.vx .perm) | 0x23, 1 => some (.vx .shuf) | 0x23, 2 => some (.vx .pack) | 0x23, 3 => some (.vx .unpack)
  | 0x24, 0 => some (.vx .rescale) | 0x24, 1 => some (.vx .drain)
  | 0x28, m => (vxElemOfCode m).map .vxl
  | 0x29, 2 => some (.vxl .scan)
  | 0x30, 0 => some (.dv .copy) | 0x30, 1 => some (.dv .gather) | 0x30, 2 => some (.dv .scatter)
  | 0x30, 3 => some (.dv .scadd) | 0x30, 4 => some (.dv .coldupd)
  | 0x38, 0 => some (.lk .arm) | 0x38, 1 => some (.lk .go) | 0x38, 2 => some (.lk .barrier)
  | 0x39, 0 => some (.lk .put) | 0x39, 1 => some (.lk .get)
  | 0x3A, 0 => some (.lk .commit)
  | _, _ => none

/-- Major and minor code of a vector operation in descriptor form. -/
def vxCode : VxOp → Nat × Nat
  | .add => (0x20, 0x00) | .sub => (0x20, 0x01) | .mul => (0x20, 0x02) | .mul3 => (0x20, 0x03) | .fma => (0x20, 0x04)
  | .fms => (0x20, 0x05) | .fnma => (0x20, 0x06) | .mas => (0x20, 0x07) | .max => (0x20, 0x08) | .min => (0x20, 0x09)
  | .abs => (0x20, 0x0A) | .cvt => (0x20, 0x0B) | .rcp => (0x20, 0x0C) | .rsqrt => (0x20, 0x0D) | .gt => (0x20, 0x0E)
  | .sel => (0x20, 0x0F) | .fill => (0x20, 0x10)
  | .ftld => (0x21, 0) | .fn => (0x21, 1) | .fnd => (0x21, 2) | .drop => (0x21, 3)
  | .rrow => (0x22, 0) | .rcol => (0x22, 1) | .scan => (0x22, 2)
  | .perm => (0x23, 0) | .shuf => (0x23, 1) | .pack => (0x23, 2) | .unpack => (0x23, 3)
  | .rescale => (0x24, 0) | .drain => (0x24, 1)

/-- Major and minor code of an engine operation. -/
def engCode : EngOp → Nat × Nat
  | .mx .open => (0x10, 0) | .mx .close => (0x10, 1) | .mx .discard => (0x10, 2)
  | .mx .pass => (0x11, 0) | .mx .passr => (0x11, 1) | .mx .passb => (0x11, 2)
  | .vx v => vxCode v
  | .vxl .scan => (0x29, 2)
  | .vxl v => (0x28, (vxCode v).2)
  | .dv .copy => (0x30, 0) | .dv .gather => (0x30, 1) | .dv .scatter => (0x30, 2) | .dv .scadd => (0x30, 3)
  | .dv .coldupd => (0x30, 4)
  | .lk .arm => (0x38, 0) | .lk .go => (0x38, 1) | .lk .barrier => (0x38, 2)
  | .lk .put => (0x39, 0) | .lk .get => (0x39, 1) | .lk .commit => (0x3A, 0)

/-! ### The fields of CTRL (R115, R225, R270, R371) -/

/-- The vector CTRL field (R225). -/
def ctrlSdst (c : Nat) : Nat := fld c 18 5
def ctrlSumk (c : Nat) : Nat := fld c 15 3
def ctrlCons (c : Nat) : Bool := fld c 14 1 == 1
def ctrlOpd (c : Nat) : Nat := fld c 9 5
def ctrlRb (c : Nat) : Bool := fld c 8 1 == 1
def ctrlRc (c : Nat) : Bool := fld c 7 1 == 1
def ctrlRtz (c : Nat) : Bool := fld c 6 1 == 1
def ctrlImm (c : Nat) : Nat := fld c 0 6

/-- The element-wise operations, in the table of R236. -/
def VxOp.elem : VxOp → Bool
  | .rrow | .rcol | .scan | .perm | .shuf | .pack | .unpack | .rescale | .drain | .ftld | .fn | .fnd | .drop => false
  | _ => true

/-- How many sources an element-wise operation reads (R236). -/
def VxOp.sources : VxOp → Nat
  | .add | .sub | .mul | .max | .min | .gt => 2
  | .mul3 | .fma | .fms | .fnma | .mas | .sel => 3
  | .abs | .cvt | .rcp | .rsqrt => 1
  | _ => 0

/-- Whether a minor may have CONS = 1 (R226). -/
def VxOp.mayCons : VxOp → Bool
  | .fill | .rrow | .rcol | .scan | .shuf | .pack | .unpack | .ftld => false
  | _ => true

/-- Whether a vector instruction's fields are ones that R117, R225, R226, R242, R243, R250, R251 permit. -/
def vxOk (v : VxOp) (opa opb opc : Fin 32) (c : Nat) : Bool :=
  let imm := ctrlImm c
  let noRC := !ctrlRc c && ctrlOpd c == 0
  let base :=
    ctrlSumk c != 7 && !(ctrlSumk c == 0 && ctrlSdst c != 0)
    && (!ctrlCons c || (v.mayCons && opb.val == 0))
    && (!ctrlRtz c || v == .cvt)
  let own : Bool := match v with
    | .rrow | .rcol =>
      imm % 8 < 4 && (imm / 8 % 4 == 1 || imm / 8 % 4 == 2 || (!ctrlRb c && opc.val == 0)) && (imm / 8 % 4 == 2 || noRC)
    | .scan =>
      imm % 8 == 0 && imm < 32 && opa.val == 0
      && (imm / 8 % 4 == 1 || imm / 8 % 4 == 2 || (!ctrlRb c && opc.val == 0)) && (imm / 8 % 4 == 2 || noRC)
    | .perm => imm == 0 && noRC && !ctrlRb c && opc.val == 0
    | .shuf | .pack => imm == 0 && noRC && !ctrlRb c
    | .unpack => imm < 2 && noRC && !ctrlRb c && opc.val == 0
    | .rescale => imm == 0 && noRC && !ctrlRb c && ctrlCons c
    | .drain => imm == 0 && noRC && !ctrlRb c && ctrlCons c && opa.val == 0 && opc.val == 0
    | .ftld => imm < 2 && noRC && !ctrlRb c && opa.val == 0 && opc.val == 0
    | .fn => imm % 32 == 0 && noRC && (imm / 32 == 1 || (!ctrlRb c && opc.val == 0))
    | .fnd => imm == 0 && noRC
    | .drop => !ctrlRb c && !ctrlRc c
    | .fill => imm == 0 && !ctrlRb c && !ctrlRc c && opb.val == 0 && opc.val == 0
    | v =>
      (v.sources == 3 || noRC) && (2 ≤ v.sources || (!ctrlRb c && opc.val == 0)) && ((v != .gt && v != .sel) || imm == 0)
  base && own

/-- Whether an engine instruction's fields are ones that R117 permits (R218, R220, R225, R258, R270, R371). -/
def engOk (op : EngOp) (opa opb opc : Fin 32) (c : Nat) : Bool :=
  match op with
  | .mx .open => opb.val == 0 && opc.val == 0 && fld c 13 7 ≤ 64 && fld c 0 13 == 0
  | .mx .close => opa.val == 0 && opb.val == 0 && opc.val == 0 && fld c 13 7 == 0 && fld c 0 8 == 0
  | .mx .discard => opa.val == 0 && opb.val == 0 && opc.val == 0 && fld c 0 20 == 0
  | .mx .pass => opc.val == 0 && fld c 0 10 == 0
  | .mx _ => fld c 0 10 == 0
  | .vx v => vxOk v opa opb opc c
  | .vxl v => (v.elem || v == .scan) && vxOk v opa opb opc c && !ctrlCons c && !ctrlRb c && !ctrlRc c
  | .dv d =>
    fld c 0 2 == 0 && fld c 11 2 != 3 && (fld c 13 2 != 0 || fld c 15 8 == 0) && (d != .copy || opc.val == 0)
  | .lk .arm => opb.val == 0 && opc.val == 0 && fld c 18 5 == 0 && fld c 0 12 == 0
  | .lk .go => opa.val == 0 && opb.val == 0 && opc.val == 0 && fld c 0 12 == 0
  | .lk .barrier => opa.val == 0 && opb.val == 0 && opc.val == 0 && fld c 0 23 == 0
  | .lk .commit => opa.val == 0 && opb.val == 0 && opc.val == 0 && fld c 0 16 == 0
  | .lk _ => fld c 16 2 != 0 && fld c 0 16 == 0

/-! ### Decoding -/

/-- The operands of a sequencer group, from MAJOR, MINOR and the word (R122, R140-R160). R117 makes a word undefined for its reserved codes and for operand
fields that a table marks reserved. An operand field that an instruction does not use, and that no table marks reserved, is accepted at any value and
ignored: DST, SRCA and SRCB of nop, halt, event and icinv where unused; DST[4] of fence and DST[4:1] of mode; SRCB of clz, popc and fnf; SRCA of b and
call under a condition on a predicate, and PSEL under one on a register; DST of ret; IMM16 of dget; N of tget; OPC of lk.put and lk.get (DESIGN CHOICE, log
51). -/
def kBody (maj min w : Nat) : Option KBody :=
  let dst := fld w 33 5
  let a := fld w 28 5
  let b := fld w 23 5
  let c := fld w 18 5
  match maj with
  | 0x00 =>
    match aluOfCode min with
    | some op =>
      if fld w 0 18 = 0 ∧ (if op = .sel then c < 8 else c = 0) then some (.alu op (fin32 dst) (fin32 a) (fin32 b) (fin8 c))
      else none
    | none => none
  | 0x01 =>
    match aluIOfCode min with
    | some op =>
      if op = .li ∧ a ≠ 0 then none else some (.aluI op (fin32 dst) (fin32 a) (BitVec.ofNat 28 (fld w 0 28)))
    | none => none
  | 0x02 =>
    match cmpOfCode false min with
    | some op =>
      if fld w 0 23 = 0 ∧ dst < 8 ∧ (op.onPreds = true → a < 8 ∧ b < 8) then
        some (.cmp op (fin8 dst) (fin32 a) (fin32 b))
      else none
    | none => none
  | 0x03 =>
    match cmpOfCode true min with
    | some op => if dst < 8 then some (.cmpI op (fin8 dst) (fin32 a) (BitVec.ofNat 28 (fld w 0 28))) else none
    | none => none
  | 0x04 =>
    match condOfCode (fld w 26 4) with
    | none => none
    | some cond =>
      let off := BitVec.ofNat 26 (fld w 0 26)
      match min with
      | 0 => some (.br false cond (fin32 dst) (fin8 (fld w 30 3)) off)
      | 1 => some (.br true cond (fin32 dst) (fin8 (fld w 30 3)) off)
      | 2 => if fld w 0 30 = 0 ∧ dst < 16 then some (.jr (fin16 dst)) else none
      | 3 => if fld w 0 30 = 0 then some .ret else none
      | _ => none
  | 0x05 =>
    let k := fin64 (fld w 22 6)
    if a = 0 ∧ fld w 8 14 = 0 then
      match min with
      | 0 => if dst = 0 then some (.tset k (fin256 (fld w 0 8))) else none
      | 1 => if dst = 0 then some (.tadd k (fin256 (fld w 0 8))) else none
      | 2 => some (.tget (fin32 dst) k)
      | _ => none
    else none
  | 0x06 =>
    if fld w 0 18 = 0 then
      match min with
      | 0 => some .nop
      | 1 => some (.halt (fin32 a))
      | 2 => some (.fence (fin16 dst))
      | 3 => some (.event (fin32 a))
      | 4 => some (.mode (dst % 2 = 1))
      | 5 => some (.setvl (fin32 dst) (fin32 a))
      | 6 => some .icinv
      | 7 => if a < 16 then some (.icpf (fin16 a) (fin32 b)) else none
      | _ => none
    else none
  | 0x07 =>
    match movOfFiles (fld w 35 3) (fld w 27 3) with
    | some m =>
      let d := fin32 (fld w 30 5)
      let s := fin32 (fld w 22 5)
      let imm := BitVec.ofNat 16 (fld w 0 16)
      if min = 0 ∧ fld w 16 6 = 0 ∧ movOk m d s imm = true then some (.mov m d s imm) else none
    | none => none
  | 0x08 =>
    match memOfCode min with
    | some op =>
      if a < 16 ∧ (op = .lda → dst < 16) then some (.mem op (fin32 dst) (fin16 a) (BitVec.ofNat 28 (fld w 0 28))) else none
    | none => none
  | 0x09 =>
    let df := fld w 35 3
    let sf := fld w 27 3
    let d := fld w 30 5
    let s := fld w 22 5
    let f := fld w 16 6
    let imm := BitVec.ofNat 16 (fld w 0 16)
    match min with
    | 0 => if df = 3 ∧ sf = 1 ∧ s < 16 ∧ f = 0 then some (.dld (fin32 d) (fin16 s) imm) else none
    | 1 => if df = 3 ∧ sf = 1 ∧ s < 16 ∧ f = 0 then some (.dst (fin32 d) (fin16 s) imm) else none
    | 2 => if df = 3 ∧ sf = 0 ∧ f < 14 then some (.dset (fin32 d) (fin32 s) (fin14 f) imm) else none
    | 3 => if df = 0 ∧ sf = 3 ∧ f < 14 then some (.dget (fin32 d) (fin32 s) (fin14 f)) else none
    | 4 => if df = 3 ∧ sf = 0 ∧ f = 0 then some (.dadd (fin32 d) (fin32 s) imm) else none
    | _ => none
  | maj =>
    match engOfCode maj min with
    | some op =>
      if engOk op (fin32 dst) (fin32 a) (fin32 b) (fld w 0 23) = true then
        some (.eng op (fin32 dst) (fin32 a) (fin32 b) (BitVec.ofNat 23 (fld w 0 23)))
      else none
    | none => none

/-- Decodes an instruction word (R112); none where R117 makes the word undefined. -/
def kDecode (w : Word) : Option KInsn :=
  let n := w.toNat
  match kBody (fld n 58 6) (fld n 53 5) n with
  | some body => some ⟨fin8 (fld n 50 3), fin64 (fld n 44 6), fin64 (fld n 38 6), body⟩
  | none => none

/-! ### Encoding -/

/-- MAJOR, MINOR and the operand bits [37:0] of an instruction body. -/
def kParts : KBody → Nat × Nat × Nat
  | .alu op d a b c => (0x00, aluCode op, d.val * 2 ^ 33 + a.val * 2 ^ 28 + b.val * 2 ^ 23 + c.val * 2 ^ 18)
  | .aluI op d a imm => (0x01, aluCode op, d.val * 2 ^ 33 + a.val * 2 ^ 28 + imm.toNat)
  | .cmp op d a b => (0x02, cmpCode op, d.val * 2 ^ 33 + a.val * 2 ^ 28 + b.val * 2 ^ 23)
  | .cmpI op d a imm => (0x03, cmpCode op, d.val * 2 ^ 33 + a.val * 2 ^ 28 + imm.toNat)
  | .br link cond s p off =>
    (0x04, if link then 1 else 0, s.val * 2 ^ 33 + p.val * 2 ^ 30 + condCode cond * 2 ^ 26 + off.toNat)
  | .jr a => (0x04, 2, a.val * 2 ^ 33)
  | .ret => (0x04, 3, 0)
  | .tset k n => (0x05, 0, k.val * 2 ^ 22 + n.val)
  | .tadd k n => (0x05, 1, k.val * 2 ^ 22 + n.val)
  | .tget d k => (0x05, 2, d.val * 2 ^ 33 + k.val * 2 ^ 22)
  | .nop => (0x06, 0, 0)
  | .halt a => (0x06, 1, a.val * 2 ^ 28)
  | .fence m => (0x06, 2, m.val * 2 ^ 33)
  | .event a => (0x06, 3, a.val * 2 ^ 28)
  | .mode m => (0x06, 4, if m then 2 ^ 33 else 0)
  | .setvl d a => (0x06, 5, d.val * 2 ^ 33 + a.val * 2 ^ 28)
  | .icinv => (0x06, 6, 0)
  | .icpf a b => (0x06, 7, a.val * 2 ^ 28 + b.val * 2 ^ 23)
  | .mov m d s imm => (0x07, 0, (movFiles m).1 * 2 ^ 35 + d.val * 2 ^ 30 + (movFiles m).2 * 2 ^ 27 + s.val * 2 ^ 22 + imm.toNat)
  | .mem op d a imm => (0x08, memCode op, d.val * 2 ^ 33 + a.val * 2 ^ 28 + imm.toNat)
  | .dld d a imm => (0x09, 0, 3 * 2 ^ 35 + d.val * 2 ^ 30 + 2 ^ 27 + a.val * 2 ^ 22 + imm.toNat)
  | .dst d a imm => (0x09, 1, 3 * 2 ^ 35 + d.val * 2 ^ 30 + 2 ^ 27 + a.val * 2 ^ 22 + imm.toNat)
  | .dset d s f imm => (0x09, 2, 3 * 2 ^ 35 + d.val * 2 ^ 30 + s.val * 2 ^ 22 + f.val * 2 ^ 16 + imm.toNat)
  | .dget s d f => (0x09, 3, s.val * 2 ^ 30 + 3 * 2 ^ 27 + d.val * 2 ^ 22 + f.val * 2 ^ 16)
  | .dadd d s imm => (0x09, 4, 3 * 2 ^ 35 + d.val * 2 ^ 30 + s.val * 2 ^ 22 + imm.toNat)
  | .eng op x y z c =>
    ((engCode op).1, (engCode op).2, x.val * 2 ^ 33 + y.val * 2 ^ 28 + z.val * 2 ^ 23 + c.toNat)

/-- The word of an instruction (R112). -/
def kEncode (i : KInsn) : Word :=
  let p := kParts i.body
  BitVec.ofNat 64 (p.1 * 2 ^ 58 + p.2.1 * 2 ^ 53 + i.pred.val * 2 ^ 50 + i.wait.val * 2 ^ 44 + i.signal.val * 2 ^ 38 + p.2.2)

end Sys2Proof
end

