-- ==== Sys2Proof/Machine/Num.lean ====
section
/-!
DEFINITION. Exact values and their one rounding (R80-R84, R94-R97, R187): element values as signed dyadic numbers,
exact results as rationals or square roots of rationals, and the rounding of an exact result to a binary format.
-/
namespace Sys2Proof

/-- An exact element value: a NaN or an infinity with its sign, or `(-1)^neg * m * 2^e` (zero keeps its sign). -/
inductive Val where
  | nan (neg : Bool)
  | inf (neg : Bool)
  | fin (neg : Bool) (m : Nat) (e : Int)
  deriving DecidableEq, Repr

/-- An exact magnitude: `num / den`, or its square root. -/
structure Mag where
  num : Nat
  den : Nat
  root : Bool
  deriving DecidableEq, Repr

/-- An exact result, before its rounding. -/
inductive Res where
  | nan (neg : Bool)
  | inf (neg : Bool)
  | fin (neg : Bool) (x : Mag)
  deriving DecidableEq, Repr

/-- How a rounding decides (R95, R187, R319): to nearest with ties to even, toward zero, away from zero (an amax,
whose values are not negative), to nearest with ties to the larger magnitude (a cell-row with its sticky bit set). -/
inductive Rm where
  | rne | rtz | up | rna
  deriving DecidableEq, Repr

/-- The integer part of the square root of `n`, found bit by bit from bit `b` on top of `r`. -/
def isqrtGo (n : Nat) : Nat → Nat → Nat
  | 0, r => if (r + 1) * (r + 1) ≤ n then r + 1 else r
  | b + 1, r =>
    let r' := r + 2 ^ (b + 1)
    if r' * r' ≤ n then isqrtGo n b r' else isqrtGo n b r

/-- The integer part of the square root of `n`. -/
def isqrt (n : Nat) : Nat := isqrtGo n (Nat.log2 n / 2 + 1) 0

/-- `m * 2^e` as a magnitude. -/
def Mag.dyadic (m : Nat) (e : Int) : Mag :=
  if 0 ≤ e then ⟨m * 2 ^ e.toNat, 1, false⟩ else ⟨m, 2 ^ (-e).toNat, false⟩

/-- Scales by a power of two. -/
def Mag.shift (x : Mag) (k : Int) : Mag :=
  let k := if x.root then 2 * k else k
  if 0 ≤ k then { x with num := x.num * 2 ^ k.toNat } else { x with den := x.den * 2 ^ (-k).toNat }

/-- Whether `num / den < 2^k`. -/
def ratLtPow (num den : Nat) (k : Int) : Bool :=
  if 0 ≤ k then num < den * 2 ^ k.toNat else num * 2 ^ (-k).toNat < den

/-- floor(log2 (num / den)), for a positive quotient. -/
def ratFloorLog2 (num den : Nat) : Int :=
  let k : Int := (Nat.log2 num : Int) - (Nat.log2 den : Int)
  if ratLtPow num den k then k - 1 else k

/-- floor(log2 x) of a positive magnitude. -/
def Mag.floorLog2 (x : Mag) : Int :=
  let k := ratFloorLog2 x.num x.den
  if x.root then Int.fdiv k 2 else k

/-- ceil(log2 x) of a positive magnitude (R92, R101, evaluated exactly). -/
def Mag.ceilLog2 (x : Mag) : Int :=
  let k := x.floorLog2
  let j := if x.root then 2 * k else k
  let exact := if 0 ≤ j then x.num = x.den * 2 ^ j.toNat else x.num * 2 ^ (-j).toNat = x.den
  if exact then k else k + 1

/-- `(floor (x / 2^u), whether something remains)`. -/
def Mag.floorAt (x : Mag) (u : Int) : Nat × Bool :=
  let k := if x.root then 2 * u else u
  let n := if 0 ≤ k then x.num else x.num * 2 ^ (-k).toNat
  let d := if 0 ≤ k then x.den * 2 ^ k.toNat else x.den
  if x.root then
    let h := isqrt (n / d)
    (h, !(h * h * d == n))
  else (n / d, !(n % d == 0))

/-- Rounds a magnitude to a multiple of `2^u`: the multiple. -/
def Mag.roundAt (rm : Rm) (x : Mag) (u : Int) : Nat :=
  let (h, sticky) := x.floorAt (u - 1)
  let t := h / 2
  let half := h % 2 = 1
  let up : Bool := match rm with
    | .rne => half && (sticky || t % 2 = 1)
    | .rna => half
    | .rtz => false
    | .up => half || sticky
  if up then t + 1 else t

/-- Whether a magnitude is above, below or equal to a dyadic one: compares `x` with `m * 2^e`. -/
def Mag.cmp (x : Mag) (m : Nat) (e : Int) : Ordering :=
  let y := Mag.dyadic m e
  if x.root then compare (x.num * (y.den * y.den)) (y.num * y.num * x.den)
  else compare (x.num * y.den) (y.num * x.den)

/-- The nearest integer at or below a magnitude's rounding: the magnitude rounded to an integer. -/
def Mag.toInt (rm : Rm) (x : Mag) : Nat := x.roundAt rm 0

/-! ### Exact arithmetic (R84, R190, R237) -/

/-- The sign of a value. -/
def Val.sign : Val → Bool
  | .nan n => n
  | .inf n => n
  | .fin n _ _ => n

/-- The value with its sign changed; a NaN keeps its own (R84: it carries its operand's sign). -/
def Val.negate : Val → Val
  | .nan n => .nan n
  | .inf n => .inf (!n)
  | .fin n m e => .fin (!n) m e

/-- The magnitude of a value; a NaN becomes positive (R237). -/
def Val.abs : Val → Val
  | .nan _ => .nan false
  | .inf _ => .inf false
  | .fin _ m e => .fin false m e

/-- Scales by `2^k`. -/
def Val.shift (v : Val) (k : Int) : Val :=
  match v with
  | .fin n m e => .fin n m (e + k)
  | v => v

def Val.isNan : Val → Bool
  | .nan _ => true
  | _ => false

def Val.isInf : Val → Bool
  | .inf _ => true
  | _ => false

def Val.isFin : Val → Bool
  | .fin _ _ _ => true
  | _ => false

def Val.isZero : Val → Bool
  | .fin _ 0 _ => true
  | _ => false

/-- Positive zero. -/
def Val.zero : Val := .fin false 0 0

/-- The integer value of a finite value at exponent `e0`, at most its own exponent. -/
def Val.intAt (v : Val) (e0 : Int) : Int :=
  match v with
  | .fin n m e => let k : Nat := m * 2 ^ (e - e0).toNat; if n then -(k : Int) else (k : Int)
  | _ => 0

/-- A signed integer times `2^e`, with the sign an exact zero takes (R189). -/
def Val.ofInt (zneg : Bool) (i : Int) (e : Int) : Val :=
  if i = 0 then .fin zneg 0 0 else .fin (i < 0) i.natAbs e

/-- The exact sum. The first NaN is carried forward; infinities of opposite sign give the positive NaN (R84);
an exact zero is +0 unless both terms are negative zeros (R189). -/
def Val.add (a b : Val) : Val :=
  match a, b with
  | .nan n, _ => .nan n
  | _, .nan n => .nan n
  | .inf n, .inf k => if n = k then .inf n else .nan false
  | .inf n, _ => .inf n
  | _, .inf n => .inf n
  | .fin n1 m1 e1, .fin n2 m2 e2 =>
    let e := min e1 e2
    Val.ofInt (n1 && n2 && m1 = 0 && m2 = 0) ((Val.fin n1 m1 e1).intAt e + (Val.fin n2 m2 e2).intAt e) e

/-- The exact product; an infinity times a zero is the positive NaN (R84). -/
def Val.mul (a b : Val) : Val :=
  match a, b with
  | .nan n, _ => .nan n
  | _, .nan n => .nan n
  | .inf n, .inf k => .inf (n != k)
  | .inf n, .fin k m _ => if m = 0 then .nan false else .inf (n != k)
  | .fin k m _, .inf n => if m = 0 then .nan false else .inf (n != k)
  | .fin n1 m1 e1, .fin n2 m2 e2 => .fin (n1 != n2) (m1 * m2) (e1 + e2)

/-- `a - b`, exact. A NaN in `b` keeps its sign. -/
def Val.sub (a b : Val) : Val := a.add b.negate

/-- Whether `a < b` as real numbers; false when either is a NaN; zeros are equal. -/
def Val.lt (a b : Val) : Bool :=
  match a, b with
  | .nan _, _ => false
  | _, .nan _ => false
  | .inf n, .inf k => n && !k
  | .inf n, _ => n
  | _, .inf n => !n
  | .fin n1 m1 e1, .fin n2 m2 e2 =>
    let e := min e1 e2
    (Val.fin n1 m1 e1).intAt e < (Val.fin n2 m2 e2).intAt e

/-- The larger of two values: a NaN wins, and +0 counts as larger than -0 (R237). -/
def Val.max (a b : Val) : Val :=
  match a, b with
  | .nan n, _ => .nan n
  | _, .nan n => .nan n
  | a, b => if a.lt b then b else if b.lt a then a else if a.sign then b else a

/-- The smaller of two values: a NaN wins, and -0 counts as smaller than +0 (R237). -/
def Val.min (a b : Val) : Val :=
  match a, b with
  | .nan n, _ => .nan n
  | _, .nan n => .nan n
  | a, b => if a.lt b then a else if b.lt a then b else if a.sign then a else b

/-- A value as an exact result. -/
def Val.toRes : Val → Res
  | .nan n => .nan n
  | .inf n => .inf n
  | .fin n m e => .fin n (Mag.dyadic m e)

/-- A result scaled by `2^k`. -/
def Res.shift (r : Res) (k : Int) : Res :=
  match r with
  | .fin n x => .fin n (x.shift k)
  | r => r

def Res.isFin : Res → Bool
  | .fin _ _ => true
  | _ => false

def Res.sign : Res → Bool
  | .nan n => n
  | .inf n => n
  | .fin n _ => n

def Res.isZero : Res → Bool
  | .fin _ x => x.num = 0
  | _ => false

/-- The exact quotient `a / b`. A zero divisor gives the infinity of IEEE 754, 0 / 0 and inf / inf the positive NaN. -/
def Val.div (a b : Val) : Res :=
  match a, b with
  | .nan n, _ => .nan n
  | _, .nan n => .nan n
  | .inf _, .inf _ => .nan false
  | .inf n, .fin k _ _ => .inf (n != k)
  | .fin n _ _, .inf k => .fin (n != k) ⟨0, 1, false⟩
  | .fin n1 m1 e1, .fin n2 m2 e2 =>
    if m2 = 0 then (if m1 = 0 then .nan false else .inf (n1 != n2))
    else
      let a := Mag.dyadic m1 e1
      let b := Mag.dyadic m2 e2
      .fin (n1 != n2) ⟨a.num * b.den, a.den * b.num, false⟩

/-- `1 / a` (R237: rcp of a zero is an infinity, of an infinity a zero). -/
def Val.rcp (a : Val) : Res := Val.div (.fin false 1 0) a

/-- The square root of a value not below zero; of a value below zero the positive NaN (R84). -/
def Val.sqrt (a : Val) : Res :=
  match a with
  | .nan n => .nan n
  | .inf n => if n then .nan false else .inf false
  | .fin n m e =>
    if m = 0 then .fin n ⟨0, 1, false⟩
    else if n then .nan false
    else .fin false { Mag.dyadic m e with root := true }

/-- `1 / sqrt a` (R237). -/
def Val.rsqrt (a : Val) : Res :=
  match a with
  | .nan n => .nan n
  | .inf n => if n then .nan false else .fin false ⟨0, 1, false⟩
  | .fin n m e =>
    if m = 0 then .inf n
    else if n then .nan false
    else let x := Mag.dyadic m e; .fin false ⟨x.den, x.num, true⟩

/-! ### Floating-point formats (R80, R81) -/

/-- A binary floating-point layout: exponent bits, fraction bits, bias, and the largest finite value
`maxM * 2^maxE` (R80). -/
structure FpFmt where
  eBits : Nat
  fBits : Nat
  bias : Int
  maxM : Nat
  maxE : Int
  deriving DecidableEq, Repr

def fpFP32 : FpFmt := ⟨8, 23, 127, 2 ^ 24 - 1, 104⟩
def fpBF16 : FpFmt := ⟨8, 7, 127, 2 ^ 8 - 1, 120⟩
def fpFP16 : FpFmt := ⟨5, 10, 15, 2 ^ 11 - 1, 5⟩
def fpE4M3 : FpFmt := ⟨4, 3, 7, 14, 5⟩
def fpE5M2 : FpFmt := ⟨5, 2, 15, 7, 13⟩
def fpE2M1 : FpFmt := ⟨2, 1, 1, 3, 1⟩

/-- The spacing exponent of the values near `x`: subnormal spacing below the smallest normal (R96). -/
def FpFmt.ulp (f : FpFmt) (x : Mag) : Int :=
  max (x.floorLog2 - f.fBits) (1 - f.bias - f.fBits)

/-- The code of the finite magnitude `t * 2^u` in format `f`, without its sign; `t` has at most one bit more than the
fraction, and `u` is the spacing it was rounded at. -/
def FpFmt.encode (f : FpFmt) (t : Nat) (u : Int) : Nat :=
  let (t, u) := if t = 2 ^ (f.fBits + 1) then (2 ^ f.fBits, u + 1) else (t, u)
  if t < 2 ^ f.fBits then t
  else ((u + f.fBits + f.bias).toNat) * 2 ^ f.fBits + (t - 2 ^ f.fBits)

/-- The code of the largest finite magnitude. -/
def FpFmt.maxCode (f : FpFmt) : Nat := f.encode (f.maxM * 2 ^ (f.fBits + 1 - Nat.log2 f.maxM - 1)) (f.maxE - (f.fBits + 1 - Nat.log2 f.maxM - 1 : Nat))

/-- What one rounding counts (R96-R99). -/
inductive Count where
  | none | sat | ftz | nf
  deriving DecidableEq, Repr

/-- Rounds a positive or zero magnitude into `f`: its code without sign, and what it counts. An overflow writes the
largest finite value (R96). -/
def FpFmt.round (f : FpFmt) (rm : Rm) (x : Mag) : Nat × Count :=
  if x.num = 0 then (0, .none)
  else
    let u := f.ulp x
    let t := x.roundAt rm u
    if t = 0 then (0, .ftz)
    else if (Mag.dyadic t u).cmp f.maxM f.maxE = .gt then (f.maxCode, .sat)
    else (f.encode t u, .none)

/-- The value of a code of `f` that is neither an infinity nor a NaN (R81). -/
def FpFmt.value (f : FpFmt) (code : Nat) : Val :=
  let neg := code / 2 ^ (f.eBits + f.fBits) % 2 = 1
  let e := code / 2 ^ f.fBits % 2 ^ f.eBits
  let fr := code % 2 ^ f.fBits
  if e = 0 then .fin neg fr (1 - f.bias - f.fBits)
  else .fin neg (2 ^ f.fBits + fr) ((e : Int) - f.bias - f.fBits)

/-- The value of a code of an IEEE-style format, whose top exponent holds infinities and NaNs (R80). -/
def FpFmt.ieee (f : FpFmt) (code : Nat) : Val :=
  let neg := code / 2 ^ (f.eBits + f.fBits) % 2 = 1
  let e := code / 2 ^ f.fBits % 2 ^ f.eBits
  let fr := code % 2 ^ f.fBits
  if e = 2 ^ f.eBits - 1 then (if fr = 0 then .inf neg else .nan neg) else f.value code

/-! ### FP32 (the format of every sum) -/

abbrev F32 := BitVec 32

/-- The value of an FP32 word. -/
def f32Val (x : F32) : Val := fpFP32.ieee x.toNat

/-- The canonical FP32 NaN with a sign (R84). -/
def f32Nan (neg : Bool) : F32 := if neg then 0xFFC00000 else 0x7FC00000

/-- The FP32 infinity with a sign. -/
def f32Inf (neg : Bool) : F32 := if neg then 0xFF800000 else 0x7F800000

/-- Rounds an exact result once to FP32 by `rm`: the word and what it counts (R94, R96, R99). -/
def f32RoundC (rm : Rm) (r : Res) : F32 × Count :=
  match r with
  | .nan n => (f32Nan n, .nf)
  | .inf n => (f32Inf n, .nf)
  | .fin n x =>
    let (c, k) := fpFP32.round rm x
    (BitVec.ofNat 32 (c + if n then 2 ^ 31 else 0), k)

/-- RNE_FP32 of an exact result. -/
def f32Round (r : Res) : F32 := (f32RoundC .rne r).1

/-- RNE_FP32 of an exact value. -/
def f32Of (v : Val) : F32 := f32Round v.toRes

/-- The FP32 sum, rounded once. -/
def f32Add (a b : F32) : F32 := f32Of ((f32Val a).add (f32Val b))

/-- The FP32 difference, rounded once. -/
def f32Sub (a b : F32) : F32 := f32Of ((f32Val a).sub (f32Val b))

/-- The FP32 product, rounded once. -/
def f32Mul (a b : F32) : F32 := f32Of ((f32Val a).mul (f32Val b))

/-- Whether an FP32 word is a NaN or an infinity (R143 fnf). -/
def f32NonFinite (x : F32) : Bool := !(f32Val x).isFin

/-- Whether `a < b` as FP32 (R143 flt); false when either is a NaN. -/
def f32Lt (a b : F32) : Bool := (f32Val a).lt (f32Val b)

/-- Whether `a ≥ b` as FP32 (R143 fge); false when either is a NaN. -/
def f32Ge (a b : F32) : Bool :=
  !(f32Val a).isNan && !(f32Val b).isNan && !(f32Val a).lt (f32Val b)

/-- A magnitude rounded once to FP32 toward plus infinity and held at the largest finite value (R319, R323). -/
def f32Up (x : Mag) : F32 := BitVec.ofNat 32 (fpFP32.round .up x).1

/-- The positive magnitude of a finite FP32 word. -/
def f32Mag (x : F32) : Mag :=
  match f32Val x with
  | .fin _ m e => Mag.dyadic m e
  | _ => ⟨0, 1, false⟩

end Sys2Proof
end

