-- ==== Sys2Proof/Machine/RegMap.lean ====
section
/-!
DEFINITION. The control-register map (R11, R14, R18, R469): every register of the control window, its place, which of its
bits have which access type, and its value after a cold reset. The rows follow the block tables and the register
tables of the chapters.
-/
namespace Sys2Proof

/-- The registers of the control window; an indexed register is one name. -/
inductive RegName where
  | idIdent | idRoles | idPort | idTime | idMemwin | idHbmRegion
  | idPaddock | idAddrFault | idWringBase | idWringCtrl | idWringHead | idWringDb
  | shmCmd | shmArg | shmStatus | shmResult | shmFw | evtRingBase
  | evtRingCtrl | evtRingHead | evtRingTail | evtModerate | evtLost | evtEnable
  | evtRoute | evtSnapCtrl | evtSnapTime | evtProgState | evtProgPos | evtProgTotal
  | evtMsix | evtPba | clkStatus | clkCap | clkPower | clkThrottle
  | clkTherm | clkReset | clkCoolant | clkTemp | denModule | denArb
  | denRouteCtrl | denStatus | denLatePartial | denNoCtx | denUnreach | denRetry
  | denPortCtrl | denPortStatus | denLaneStatus | denRing | denWaveCfg | denWaveTree
  | denWaveStatus | denWaveResolve | denWaveLast | denWaveChild | denXferCtrl | denXferStatus
  | denRouteA | denRouteB | farCfg | farRound | farNextEnd | farSeg
  | farArea | farAreaSize | farOuter | farApplyCfg | farApplyWait | farStatus
  | farContrib | farTimers | farJob | farFbuf | farFbufUse | farAdmit
  | farClassQ | farClassUse | farStaleW | farTally | farPortCfg | farPortAddrHi
  | farPortAddrLo | farPortMac | farPortOwnMac | farChanCfg | farChanPeerHi | farChanPeerLo
  | farChanQuota | farChanUse | farChanRate | farChanRtt | farChanState | cipKeystore
  | cipCtxCfg | cipTally | cipEngine | cipPlock | cipPop | cipPsrc
  | cipPdst | cipPlen | cipPseq | cipPstatus | ledBase | ledCommit
  | ledStep | ledClose | ledInit | ledNorm | ledNormTh | ledNormOut
  | ledDigestKeyLo | ledDigestKeyHi | ledQSat | ledQFtz | ledQNf | ledRunCtrl
  | ledRunLoss | ledRunStats | ledRunStatus | ledFlock | ledFlockSlots | ledFlockStatus
  | ledFlockDigestLo | ledFlockDigestHi | ledFlockMember | drvEngineOwn | drvHostFault | drvIdxOor
  | drvQueueBase | drvQueueCtrl | drvQueueHead | drvQueueTail | drvHostBufBase | drvHostBufSize
  | drvDigestOrigin | drvDigestLo | drvDigestHi | drvFlashCap | drvFlashCtrl | drvFlashStatus
  | drvFlashWearBytes | drvFlashWear | drvFlashCompact | tileDieInfo | tileHarvestMap | tileLtMap
  | tileTileCfg | tileTileStatus | tileStartPc | tileSeqCtrl | tilePc | tileSeqStatus
  | tileWatchdog | tileToken | tileMxState | tileMxLastClose | tileMxAccLong | tileVxState
  | tileVxFtId | tileNumSat | tileNumFtz | tileNumNf
  deriving DecidableEq, Repr

/-- One register (or indexed family of registers). `dims` gives the stride and the number of each index, outermost
first; the smallest innermost index that exists is `lo`. The masks name the bits of each access type (R14): `rw`, `w1c`, `rc`,
`wo`, and `rsv` the reserved bits (R8); a bit in none of them is RO. -/
structure RegRow where
  base : Nat
  dims : List (Nat × Nat)
  lo : Nat
  rw : Nat
  w1c : Nat
  rc : Nat
  wo : Nat
  rsv : Nat
  reset : Nat
  deriving DecidableEq, Repr

/-- The row of a register: offset in the control window, masks, reset value (0 where the value is a fuse, a strap or
computed from the state). -/
def regRow : RegName → RegRow
  | .idIdent => ⟨0, [], 0, 0, 0, 0, 0, 0xffff, 0⟩
  | .idRoles => ⟨8, [], 0, 0, 0, 0, 0, 0xffffffff00000000, 0⟩
  | .idPort => ⟨0x10, [], 0, 0, 0, 0, 0, 0xfffffffffffffffe, 0⟩
  | .idTime => ⟨0x18, [], 0, 0, 0, 0, 0, 0, 0⟩
  | .idMemwin => ⟨0x20, [(0x8, 2)], 0, 0xffffc0000000, 0, 0, 0, 0xffff00003fffffff, 0⟩
  | .idHbmRegion => ⟨0x10000, [(0x8, 1024)], 0, 0xe73ff, 0, 0, 0, 0xfffffffffff18c00, 0⟩
  | .idPaddock => ⟨0x20000, [], 0, 0x10000, 0x100000, 0, 0, 0xffffffffffe2f800, 0⟩
  | .idAddrFault => ⟨0x20008, [], 0, 0, 0xc000000000000000, 0, 0, 0x3cff000000000000, 0⟩
  | .idWringBase => ⟨0x30000, [(0x20, 64)], 0, 0xfffffffffffff000, 0, 0, 0, 0xfff, 0⟩
  | .idWringCtrl => ⟨0x30008, [(0x20, 64)], 0, 0x81000000001f0000, 0x4000000000000000, 0, 0, 0x1effffffffe0ffff, 0x40000⟩
  | .idWringHead => ⟨0x30010, [(0x20, 64)], 0, 0, 0, 0, 0, 0xffffffff00000000, 0⟩
  | .idWringDb => ⟨0x40000, [(0x8, 64)], 0, 0xffffffff, 0, 0, 0, 0xffffffff00000000, 0⟩
  | .shmCmd => ⟨0x100000, [], 0, 0xff, 0x2000000000000000, 0, 0x8000000000000000, 0x1fffffffffffff00, 0⟩
  | .shmArg => ⟨0x100008, [(0x8, 4)], 0, 0xffffffffffffffff, 0, 0, 0, 0, 0⟩
  | .shmStatus => ⟨0x100028, [], 0, 0, 0x1000000000000000, 0, 0, 0xf00ffffffffffff, 0⟩
  | .shmResult => ⟨0x100030, [], 0, 0, 0, 0, 0, 0, 0⟩
  | .shmFw => ⟨0x100038, [], 0, 0, 0, 0, 0, 0xff00000000, 0x100000000000⟩
  | .evtRingBase => ⟨0x200000, [], 0, 0xfffffffffffff000, 0, 0, 0, 0xfff, 0⟩
  | .evtRingCtrl => ⟨0x200008, [], 0, 0x81000000001f0000, 0x4000000000000000, 0, 0, 0x3effffffffe0ffff, 0x80000⟩
  | .evtRingHead => ⟨0x200010, [], 0, 0xffffffff, 0, 0, 0, 0xffffffff00000000, 0⟩
  | .evtRingTail => ⟨0x200018, [], 0, 0, 0, 0, 0, 0xffffffff00000000, 0⟩
  | .evtModerate => ⟨0x200020, [], 0, 0xffff, 0, 0, 0, 0xffffffffffff0000, 0⟩
  | .evtLost => ⟨0x200028, [], 0, 0, 0x100000000, 0, 0, 0xfffffffe00000000, 0⟩
  | .evtEnable => ⟨0x200040, [(0x8, 8)], 0, 0xffffffffffffffff, 0, 0, 0, 0, 0xffffffffffffffff⟩
  | .evtRoute => ⟨0x200080, [(0x8, 8)], 0, 0x7ff07ff, 0, 0, 0, 0xfffffffff800f800, 0⟩
  | .evtSnapCtrl => ⟨0x200100, [], 0, 0, 0, 0, 0xc000000000000000, 0x1fffffffffffffff, 0⟩
  | .evtSnapTime => ⟨0x200108, [], 0, 0, 0, 0, 0, 0, 0⟩
  | .evtProgState => ⟨0x201000, [(0x20, 67)], 0, 0, 0x2000000000000000, 0, 0, 0xffc00000000000, 0⟩
  | .evtProgPos => ⟨0x201008, [(0x20, 67)], 0, 0, 0, 0, 0, 0, 0⟩
  | .evtProgTotal => ⟨0x201010, [(0x20, 67)], 0, 0, 0, 0, 0, 0, 0⟩
  | .evtMsix => ⟨0x210000, [(0x8, 4096)], 0, 0xffffffffffffffff, 0, 0, 0, 0, 0⟩
  | .evtPba => ⟨0x218000, [(0x8, 32)], 0, 0, 0, 0, 0, 0, 0⟩
  | .clkStatus => ⟨0x400000, [], 0, 0, 0, 0, 0, 0x7f000007ffffffff, 0x110000000000⟩
  | .clkCap => ⟨0x400008, [], 0, 0x1fff, 0x8000000000000000, 0, 0, 0x7fffffffffffe000, 0x1518⟩
  | .clkPower => ⟨0x400010, [], 0, 0, 0, 0xffff00000000, 0, 0xffff0000ffff0000, 0⟩
  | .clkThrottle => ⟨0x400018, [], 0, 0x1f1f00, 0, 0, 0, 0xffffffffffe0e000, 0x100410⟩
  | .clkTherm => ⟨0x400020, [], 0, 0xff00ff00ff000000, 0, 0, 0, 0xffffff, 0x5f6e555f2d000000⟩
  | .clkReset => ⟨0x400028, [], 0, 0, 0, 0, 0xff07ff0007, 0x7fffff00f800fff8, 0⟩
  | .clkCoolant => ⟨0x400030, [], 0, 0, 0, 0, 0, 0, 0⟩
  | .clkTemp => ⟨0x400100, [(0x8, 8)], 0, 0, 0, 0, 0, 0xffff000000000000, 0⟩
  | .denModule => ⟨0x800000, [], 0, 0x3fff, 0, 0, 0, 0xffffffffffffc000, 0⟩
  | .denArb => ⟨0x800008, [], 0, 0xfff, 0, 0, 0, 0xfffffffffffff000, 0x841⟩
  | .denRouteCtrl => ⟨0x800010, [], 0, 1, 0, 0, 0, 0xfffffffffffffffe, 0⟩
  | .denStatus => ⟨0x800018, [], 0, 0, 0x1000, 0, 0, 0xffffffffff0000fe, 0⟩
  | .denLatePartial => ⟨0x800020, [], 0, 0, 0x100000000, 0, 0, 0xfffffffe00000000, 0⟩
  | .denNoCtx => ⟨0x800028, [], 0, 0, 0x100000000, 0, 0, 0xfffffffe00000000, 0⟩
  | .denUnreach => ⟨0x800030, [], 0, 0, 0x100000000, 0, 0, 0xfffffffe00000000, 0⟩
  | .denRetry => ⟨0x800038, [], 0, 0, 0x100000000, 0, 0, 0xfffffffe00000000, 0⟩
  | .denPortCtrl => ⟨0x800100, [(0x20, 32)], 0, 0xd, 0, 0, 2, 0xfffffffffffffff0, 4⟩
  | .denPortStatus => ⟨0x800108, [(0x20, 32)], 0, 0, 0x300, 0, 0, 0x1ffffffffcf8, 0⟩
  | .denLaneStatus => ⟨0x800110, [(0x20, 32)], 0, 0, 0, 0, 0, 0, 0⟩
  | .denRing => ⟨0x801000, [(0x8, 256)], 0, 0x80ffffffffffffff, 0, 0, 0, 0x7f00000000000000, 0⟩
  | .denWaveCfg => ⟨0x802000, [], 0, 0xc00007ffffffffff, 0, 0, 0, 0x3ffff80000000000, 0x100002710⟩
  | .denWaveTree => ⟨0x802008, [], 0, 0xf00000000003fff, 0, 0, 0, 0xf0ffffffffffc000, 0⟩
  | .denWaveStatus => ⟨0x802010, [], 0, 0, 0, 0, 0, 0xffff000000000000, 0⟩
  | .denWaveResolve => ⟨0x802018, [], 0, 0, 4, 0, 3, 0xfffffffffffffff8, 0⟩
  | .denWaveLast => ⟨0x802020, [], 0, 0, 0, 0, 0, 0xfff000000000000, 0⟩
  | .denWaveChild => ⟨0x802040, [(0x8, 8)], 0, 0x3fff, 0, 0, 0, 0xffffffffffffc000, 0⟩
  | .denXferCtrl => ⟨0x803000, [], 0, 0x7fff, 0, 0, 0x8000000000000000, 0xfffffffffff8000, 0⟩
  | .denXferStatus => ⟨0x803008, [], 0, 0, 0, 0, 0, 0, 0⟩
  | .denRouteA => ⟨0x900000, [(0x8, 16384)], 0, 0x80000001ffffffff, 0, 0, 0, 0x7ffffffe00000000, 0⟩
  | .denRouteB => ⟨0x920000, [(0x8, 16384)], 0, 0x80000001ffffffff, 0, 0, 0, 0x7ffffffe00000000, 0⟩
  | .farCfg => ⟨0xc00000, [], 0, 0xffffffe3fffe0000, 0, 0, 0, 0x1c0001ffff, 0x2c000000000000⟩
  | .farRound => ⟨0xc00008, [], 0, 0xffffffff, 0, 0, 0, 0, 0⟩
  | .farNextEnd => ⟨0xc00010, [], 0, 0xffffffffffff, 0, 0, 0, 0xffff000000000000, 0⟩
  | .farSeg => ⟨0xc00018, [], 0, 0xfff8ffffffffffc0, 0, 0, 0, 0x700000000003f, 0⟩
  | .farArea => ⟨0xc00020, [], 0, 0xfffffffff000, 0, 0, 0, 0xffff000000000fff, 0⟩
  | .farAreaSize => ⟨0xc00028, [], 0, 0, 0, 0, 0, 0, 0⟩
  | .farOuter => ⟨0xc00030, [], 0, 0xffffffffffffffff, 0, 0, 0, 0, 0x3f800000⟩
  | .farApplyCfg => ⟨0xc00038, [], 0, 0xfffffe00000000, 0, 0, 0, 0xff000001ffffffff, 0⟩
  | .farApplyWait => ⟨0xc00040, [], 0, 0, 0, 0, 0, 0x3fffffff00000000, 0⟩
  | .farStatus => ⟨0xc00048, [], 0, 0, 0, 0, 0, 0xffffffffffffff3c, 0⟩
  | .farContrib => ⟨0xc00050, [], 0, 0, 0, 0, 0, 0, 0⟩
  | .farTimers => ⟨0xc00058, [], 0, 0xffffffffffff, 0, 0, 0, 0xffff000000000000, 0x7d0006401f4⟩
  | .farJob => ⟨0xc00060, [], 0, 0xffffffffffffffff, 0, 0, 0, 0, 0⟩
  | .farFbuf => ⟨0xc00068, [], 0, 0xffffc00000ff, 0, 0, 0, 0xffff00003fffff00, 0⟩
  | .farFbufUse => ⟨0xc00070, [], 0, 0, 0, 0, 0, 0, 0⟩
  | .farAdmit => ⟨0xc00078, [], 0, 0xfc0000000000fff, 0, 0, 0x8000000000000000, 0x3ffffffffff000, 0⟩
  | .farClassQ => ⟨0xc00080, [(0x8, 3)], 0, 0xfffffffff000, 0, 0, 0, 0x7fff000000000fff, 0⟩
  | .farClassUse => ⟨0xc000a0, [(0x8, 3)], 0, 0, 0, 0, 0, 0xffff000000000000, 0⟩
  | .farStaleW => ⟨0xc00100, [(0x8, 64)], 0, 0xffffffff, 0, 0, 0, 0xffffffff00000000, 0⟩
  | .farTally => ⟨0xc00400, [(0x8, 8)], 0, 0, 0x100000000, 0, 0, 0xfffffffe00000000, 0⟩
  | .farPortCfg => ⟨0xc00800, [(0x40, 4)], 0, 0xffffffff, 0, 0, 0, 0x7fffffff00000000, 0x4000c8e0⟩
  | .farPortAddrHi => ⟨0xc00808, [(0x40, 4)], 0, 0xffffffffffffffff, 0, 0, 0, 0, 0⟩
  | .farPortAddrLo => ⟨0xc00810, [(0x40, 4)], 0, 0xffffffffffffffff, 0, 0, 0, 0, 0⟩
  | .farPortMac => ⟨0xc00818, [(0x40, 4)], 0, 0xffffffffffff, 0, 0, 0, 0xffff000000000000, 0⟩
  | .farPortOwnMac => ⟨0xc00820, [(0x40, 4)], 0, 0, 0, 0, 0, 0, 0⟩
  | .farChanCfg => ⟨0xc10000, [(0x40, 4096)], 4, 0x83fcfffff0003fff, 0, 0, 0, 0x7c0300000fffc000, 0x5dc⟩
  | .farChanPeerHi => ⟨0xc10008, [(0x40, 4096)], 4, 0xffffffffffffffff, 0, 0, 0, 0, 0⟩
  | .farChanPeerLo => ⟨0xc10010, [(0x40, 4096)], 4, 0xffffffffffffffff, 0, 0, 0, 0, 0⟩
  | .farChanQuota => ⟨0xc10018, [(0x40, 4096)], 4, 0xfffffffff000, 0, 0, 0, 0x7fff000000000fff, 0⟩
  | .farChanUse => ⟨0xc10020, [(0x40, 4096)], 4, 0, 0, 0, 0, 0xffff000000000000, 0⟩
  | .farChanRate => ⟨0xc10028, [(0x40, 4096)], 4, 0xffffffff, 0, 0, 0, 0, 0⟩
  | .farChanRtt => ⟨0xc10030, [(0x40, 4096)], 4, 0, 0, 0, 0, 0, 0⟩
  | .farChanState => ⟨0xc10038, [(0x40, 4096)], 4, 0, 0, 0, 0, 0xfffffffffff, 0⟩
  | .cipKeystore => ⟨0x1000000, [], 0, 0, 0x2000000000000000, 0, 0xff000000000000, 0x1f00000000000000, 0⟩
  | .cipCtxCfg => ⟨0x1000008, [], 0, 0x8000ffffffe00000, 0, 0, 0, 0x7fff0000001fffff, 0⟩
  | .cipTally => ⟨0x1000040, [(0x8, 4)], 0, 0, 0x100000000, 0, 0, 0xfffffffe00000000, 0⟩
  | .cipEngine => ⟨0x1001000, [(0x40, 4)], 0, 0, 0x4000000000000000, 0, 0x2000000000000000, 0x1fffc0ffffffffff, 0⟩
  | .cipPlock => ⟨0x1001008, [(0x40, 4)], 0, 3, 0x2000000000000000, 0, 0xc000000000000000, 0x1cfffffffffffffc, 0⟩
  | .cipPop => ⟨0x1001010, [(0x40, 4)], 0, 0x3fffff000000000, 0, 0, 0x8000000000000000, 0x3c00000fffffffff, 0⟩
  | .cipPsrc => ⟨0x1001018, [(0x40, 4)], 0, 0xffffffffffff, 0, 0, 0, 0xffff000000000000, 0⟩
  | .cipPdst => ⟨0x1001020, [(0x40, 4)], 0, 0xffffffffffff, 0, 0, 0, 0xffff000000000000, 0⟩
  | .cipPlen => ⟨0x1001028, [(0x40, 4)], 0, 0x1ff00000001ffff, 0, 0, 0, 0xfe00fffffffe0000, 0⟩
  | .cipPseq => ⟨0x1001030, [(0x40, 4)], 0, 0xffffffffffffffff, 0, 0, 0, 0, 0⟩
  | .cipPstatus => ⟨0x1001038, [(0x40, 4)], 0, 0, 0, 0, 0, 0xfffffffffffffff, 0⟩
  | .ledBase => ⟨0x1400000, [], 0, 0x8000fffffff00000, 0, 0, 0, 0x7fff0000000fffff, 0⟩
  | .ledCommit => ⟨0x1400008, [], 0, 0x10ffffffffffff, 0, 0, 0, 0xff0c000000000000, 0⟩
  | .ledStep => ⟨0x1400010, [], 0, 0xffffffffffff, 0, 0, 0, 0xffff000000000000, 0⟩
  | .ledClose => ⟨0x1400018, [], 0, 0, 0, 0, 0, 0x7fff000000000000, 0⟩
  | .ledInit => ⟨0x1400020, [], 0, 0x1ffffff, 0x2000000000000000, 0, 0x8000000000000000, 0x1ffffffffe000000, 0⟩
  | .ledNorm => ⟨0x1400028, [], 0, 0, 0, 0, 0xffffffff, 0xfffffff00000000, 0⟩
  | .ledNormTh => ⟨0x1400030, [], 0, 0xffffffffffffffff, 0, 0, 0, 0, 0⟩
  | .ledNormOut => ⟨0x1400038, [], 0, 0, 0, 0, 0, 0, 0⟩
  | .ledDigestKeyLo => ⟨0x1400040, [], 0, 0xffffffffffffffff, 0, 0, 0, 0, 0⟩
  | .ledDigestKeyHi => ⟨0x1400048, [], 0, 0xffffffffffffffff, 0, 0, 0, 0, 0⟩
  | .ledQSat => ⟨0x1400050, [], 0, 0, 0x100000000, 0, 0, 0xfffffffe00000000, 0⟩
  | .ledQFtz => ⟨0x1400058, [], 0, 0, 0x100000000, 0, 0, 0xfffffffe00000000, 0⟩
  | .ledQNf => ⟨0x1400060, [], 0, 0, 0x100000000, 0, 0, 0xfffffffe00000000, 0⟩
  | .ledRunCtrl => ⟨0x1400100, [], 0, 0xffffffffffff000f, 0, 0, 0x10, 0xffe0, 0x400006⟩
  | .ledRunLoss => ⟨0x1400108, [], 0, 0, 0, 0, 0xffffffff, 0xffffffff00000000, 0⟩
  | .ledRunStats => ⟨0x1400110, [], 0, 0, 0, 0, 0, 0, 0⟩
  | .ledRunStatus => ⟨0x1400118, [], 0, 0, 0, 0, 0, 0, 0⟩
  | .ledFlock => ⟨0x1400200, [], 0, 0x80ffffffffffffff, 0, 0, 0, 0x7f00000000000000, 0⟩
  | .ledFlockSlots => ⟨0x1400208, [], 0, 0x1ffff, 0, 0, 0, 0xfffffffffffe0000, 0⟩
  | .ledFlockStatus => ⟨0x1400210, [], 0, 0, 0x8000000000000000, 0, 0, 0xff000000000000, 0⟩
  | .ledFlockDigestLo => ⟨0x1400218, [], 0, 0, 0, 0, 0, 0, 0⟩
  | .ledFlockDigestHi => ⟨0x1400220, [], 0, 0, 0, 0, 0, 0, 0⟩
  | .ledFlockMember => ⟨0x1400300, [(0x8, 16)], 0, 0x8000000000003fff, 0, 0, 0, 0x7fffffffffffc000, 0⟩
  | .drvEngineOwn => ⟨0x1800000, [(0x8, 8)], 0, 0xffff, 0x10000, 0, 0, 0xfffffffffffe0000, 0⟩
  | .drvHostFault => ⟨0x1800100, [], 0, 0, 0xc000000000000000, 0, 0, 0x3f00000000000000, 0⟩
  | .drvIdxOor => ⟨0x1800108, [], 0, 0, 0x100000000, 0, 0, 0xfffffffe00000000, 0⟩
  | .drvQueueBase => ⟨0x1810000, [(0x20, 256)], 0, 0xffffffffff80, 0, 0, 0, 0xffff00000000007f, 0⟩
  | .drvQueueCtrl => ⟨0x1810008, [(0x20, 256)], 0, 0xfff81ffff1, 0x10000000000, 0, 0, 0xfffffe0007e0000e, 0x40110⟩
  | .drvQueueHead => ⟨0x1810010, [(0x20, 256)], 0, 0, 0, 0, 0, 0xffffffff00000000, 0⟩
  | .drvQueueTail => ⟨0x1810018, [(0x20, 256)], 0, 0xffffffff, 0, 0, 0, 0xffffffff00000000, 0⟩
  | .drvHostBufBase => ⟨0x1820000, [(0x10, 256)], 0, 0xfffffffffffff000, 0, 0, 0, 0xfff, 0⟩
  | .drvHostBufSize => ⟨0x1820008, [(0x10, 256)], 0, 0xfffffffff000, 0, 0, 0, 0xffff000000000fff, 0⟩
  | .drvDigestOrigin => ⟨0x1830000, [(0x20, 256)], 0, 0xffffffffffc0, 0, 0, 0, 0xffff00000000003f, 0⟩
  | .drvDigestLo => ⟨0x1830008, [(0x20, 256)], 0, 0xffffffffffffffff, 0, 0, 0, 0, 0⟩
  | .drvDigestHi => ⟨0x1830010, [(0x20, 256)], 0, 0xffffffffffffffff, 0, 0, 0, 0, 0⟩
  | .drvFlashCap => ⟨0x1840000, [], 0, 0, 0, 0, 0, 0xffff000000000000, 0xd0000000000⟩
  | .drvFlashCtrl => ⟨0x1840008, [], 0, 0x8000fffffffff000, 0, 0, 0, 0x7fff000000000fff, 0⟩
  | .drvFlashStatus => ⟨0x1840010, [], 0, 0, 0, 0, 0, 0x7fffffffffffc000, 0x2710⟩
  | .drvFlashWearBytes => ⟨0x1840018, [], 0, 0, 0, 0, 0, 0, 0⟩
  | .drvFlashWear => ⟨0x1840020, [], 0, 0, 0, 0, 0, 0xffffffffffff0000, 0⟩
  | .drvFlashCompact => ⟨0x1840028, [], 0, 0x3fff, 0, 0, 0x8000000000000000, 0x3fffffffffffc000, 0x3e8⟩
  | .tileDieInfo => ⟨0x2000000, [(0x200000, 8)], 0, 0, 0, 0, 0, 0xfffffffff80000f8, 0⟩
  | .tileHarvestMap => ⟨0x2000010, [(0x200000, 8), (0x8, 3)], 0, 0, 0, 0, 0, 0, 0⟩
  | .tileLtMap => ⟨0x2000040, [(0x200000, 8), (0x8, 19)], 0, 0, 0, 0, 0, 0, 0⟩
  | .tileTileCfg => ⟨0x2010000, [(0x200000, 8), (0x100, 160)], 0, 0x3f, 0, 0, 0, 0xffffffffffffffc0, 0⟩
  | .tileTileStatus => ⟨0x2010008, [(0x200000, 8), (0x100, 160)], 0, 0, 4, 0, 0, 0xfffffffffffffff8, 0⟩
  | .tileStartPc => ⟨0x2010010, [(0x200000, 8), (0x100, 160)], 0, 0xfffffffffff8, 0, 0, 0, 0xffff000000000007, 0⟩
  | .tileSeqCtrl => ⟨0x2010018, [(0x200000, 8), (0x100, 160)], 0, 0, 0, 0, 3, 0xfffffffffffffffc, 0⟩
  | .tilePc => ⟨0x2010020, [(0x200000, 8), (0x100, 160)], 0, 0, 0, 0, 0, 0xffff000000000000, 0⟩
  | .tileSeqStatus => ⟨0x2010028, [(0x200000, 8), (0x100, 160)], 0, 0, 0xf, 0, 0, 0xffff0070, 0⟩
  | .tileWatchdog => ⟨0x2010030, [(0x200000, 8), (0x100, 160)], 0, 0xffffffff, 0, 0, 0, 0xffffffff00000000, 0⟩
  | .tileToken => ⟨0x2010040, [(0x200000, 8), (0x100, 160), (0x8, 8)], 0, 0xffffffffffffffff, 0, 0, 0, 0, 0⟩
  | .tileMxState => ⟨0x2010080, [(0x200000, 8), (0x100, 160)], 0, 0, 0, 0, 0, 0xffffff00f8000000, 0⟩
  | .tileMxLastClose => ⟨0x2010088, [(0x200000, 8), (0x100, 160)], 0, 0, 0, 0, 0, 0, 0⟩
  | .tileMxAccLong => ⟨0x2010090, [(0x200000, 8), (0x100, 160)], 0, 0, 0x100000000, 0, 0, 0xfffffffe00000000, 0⟩
  | .tileVxState => ⟨0x20100a0, [(0x200000, 8), (0x100, 160)], 0, 0, 0, 0, 0, 0xffffffffffffff7c, 0⟩
  | .tileVxFtId => ⟨0x20100a8, [(0x200000, 8), (0x100, 160)], 0, 0, 0, 0, 0, 0, 0⟩
  | .tileNumSat => ⟨0x20100c0, [(0x200000, 8), (0x100, 160)], 0, 0, 0x100000000, 0, 0, 0xfffffffe00000000, 0⟩
  | .tileNumFtz => ⟨0x20100c8, [(0x200000, 8), (0x100, 160)], 0, 0, 0x100000000, 0, 0, 0xfffffffe00000000, 0⟩
  | .tileNumNf => ⟨0x20100d0, [(0x200000, 8), (0x100, 160)], 0, 0, 0x100000000, 0, 0, 0xfffffffe00000000, 0⟩

/-- The registers of block ID, in the order of their offsets. -/
def regNamesId : List RegName :=
  [.idIdent, .idRoles, .idPort, .idTime, .idMemwin, .idHbmRegion,
   .idPaddock, .idAddrFault, .idWringBase, .idWringCtrl, .idWringHead, .idWringDb]

/-- The registers of block SHM, in the order of their offsets. -/
def regNamesShm : List RegName :=
  [.shmCmd, .shmArg, .shmStatus, .shmResult, .shmFw]

/-- The registers of block EVT, in the order of their offsets. -/
def regNamesEvt : List RegName :=
  [.evtRingBase, .evtRingCtrl, .evtRingHead, .evtRingTail, .evtModerate, .evtLost,
   .evtEnable, .evtRoute, .evtSnapCtrl, .evtSnapTime, .evtProgState, .evtProgPos,
   .evtProgTotal, .evtMsix, .evtPba]

/-- The registers of block CLK, in the order of their offsets. -/
def regNamesClk : List RegName :=
  [.clkStatus, .clkCap, .clkPower, .clkThrottle, .clkTherm, .clkReset,
   .clkCoolant, .clkTemp]

/-- The registers of block DEN, in the order of their offsets. -/
def regNamesDen : List RegName :=
  [.denModule, .denArb, .denRouteCtrl, .denStatus, .denLatePartial, .denNoCtx,
   .denUnreach, .denRetry, .denPortCtrl, .denPortStatus, .denLaneStatus, .denRing,
   .denWaveCfg, .denWaveTree, .denWaveStatus, .denWaveResolve, .denWaveLast, .denWaveChild,
   .denXferCtrl, .denXferStatus, .denRouteA, .denRouteB]

/-- The registers of block FAR, in the order of their offsets. -/
def regNamesFar : List RegName :=
  [.farCfg, .farRound, .farNextEnd, .farSeg, .farArea, .farAreaSize,
   .farOuter, .farApplyCfg, .farApplyWait, .farStatus, .farContrib, .farTimers,
   .farJob, .farFbuf, .farFbufUse, .farAdmit, .farClassQ, .farClassUse,
   .farStaleW, .farTally, .farPortCfg, .farPortAddrHi, .farPortAddrLo, .farPortMac,
   .farPortOwnMac, .farChanCfg, .farChanPeerHi, .farChanPeerLo, .farChanQuota, .farChanUse,
   .farChanRate, .farChanRtt, .farChanState]

/-- The registers of block CIP, in the order of their offsets. -/
def regNamesCip : List RegName :=
  [.cipKeystore, .cipCtxCfg, .cipTally, .cipEngine, .cipPlock, .cipPop,
   .cipPsrc, .cipPdst, .cipPlen, .cipPseq, .cipPstatus]

/-- The registers of block LED, in the order of their offsets. -/
def regNamesLed : List RegName :=
  [.ledBase, .ledCommit, .ledStep, .ledClose, .ledInit, .ledNorm,
   .ledNormTh, .ledNormOut, .ledDigestKeyLo, .ledDigestKeyHi, .ledQSat, .ledQFtz,
   .ledQNf, .ledRunCtrl, .ledRunLoss, .ledRunStats, .ledRunStatus, .ledFlock,
   .ledFlockSlots, .ledFlockStatus, .ledFlockDigestLo, .ledFlockDigestHi, .ledFlockMember]

/-- The registers of block DRV, in the order of their offsets. -/
def regNamesDrv : List RegName :=
  [.drvEngineOwn, .drvHostFault, .drvIdxOor, .drvQueueBase, .drvQueueCtrl, .drvQueueHead,
   .drvQueueTail, .drvHostBufBase, .drvHostBufSize, .drvDigestOrigin, .drvDigestLo, .drvDigestHi,
   .drvFlashCap, .drvFlashCtrl, .drvFlashStatus, .drvFlashWearBytes, .drvFlashWear, .drvFlashCompact]

/-- The registers of block TILE, in the order of their offsets. -/
def regNamesTile : List RegName :=
  [.tileDieInfo, .tileHarvestMap, .tileLtMap, .tileTileCfg, .tileTileStatus, .tileStartPc,
   .tileSeqCtrl, .tilePc, .tileSeqStatus, .tileWatchdog, .tileToken, .tileMxState,
   .tileMxLastClose, .tileMxAccLong, .tileVxState, .tileVxFtId, .tileNumSat, .tileNumFtz,
   .tileNumNf]

/-- Every register of the control window. -/
def regNames : List RegName :=
  List.flatten [regNamesId, regNamesShm, regNamesEvt, regNamesClk, regNamesDen, regNamesFar, regNamesCip, regNamesLed, regNamesDrv, regNamesTile]

/-- The offset of a register under the given indices, outermost first. -/
def regOffGo : List (Nat × Nat) → List Nat → Nat
  | (s, _) :: ds, i :: is => s * i + regOffGo ds is
  | _, _ => 0

/-- The control-window offset of a register. -/
def regOff (n : RegName) (idx : List Nat) : Nat := (regRow n).base + regOffGo (regRow n).dims idx

/-- Splits a distance from a register's base into indices, when the register exists there. -/
def regIdxGo : List (Nat × Nat) → Nat → Nat → Option (List Nat)
  | [], _, r => if r = 0 then some [] else none
  | (s, c) :: ds, lo, r =>
    let i := r / s
    if i < c ∧ (ds ≠ [] ∨ lo ≤ i) then
      match regIdxGo ds lo (r % s) with
      | some is => some (i :: is)
      | none => none
    else none

/-- The indices under which offset `o` is register `n`. -/
def regIdx (n : RegName) (o : Nat) : Option (List Nat) :=
  let w := regRow n
  if w.base ≤ o then regIdxGo w.dims w.lo (o - w.base) else none

/-- A register found in a list of names. -/
def regFindIn : List RegName → Nat → Option (RegName × List Nat)
  | [], _ => none
  | n :: ns, o =>
    match regIdx n o with
    | some is => some (n, is)
    | none => regFindIn ns o

/-- The register at a control-window offset, if a block defines one there (R469). -/
def regFind (o : Nat) : Option (RegName × List Nat) := regFindIn regNames o

/-- The value after a cold reset (R18) of the register at offset `o`, for the bits that the register file holds. The MSI-X table of host port 1
stands at the offsets of port 0's table plus 2^26, behind the control window; a vector's mask bit is 1 (PRESUMED, log 10). -/
def ctlReset (o : Nat) : BitVec 64 :=
  match regFind (o % 2 ^ 26) with
  | none => 0
  | some (n, is) =>
    let i := is.headD 0
    if n = .idHbmRegion then (if i ≤ 952 then BitVec.ofNat 64 (2 ^ 18 + i) else 0)
    else if n = .evtMsix then (if i % 2 = 1 then BitVec.ofNat 64 (2 ^ 32) else 0)
    else if n = .farStaleW then (if i < 16 then BitVec.ofNat 64 ((127 - i) * 2 ^ 23) else 0)
    else BitVec.ofNat 64 (regRow n).reset

end Sys2Proof
end

