-- ==== Sys2Proof/Machine/Tbl.lean ====
section
/-!
DEFINITION. Sparse tables: how the model keeps memory, the control registers, the register files and every other
numbered set of like things. A table lists the entries that differ from a default, keys strictly rising.
-/
namespace Sys2Proof

/-- A sparse table: the listed entries. -/
abbrev Tbl (α : Type) := List (Nat × α)

/-- What key `k` holds: its listed value, or the default `d k`. -/
def tblGet {α : Type} (d : Nat → α) : Tbl α → Nat → α
  | [], k => d k
  | (j, v) :: r, k => if j = k then v else tblGet d r k

/-- The table without key `k`. -/
def tblErase {α : Type} : Tbl α → Nat → Tbl α
  | [], _ => []
  | (j, v) :: r, k => if j = k then tblErase r k else (j, v) :: tblErase r k

/-- Inserts an entry at its place in the order. -/
def tblInsert {α : Type} : Tbl α → Nat → α → Tbl α
  | [], k, v => [(k, v)]
  | (j, w) :: r, k, v => if k < j then (k, v) :: (j, w) :: r else (j, w) :: tblInsert r k v

/-- Sets key `k` to `v`; an entry equal to its default is not listed. -/
def tblSet {α : Type} [DecidableEq α] (d : Nat → α) (l : Tbl α) (k : Nat) (v : α) : Tbl α :=
  if v = d k then tblErase l k else tblInsert (tblErase l k) k v

/-- Drops every listed key from `a` up to (not including) `b`, so that each reads as its default. -/
def tblClear {α : Type} (l : Tbl α) (a b : Nat) : Tbl α :=
  l.filter (fun kv => kv.1 < a || b ≤ kv.1)

/-- The canonical form: keys strictly rising, no entry equal to its default. -/
abbrev tblWf {α : Type} (d : Nat → α) (l : Tbl α) : Prop :=
  l.Pairwise (fun a b => a.1 < b.1) ∧ ∀ kv ∈ l, kv.2 ≠ d kv.1

end Sys2Proof
end

