-- ==== Sys2Proof/Machine/State.lean ====
section
/-!
DEFINITION. The state of the module: everything that the spec gives it, as plain data, with its value after reset; the reasons
for which a step stops.
-/
namespace Sys2Proof.Machine

/-! ### Tallies and events (chapter 12) -/

/-- The live counter of a tally and its live sticky bit (R487-R489). -/
structure Tally where
  count : Nat
  sticky : Bool
  deriving DecidableEq, Repr

def Tally.zero : Tally := ⟨0, false⟩

/-- An event record before it is laid out in bytes (R478). -/
structure EvRec where
  code : Nat
  detail : Nat
  kind : Nat
  index : Nat
  time : Nat
  arg0 : Nat
  arg1 : Nat
  deriving DecidableEq, Repr

/-- What the module has sent to the outside, oldest first. -/
inductive Out where
  /-- An MSI-X message of a vector, on a host port: the address and data of its table entry (R482). -/
  | msix (port vec addr data : Nat)
  /-- A completion that answers a control-register read (R17). -/
  | regData (port : Nat) (v : Word)
  /-- A completion that answers a memory-window read (R470). -/
  | memData (port : Nat) (bytes : List Byte)
  /-- A near-fabric message, and the port it left through (R345, R346). -/
  | net (port : Nat) (m : NetMsg)
  /-- A datagram that left through a far port (R408, R409). -/
  | far (port : Nat) (g : Datagram)
  /-- A response on the service port (R507, R508). -/
  | service (bytes : List Byte)
  /-- A response on the SMBus (R516). -/
  | smbus (bytes : List Byte)
  deriving DecidableEq, Repr

/-- The event unit (R479-R482): whether records are being written is in its registers; here are the records held while the ring is
full, the number discarded since the last EVENT_LOST record, and the vectors whose holdoff runs, each with whether a
record has been written for it since its message. -/
structure EvUnit where
  held : List EvRec
  lostSince : Nat
  holdoff : List (Nat × Bool)
  msixPending : List (Nat × Nat)
  recent : List (List Nat)
  deriving DecidableEq, Repr

/-! ### Tiles (chapters 4, 5, 6) -/

/-- STATE of a sequencer (R171). -/
inductive SeqState where
  | stopped | running | draining
  deriving DecidableEq, Repr

/-- STOP_CAUSE of a sequencer (R171). -/
inductive StopCause where
  | never | halt | stop | fetchFault
  deriving DecidableEq, Repr

/-- An engine instruction in its queue with everything that its dispatch copied (R125): the descriptors OPA, OPB, OPC, OPD and the
registers after them, the s-register, MODE and VL. -/
structure QEntry where
  op : EngOp
  pred : Bool
  wait : Nat
  signal : Nat
  opa : Nat
  opb : Nat
  opc : Nat
  ctrl : Nat
  dA : Desc
  dB : Desc
  dC : Desc
  dD : Desc
  eA : Desc
  eB : Desc
  eC : Desc
  eD : Desc
  sv : Word
  mode : Bool
  vl : Nat
  deriving DecidableEq, Repr

/-- The state of an accumulation group (R195). -/
inductive GState where
  | free | opened | closing | queued | held
  deriving DecidableEq, Repr

/-- An accumulation group's own state; its element values stand in the accumulator store (R195, R196, R198, R191, R210). `since` counts the passes
since the open or the last capture triggered, `captures` the captures begun, `folds` the folds done; `sat` marks the saturated elements by
128 * row + column. -/
structure Group where
  st : GState
  k : Nat
  passes : Nat
  interval : Nat
  slot : Nat
  since : Nat
  captures : Nat
  folds : Nat
  long : Bool
  sat : Tbl Bool
  deriving DecidableEq, Repr

def Group.reset : Group := ⟨.free, 0, 0, 0, 0, 0, 0, 0, false, []⟩

/-- A loaded weight: an ordinary value, or a G4 code that is the codebook's zero code, or a weight under a NaN block scale (R193, R194). -/
inductive Weight where
  | val (v : Val)
  | zeroCode
  | nanScale
  deriving DecidableEq, Repr

/-- A weight buffer (R178): what it holds by (n, k), with the descriptor and transpose flag of the pass that loaded it (R220). -/
structure WBuf where
  valid : Bool
  cells : List (List Weight)
  desc : Desc
  trw : Bool
  deriving DecidableEq, Repr

def WBuf.empty : WBuf := ⟨false, [], 0, false⟩

/-- What an issued instruction still has to do before it completes. -/
inductive Work where
  /-- A pass that has loaded its weights and not yet streamed (R215, R216): its group, the rows or blocks that its mask keeps (none: no such
  mask), whether the capture that it triggered has still to begin (R198), and the tensor scale of its activations, which holds from its
  issue on (R299). -/
  | passLoaded (g : Nat) (q : QEntry) (rows : Option (List Bool)) (blocks : Option (List Bool)) (cap : Bool) (t : Int)
  /-- A pass that has streamed: by element, the partial sum that it receives and whether its roundings saturated (R187, R188, R191). -/
  | passStreamed (g : Nat) (ps : List (Nat × Nat × Bool))
  /-- A skipped pass (R212), and whether the capture that it triggered has still to begin (R198). -/
  | passSkipped (g : Nat) (cap : Bool)
  | close (g : Nat)
  | discard (g : Nat)
  /-- A vector instruction: the group it frees (R206) and the table it loads, derivative table or value table, with its record (R248). -/
  | vector (frees : Option Nat) (table : Option (Bool × List Nat))
  /-- A drover transfer (R275) or a remote copy (R356), by its number. -/
  | transfer (id : Nat)
  | go (ctx : Nat)
  | barrier (seq : Option Nat)
  | commit (kind skip counted : Bool)
  /-- An icpf: the lines that have not yet arrived (R150). -/
  | icpf (lines : List Nat)
  deriving DecidableEq, Repr

/-- The queue of an issued instruction; `sq` is the sequencer itself (icpf). -/
inductive Queue where
  | mx | vx | dv | lk | sq
  deriving DecidableEq, Repr

/-- What an access in flight has at stake: the addresses of the records that it uses (R87, R106, R248, R254), the addresses in ring slots that it reads
(R303), the units that it has written, by the key of their first byte, with their bytes before (R68, R276), the ledger entries that it names
(R316), the keys of the bytes that it has written (R87), and whether it adds to them as scadd does (R273). -/
structure Stake where
  recs : List Nat
  ring : List Nat
  lines : List (Nat × List Nat)
  entries : List Nat
  wrote : List Nat
  adds : Bool
  deriving DecidableEq, Repr

def Stake.none : Stake := ⟨[], [], [], [], [], false⟩

/-- An instruction that has issued and not completed (R128, R137): its signal token, the s-register it will deposit into (0: none) with the deposit
when it is known, whether the sequencer has written that register since (R138), and what it has at stake. -/
structure Flight where
  queue : Queue
  signal : Nat
  sdst : Nat
  dep : Word
  hasDep : Bool
  overwritten : Bool
  work : Work
  stake : Stake
  deriving DecidableEq, Repr

/-- A capture on its way through the staging buffer (R200, R201): the group and its captured words, by element, where they are not +0. -/
structure Staging where
  group : Nat
  vals : List (Nat × Nat)
  deriving DecidableEq, Repr

/-- A function table (R246, R252). -/
structure FTable where
  valid : Bool
  lo : Nat
  wexp : Int
  below : Nat
  above : Nat
  vbelow : Nat
  vabove : Nat
  id : Nat
  coef : List (Nat × Nat × Nat)
  deriving DecidableEq, Repr

/-- A table after a start (R252): all-zero coefficients, CONST below and above with +0. -/
def FTable.reset : FTable := ⟨false, 0, 0, 1, 1, 0, 0, 0, []⟩

/-- A line on its way into the instruction cache: the line, and whether a fetch for execution holds the sequencer for it (R166). -/
structure LineReq where
  line : Nat
  exec : Bool
  deriving DecidableEq, Repr

/-- One physical tile. -/
structure Tile where
  s : Tbl Word
  a : Tbl DA
  p : Tbl Bool
  d : Tbl Desc
  tok : Tbl Nat
  mode : Bool
  vl : Nat
  pc : Nat
  seq : SeqState
  cause : StopCause
  haltCode : Nat
  watchdog : Bool
  tokenSat : Bool
  fetchFault : Bool
  writeReject : Bool
  cfgReject : Bool
  /-- CYCLE, as the last read of it left it (R120, R174). -/
  cycle : Nat
  /-- The cached lines with their 256 bytes, most recently used first (R165), and the memory generation of the last invalidation (R170). -/
  icache : List (Nat × List Nat)
  icGen : Nat
  icReq : List LineReq
  qMx : List QEntry
  qVx : List QEntry
  qDv : List QEntry
  qLk : List QEntry
  flights : List Flight
  groups : Tbl Group
  tileQueue : List Nat
  /-- The groups whose captures, triggered by skipped passes that have completed, have still to begin, oldest first (R200, R221). -/
  capWait : List Nat
  staging : Option Staging
  shadow : WBuf
  front : WBuf
  vt : FTable
  dt : FTable
  lastClose : Word
  deriving DecidableEq, Repr

def Tile.reset : Tile :=
  { s := [], a := [], p := [], d := [], tok := [], mode := false, vl := 0, pc := 0, seq := .stopped, cause := .never
    haltCode := 0, watchdog := false, tokenSat := false, fetchFault := false, writeReject := false, cfgReject := false
    cycle := 0, icache := [], icGen := 0, icReq := [], qMx := [], qVx := [], qDv := [], qLk := [], flights := [], groups := []
    tileQueue := [], capWait := [], staging := none, shadow := WBuf.empty, front := WBuf.empty, vt := FTable.reset, dt := FTable.reset
    lastClose := 0 }

/-! ### Drovers (chapter 7) -/

/-- Who asks for an access (R50, R55, R352): a tile, a memory queue, a host port, a unit of the module itself, or another module. -/
inductive Issuer where
  | tile (t : Nat)
  | queue (q : Nat)
  | host (port : Nat)
  | unit
  | remote (paddock : Bool)
  deriving DecidableEq, Repr

/-- A transfer's request: operation, the three descriptors with their scale descriptors, and the CTRL field (R269, R270). -/
structure XReq where
  op : DvOp
  d : Desc
  s : Desc
  i : Desc
  ed : Desc
  es : Desc
  ctrl : Nat
  deriving DecidableEq, Repr

/-- An active transfer (R264, R275, R281): the engine that runs it, whether its data have moved, and for a memory-queue entry its
number, its CONTROL word, the STARTS value of its progress slot (R484) and whether it has completed and waits for earlier ones; the bytes
that a coldupd commits at its end, by flash offset (R291); the tensor scales of destination and source, which hold from its issue on (R299);
what it has at stake while it runs. -/
structure Xfer where
  id : Nat
  by_ : Issuer
  die : Nat
  eng : Nat
  req : XReq
  moved : Bool
  entry : Nat
  control : Word
  claim : Nat
  done : Bool
  commit : List (Nat × Nat)
  td : Int
  ts : Int
  stake : Stake
  deriving DecidableEq, Repr

/-- A host access of the memory window that is held (R204, R288, R391, R509, R519): a read of `n` bytes, or a write of `put`. -/
structure HostRead where
  id : Nat
  port : Nat
  da : Nat
  n : Nat
  put : Option (List Nat)
  deriving DecidableEq, Repr

/-- A page map in HBM (R287): the DA of its first byte, which of the free values its bytes are, the words of ID.HBM_REGION from its first region on as
they were when the cold store wrote it, and the generation of that write (R170). -/
structure PageMap where
  base : Nat
  epoch : Nat
  words : List Nat
  gen : Nat
  deriving DecidableEq, Repr

/-- The flash cold store beyond its registers and bytes (R287, R293, R294): the page maps that it has loaded into HBM, the latest first, the keys in them
at which another unit has written a zero since, whether a compaction pass runs, and which wear limits were reached. -/
structure Flash where
  maps : List PageMap
  zeros : List Nat
  compacting : Bool
  warned8 : Bool
  warned10 : Bool
  deriving DecidableEq, Repr

/-- A remote copy in progress (R355, R356): its number, tile, whether it is a get, the local descriptor, and its remote module. -/
structure Remote where
  id : Nat
  tile : Nat
  isGet : Bool
  local_ : Desc
  scale : Desc
  module : Nat
  cls : NetClass
  deriving DecidableEq, Repr

/-! ### Flocks, near fabric, reductions, waves (chapters 8, 9) -/

/-- The flock comparison (R336-R340): at a member, the steps whose verdicts are awaited, oldest first, and whether HOLD was ever set; at the
bellwether, the windows being collected, oldest first, each with its step and whether it compares nothing, the digests reported (member,
step, value), the members that hold, and whether the present window compares nothing; the module from which a recopy waits to start. -/
structure Flock where
  awaiting : List Nat
  everHeld : Bool
  windows : List (Nat × Bool)
  digests : List (Nat × Nat × Nat)
  heldMembers : List Nat
  suspended : Bool
  recopyWait : Option Nat
  deriving DecidableEq, Repr

def Flock.reset : Flock := ⟨[], false, [], [], [], false, none⟩

/-- A chunk of a stage on this module (R362-R368): the partial's messages taken so far with their count, the choice made for it (0 none, 1
add, 2 forward unchanged, 3 act as the start), whether the adder has finished with it; the result chunk's messages, and the whole
result: FP32 words and the count of each, and whether the owner has sent it. -/
structure Chunk where
  stage : Nat
  chunk : Nat
  parts : List ChunkMsg
  choice : Nat
  done : Bool
  resParts : List ChunkMsg
  res : Option (List Nat × List Nat)
  sentRes : Bool
  deriving DecidableEq, Repr

/-- An armed reduction context (R358, R371): the issuing tile, the record's address and fields, E, whether lk.go has issued and the contribution that
it made ready, the owned value of each stage with its count, LATE and MISSED, the chunks, the digests of each stage, and the
s-register of lk.go. -/
structure Ctx where
  tile : Nat
  record : Nat
  contrib : Desc
  result : Desc
  tag : Nat
  stages : Nat
  mean : Bool
  wire32 : Bool
  deadline : Nat
  rings : List Nat
  e : Nat
  gone : Bool
  g : List Val
  own : List (Nat × List Nat × Nat)
  late : Nat
  missed : Nat
  chunks : List Chunk
  sent : List Nat
  recv : List Nat
  deriving DecidableEq, Repr

/-- Barriers (R372): the next sequence number, the numbers issued here and not complete, the reports of children, the numbers already reported
upward, and the tiles whose barriers wait for ENABLE, in issue order. -/
structure Barrier where
  next : Nat
  own : List Nat
  up : List (Nat × Nat)
  sentUp : List Nat
  waiting : List Nat
  deriving DecidableEq, Repr

def Barrier.reset : Barrier := ⟨0, [], [], [], []⟩

/-- A vote received from a child (R377). -/
structure ChildVote where
  child : Nat
  kind : Bool
  step : Nat
  cv : Nat
  skip : Bool
  mismatch : Bool
  deriving DecidableEq, Repr

/-- The commit wave beyond DEN.STATUS (R376-R384): its KIND and SKIP, whether the counted instructions differ in KIND, the children's votes
and acknowledgements, whether the root's timer runs, the tiles whose lk.commit is not yet counted, in issue order, whether WAVE_STUCK has been
raised for the present wave (R383), and whether a die reset has taken votes out of it (R521). -/
structure Wave where
  kind : Bool
  skip : Bool
  mixed : Bool
  votes : List ChildVote
  acks : List Nat
  timer : Bool
  waiting : List Nat
  stuck : Bool
  lost : Bool
  deriving DecidableEq, Repr

def Wave.reset : Wave := ⟨false, false, false, [], [], false, [], false, false⟩

/-- The near fabric (R346, R349, R351): the DAWN messages outstanding and those held, the turn of the other classes among ports, the messages that
the present command still has to send, those that wait at an output port for its arbiter, and by port the turns of the weighted round robin that NOON,
DUSK and NIGHT have left; the messages whose access a die that is being reset or quiesced holds (R509, R519). -/
structure Net where
  dawnOut : Nat
  dawnHeld : List NetMsg
  rr : Nat
  outbox : List NetMsg
  ready : List (Nat × NetMsg)
  turns : Tbl (List Nat)
  held : List NetMsg
  deriving DecidableEq, Repr

def Net.reset : Net := ⟨0, [], 0, [], [], [], []⟩

/-- A shard transfer in progress (R385): the module that it copies from, the ranges still to arrive, every range that it copies, whether the entries' ranges follow the ledger's, and whether it is a
flock recopy. -/
structure Shard where
  source : Nat
  ranges : List (Nat × Nat)
  all : List (Nat × Nat)
  more : Bool
  recopy : Bool
  deriving DecidableEq, Repr


/-! ### Far exchange (chapter 10) -/

/-- Work that a channel has still to frame (R399, R415, R426, R430): its far-buffer class, round and span, whether it is a catch-up, the rounds
that a combined delta holds, the next block (or image byte), the records (none listed: those of OWN), and the image of STATE frames. -/
structure TxJob where
  cls : Nat
  round : Nat
  span : Nat
  catchup : Bool
  rounds : List Nat
  next : Nat
  recs : List (List Nat)
  img : List Nat
  deriving DecidableEq, Repr

/-- A frame in the far buffer (R415, R419, R420): its 64-bit sequence, class, header, ciphertext with tag, how often it was sent, when last, and
whether it is declared lost and not yet sent again. -/
structure FarFrame where
  seq : Nat
  cls : Nat
  hdr : List Nat
  body : List Nat
  sends : Nat
  sentAt : Nat
  lost : Bool
  deriving DecidableEq, Repr

/-- A frame that a cipher engine encrypts, segment by segment (R435): the frame as it will stand in the far buffer, how many bytes of its text are
encrypted, and the job that it belongs to, how far the job moves with it and whether it is then framed whole. -/
structure Sealing where
  frame : FarFrame
  done : Nat
  job : TxJob
  n : Nat
  whole : Bool
  deriving DecidableEq, Repr

/-- A data channel beyond its registers (R413, R418-R430, R435): work, the frame being encrypted, frames, the sequences received (and one more than the highest), the frames
to acknowledge with their arrival times, what has come since contact returned, the peer's last span (65535: NOSPAN) and CONTRIB, the
span slot held and the rounds in it, the donor's catch-up slot and stage (0 none, 1 asked, 2 sending the image, 3 sending the
catch-up), whether an RTT sample was taken, whether a frame was declared lost in the present interval, and the CONTRIB that the last HELLO of this
side carried (R428). -/
structure Chan where
  jobs : List TxJob
  sealing : Option Sealing
  frames : List FarFrame
  seen : List Nat
  rxTop : Nat
  pend : List (Nat × Nat)
  resumed : Bool
  gotAck : Bool
  gotHello : Bool
  peerSpan : Nat
  peerContrib : Nat
  slot : Option Nat
  rounds : List Nat
  catchSlot : Option Nat
  donor : Nat
  rtt : Bool
  lossSeen : Bool
  sentContrib : Option Nat
  deriving DecidableEq, Repr

def Chan.reset : Chan := ⟨[], none, [], [], 0, [], false, false, false, 0, 0, none, [], none, 0, false, false, none⟩

/-- The inputs of the fold apply of a round, fixed when APPLY first begins for it (R390): the round, LR and MU, the staleness weights, and for each
partner's site its slot. -/
structure FoldIn where
  round : Nat
  outer : Nat
  weights : List Nat
  partners : List (Nat × Nat)
  deriving DecidableEq, Repr

/-- The far exchange beyond its registers: OLD and NEW (R401), the channels, what the last fold apply summed for block 0 and its outer update
U by element (R406, R430), whether the next boundary is an admission apply, the catch-up records received by block, and the STATE bytes
received (R430); the inputs of the fold apply in progress (R390) and the progress slot that it claimed (R484); how many entries of its own the device has
in its queue (R399), and whether the boundary in progress is that of an admission which has failed (R430). -/
structure Far where
  old : Nat
  newest : Nat
  chans : Tbl Chan
  applyCount : Nat
  applyU : List Nat
  admitting : Bool
  caught : List (Nat × List Nat)
  stateBytes : Nat
  fixed : Option FoldIn
  applySlot : Nat
  posted : Nat
  failed : Bool
  deriving DecidableEq, Repr

def Far.reset : Far := ⟨0, 0, [], 0, [], false, [], 0, none, 0, 0, false⟩

/-! ### Cipher engine (chapter 11) -/

/-- A channel context that an engine holds on chip (R445, R446): engine, channel, direction (0 transmit, 1 receive) and the 128 bytes of its
clear record. -/
structure CtxRec where
  eng : Nat
  chan : Nat
  dir : Nat
  bytes : List Nat
  deriving DecidableEq, Repr

/-- A privileged operation between its GO and its result (R454, R455): what the registers held at GO, the lock's channel, and ARM at GO. -/
structure PrivOp where
  eng : Nat
  lockChan : Nat
  op : Nat
  strict : Bool
  dir : Nat
  kslot : Nat
  channel : Nat
  src : Nat
  dst : Nat
  aadLen : Nat
  textLen : Nat
  seq : Nat
  arm : Bool
  deriving DecidableEq, Repr

/-- The key store (chapter 11, *Keys*) and the four engines: the KEK with its generation, the privileged keys and their next sequences, the
cached contexts, the operations in progress, the engines whose RELEASE waits (R452), the engines that run their start-up
tests, the engines' reseedings and their requests since (R463), the channels that have met a context fault (R447), and for each channel the time after its last
CIP_AUTH_FAIL event (R443; 0: none). -/
structure Cip where
  kek : Option (List Nat)
  kekGen : Nat
  pkeys : Tbl (List Nat)
  pseqs : Tbl Nat
  cache : List CtxRec
  ops : List PrivOp
  releasing : List Nat
  testing : List Nat
  reseeds : Tbl Nat
  requests : Tbl Nat
  faulted : List Nat
  authEvt : Tbl Nat
  deriving DecidableEq, Repr

def Cip.reset : Cip := ⟨none, 0, [], [], [], [], [], [], [], [], [], []⟩

/-! ### Service island (chapters 13, 14) -/

/-- A reset that was asked for or runs (R517): its type (2 warm, 3 die, 4 tile, 5 link), the die, logical tile or port, its cause
(CLK.STATUS.CAUSE; 0 where the spec names none), and whether a write of CLK.RESET started it. -/
structure Reset where
  kind : Nat
  unit : Nat
  cause : Nat
  here : Bool
  deriving DecidableEq, Repr

/-- An update session (R526): the source address that opened it, the slot that it writes, and the image size that it announced. -/
structure FwSession where
  src : Nat
  slot : Nat
  size : Nat
  deriving DecidableEq, Repr

/-- A last-gasp record (R511): the cause, TIME, the registers that it holds in their order, and the event records, newest first. -/
structure Gasp where
  cause : Nat
  time : Nat
  regs : List Nat
  events : List (List Nat)
  deriving DecidableEq, Repr

/-- A host port's configuration space (R467, R482, R500): whether Shepherd has loaded it, and MSI-X Enable and Function Mask of its MSI-X capability. -/
structure PortCfg where
  loaded : Bool
  msixEnable : Bool
  funcMask : Bool
  deriving DecidableEq, Repr

/-- A far-port cage (R540, R541): the watts of its plug-in module's power class (none: the cage is empty), and whether the module is held in reset and
in low-power mode. -/
structure Cage where
  watts : Option Nat
  inReset : Bool
  lowPower : Bool
  deriving DecidableEq, Repr

def Cage.reset : Cage := ⟨none, false, true⟩

/-- A service request that a handover holds (R527): its operation code, source address and datagram. -/
structure HeldSvc where
  op : Nat
  src : Nat
  dgram : List Byte
  deriving DecidableEq, Repr

/-- The service island beyond its registers and the NOR's slots. Supplies (R531-R534): which are valid, whether the compute domain is powered, starts,
is kept off until POWER_ON, by INHIBIT_N, by an over-voltage, or by a lost standby; whether both slots failed (R525) and when MAIN and STBY were lost; the dies that an emergency quiesce
has gated (R509); the resets asked for and those that run (R517), and the trigger of a zeroisation whose reset runs (R462);
the ports whose PERST_N is low (R537). Power and heat (R501-R504): intervals in a row below 15/16 of the cap and above the cap at FLOOR, intervals
since a POWER_CAP event, the thermal limit on RUN, and which limits are exceeded. Heartbeats missed by die (R495). The service port (R514,
R526): the highest nonce, the operator's key, the update session. The result of the mailbox command that has run (R512); a handover's slot and whether
a reset of D1 has ended it, whether the D1 instance is in control (R527), the service requests that it holds, and the 4 KiB state record (R527, R528); SVC_ARM (R542); the last-gasp records, newest
first (R511); a fallback not yet raised, with the slots booted and failed (R525). The images that run
in the die controllers (1-7), near ports (8-39) and far ports (40-43), as Shepherd loaded them (R494). The configuration spaces of the host ports; whether their reference
clocks are good (R536); the cages of the far ports. -/
structure Island where
  mainOk : Bool
  stbyOk : Bool
  powered : Bool
  starting : Bool
  heldOff : Bool
  inhibited : Bool
  overVolt : Bool
  down : Bool
  bootFail : Bool
  mainLostAt : Option Nat
  stbyLostAt : Option Nat
  quiesced : List Nat
  asked : List Reset
  running : List Reset
  zeroised : Option Nat
  perst : List Nat
  lowRun : Nat
  overRun : Nat
  capGap : Option Nat
  thermLimit : Nat
  dieOver : Bool
  hbmOver : Bool
  coolOver : List Bool
  misses : List Nat
  nonce : Nat
  svcKey : List Nat
  session : Option FwSession
  result : Option (Nat × Nat)
  handover : Option (Nat × Bool)
  onD1 : Bool
  armed : Bool
  gasps : List Gasp
  fallback : Option (Nat × Nat)
  heldSvc : List HeldSvc
  record : List Nat
  images : Tbl (List Nat)
  cfgs : List PortCfg
  refclk : List Bool
  cages : Tbl Cage
  deriving DecidableEq, Repr

/-- The island with both supplies valid, before the start (R499); no key, nonce 0, no record, SVC_ARM open (log 7, log 8). -/
def Island.reset : Island :=
  { mainOk := true, stbyOk := true, powered := false, starting := false, heldOff := false, inhibited := false, overVolt := false, down := false, bootFail := false, mainLostAt := none, stbyLostAt := none
    quiesced := [], asked := [], running := [], zeroised := none, perst := [], lowRun := 0, overRun := 0, capGap := none, thermLimit := 16
    dieOver := false, hbmOver := false, coolOver := [false, false], misses := [], nonce := 0, svcKey := [], session := none, result := none
    handover := none, onD1 := false, armed := false, gasps := [], fallback := none, heldSvc := [], record := [], images := []
    cfgs := [⟨false, true, false⟩, ⟨false, true, false⟩], refclk := [true, true], cages := [] }

/-! ### Why a step stops -/

/-- The undefined cases (R549): UB-01 to UB-62 by number, and R4, a broken "must" without a number. -/
inductive UB where
  | ub (n : Nat)
  | r4
  deriving DecidableEq, Repr

/-- The faults. -/
inductive Fault where
  /-- The manual calls the case undefined (R4, R22): the meaning that meets it stops. Safe: the module may do anything that R22 and R23 allow. -/
  | undefined (c : UB)
  deriving DecidableEq, Repr

/-- The refusals. -/
inductive Refusal where
  /-- Raised by an arm of `exec` that has no meaning yet. Safe: nothing is claimed of it. -/
  | notModelled (mnemonic : String)
  deriving DecidableEq, Repr

/-! ### The state -/

/-- Facts about this module that never change in its life: the disabled physical tiles of each die (R40), the vendor (R1, R471), the far ports'
own MAC addresses (R409), the hash of the firmware's signing key (R523), the private half of the device key pair made at manufacture (R515), the serial number of both host functions (R467). -/
structure Fuses where
  disabled : List (List Nat)
  vendor : Nat
  macs : List Nat
  fwKeyHash : List Nat
  serial : Nat
  devPriv : Nat
  deriving DecidableEq, Repr

/-- The module. -/
structure State where
  /-- The commands that wait, first in, first out (the block form). -/
  pending : List Instr
  /-- An undefined case (R4, R22) that the present command has met inside its effect, where it then stops; the model's own. -/
  breach : Option UB
  /-- How many free values have been used (log 1); the model's own. -/
  free : Nat
  /-- The number of the next transfer, held read or remote copy; the model's own. -/
  nextId : Nat
  /-- Generation of the last write to each 256-byte line of the HBM window, by address, and the present generation (R170); the model's own bookkeeping. -/
  lineGen : Tbl Nat
  gen : Nat
  fuses : Fuses
  /-- The timebase (R490). -/
  time : Nat
  out : List Out
  /-- Bytes of every store (R53, R58, R69, R288, R523) and of host memory. -/
  mem : Tbl Byte
  /-- The control registers that the register file holds, by control-window offset (R469). -/
  ctl : Tbl Word
  /-- The live tallies, by the offset of their register (R487). -/
  tally : Tbl Tally
  /-- The latched tallies of a snapshot in progress (R488). -/
  snap : Option (List (Nat × Word))
  ev : EvUnit
  tiles : Tbl Tile
  xfers : List Xfer
  hostReads : List HostRead
  flash : Flash
  remotes : List Remote
  flock : Flock
  /-- The step whose close runs (R324), and whether it still waits for the ledger's stacks (R509, R519). -/
  closeStep : Nat
  closeHeld : Bool
  /-- FIRST and COUNT of an initialisation of the ledger that still waits for its stacks (R318, R509, R519). -/
  initHeld : Option (Nat × Nat)
  net : Net
  ctxs : Tbl (Option Ctx)
  barrier : Barrier
  wave : Wave
  /-- The shard transfer in progress (R385). -/
  shard : Option Shard
  far : Far
  cip : Cip
  isl : Island
  /-- The 64 bytes of each work ring's entry in progress (R472). -/
  rings : Tbl (List Nat)
  deriving DecidableEq, Repr

/-- The fuses that the model takes (log 3, log 4): tiles 152 to 159 of every die disabled. -/
def fusesDefault : Fuses :=
  { disabled := List.replicate 8 [152, 153, 154, 155, 156, 157, 158, 159], vendor := 0, macs := [0, 0, 0, 0], fwKeyHash := List.replicate 48 0, serial := 0, devPriv := 1 }

/-- The module after reset (R18): supplies present to the island, compute domain not yet started (R499), every register at the value of its table. -/
def State.reset : State :=
  { pending := [], breach := none, free := 0, nextId := 0, lineGen := [], gen := 0, fuses := fusesDefault, time := 0, out := [], mem := [], ctl := [], tally := []
    snap := none, ev := ⟨[], 0, [], [], []⟩, tiles := [], xfers := [], hostReads := [], flash := ⟨[], [], false, false, false⟩
    remotes := [], flock := Flock.reset, closeStep := 0, closeHeld := false, initHeld := none, net := Net.reset, ctxs := [], barrier := Barrier.reset, wave := Wave.reset
    shard := none, far := Far.reset, cip := Cip.reset, isl := Island.reset, rings := [] }

end Sys2Proof.Machine
end

