-- ==== Sys2Proof/Machine/Ops.lean ====
section
/-!
DEFINITION. The shared operations over the register file, the byte store, the tallies, the event ring and the tile records.
-/
namespace Sys2Proof.Machine

/-- The outcome of a command. -/
abbrev Ans := Host.Outcome State Fault Refusal

/-- The stop of an undefined case (R4, R549). -/
def ub (n : Nat) : Ans := .fault (.undefined (.ub n))

/-- The stop of a broken "must" without a number (R4). -/
def ubR4 : Ans := .fault (.undefined .r4)

/-- Runs on what an outcome leaves, if it leaves a next state. -/
def Ans.andThen (r : Ans) (f : State → Ans) : Ans :=
  match r with
  | .next s => f s
  | r => r

/-- An undefined case is met inside an effect. -/
def State.broke (s : State) (u : UB) : State := { s with breach := some (s.breach.getD u) }

/-- The end of an effect: it stops where it has met an undefined case. -/
def State.done (s : State) : Ans :=
  match s.breach with
  | some u => .fault (.undefined u)
  | none => .next s

/-- One edge of the timebase clock (R490): what a step does when no command waits. DESIGN CHOICE (log 11). -/
def State.tick (s : State) : State := { s with time := (s.time + 1) % 2 ^ 64 }

/-! ### Words -/

/-- The word `w` with bits `[lo + len - 1 : lo]` replaced by `v`. -/
def setBits (w lo len v : Nat) : Nat := w - fld w lo len * 2 ^ lo + v % 2 ^ len * 2 ^ lo

/-- A Boolean as a bit. -/
def bit (b : Bool) : Nat := if b then 1 else 0

/-- Serial-number order of counters of `n` bits: whether `a` precedes `b` (R491). -/
def serialBefore (n a b : Nat) : Bool :=
  let d := (b + 2 ^ n - a % 2 ^ n) % 2 ^ n
  0 < d && d < 2 ^ (n - 1)

/-- Little-endian bytes of a value (R6). -/
def leBytes : Nat → Nat → List Nat
  | 0, _ => []
  | n + 1, v => v % 256 :: leBytes n (v / 256)

/-- The value of little-endian bytes (R6). -/
def leVal : List Nat → Nat
  | [] => 0
  | b :: bs => b % 256 + 256 * leVal bs

/-- Big-endian bytes of a value (R7). -/
def beBytes (n v : Nat) : List Nat := (leBytes n v).reverse

/-- The value of big-endian bytes (R7). -/
def beVal (bs : List Nat) : Nat := leVal bs.reverse

/-! ### The register file -/

/-- What the register file holds at a control-window offset. -/
def State.ctlRaw (s : State) (off : Nat) : Word := tblGet ctlReset s.ctl off

/-- The register file with another value at an offset. -/
def State.setCtl (s : State) (off : Nat) (v : Word) : State := { s with ctl := tblSet ctlReset s.ctl off v }

/-- The number that register `n` under indices `idx` holds. -/
def State.reg (s : State) (n : RegName) (idx : List Nat) : Nat := (s.ctlRaw (regOff n idx)).toNat

/-- Replaces a register whole. -/
def State.setReg (s : State) (n : RegName) (idx : List Nat) (v : Nat) : State :=
  s.setCtl (regOff n idx) (BitVec.ofNat 64 v)

/-- A field of a register. -/
def State.rf (s : State) (n : RegName) (idx : List Nat) (lo len : Nat) : Nat := fld (s.reg n idx) lo len

/-- Replaces a field of a register. -/
def State.setRf (s : State) (n : RegName) (idx : List Nat) (lo len v : Nat) : State :=
  s.setReg n idx (setBits (s.reg n idx) lo len v)

/-- A one-bit field. -/
def State.flag (s : State) (n : RegName) (idx : List Nat) (b : Nat) : Bool := s.rf n idx b 1 == 1

/-! ### The byte store -/

/-- What a byte that nothing has written reads as (R288, R499; host memory: log 9). -/
def memDefault (_ : Nat) : Byte := 0

/-- The byte at a key of the store. -/
def State.byte (s : State) (k : Nat) : Nat := (tblGet memDefault s.mem k).toNat

/-- The store with another byte at a key. -/
def State.setByte (s : State) (k v : Nat) : State := { s with mem := tblSet memDefault s.mem k (BitVec.ofNat 8 v) }

/-- `n` bytes from a key on. -/
def State.bytes (s : State) (k n : Nat) : List Nat := (List.range n).map (fun i => s.byte (k + i))

/-- Writes bytes from a key on. -/
def State.setBytes (s : State) (k : Nat) : List Nat → State
  | [] => s
  | b :: bs => (s.setByte k b).setBytes (k + 1) bs

/-- A little-endian value of `n` bytes at a key (R6). -/
def State.le (s : State) (k n : Nat) : Nat := leVal (s.bytes k n)

/-- Writes a little-endian value of `n` bytes at a key. -/
def State.setLe (s : State) (k n v : Nat) : State := s.setBytes k (leBytes n v)

/-- The key of a host bus address. -/
def hostKey (addr : Nat) : Nat := 2 ^ 64 + addr % 2 ^ 64

/-- The key of a byte of the service island's NOR. -/
def norKey (off : Nat) : Nat := 2 ^ 70 + off

/-! ### Free values (log 1) -/

/-- Takes the next free word. -/
def State.takeWord (s : State) : Word × State := (Config.freeWord s.free, { s with free := s.free + 1 })

/-- Takes the next free choice. -/
def State.takeBool (s : State) : Bool × State := (Config.freeBool s.free, { s with free := s.free + 1 })

/-! ### Tallies and events -/

def State.tallyAt (s : State) (off : Nat) : Tally := tblGet (fun _ => Tally.zero) s.tally off

/-- Adds to a live count; what does not fit is lost and sets the live sticky bit (R489). -/
def Tally.add (t : Tally) (n : Nat) : Tally :=
  if n = 0 then t
  else if t.count + n ≤ 0xFFFFFFFF then { t with count := t.count + n }
  else ⟨0xFFFFFFFF, true⟩

/-- Adds to a tally without looking at its sticky bit. -/
def State.tallyBump (s : State) (off n : Nat) : State :=
  { s with tally := tblSet (fun _ => Tally.zero) s.tally off ((s.tallyAt off).add n) }

/-- The PORT field of the event ring's control register (R479, R482). -/
def State.evPort (s : State) : Nat := s.rf .evtRingCtrl [] 56 1

/-- The offset of the vector-control quadword of an MSI-X table entry in a port's table; the table of port 1 stands behind
the control window's own offsets (R467, R482). -/
def msixOff (port vec : Nat) : Nat := regOff .evtMsix [2 * vec + 1] + port * 2 ^ 26

/-- Whether a vector is masked in a port's table. Its mask bit is 1 until the host clears it (the PCI Express Base Specification;
PRESUMED, log 10). -/
def State.msixMasked (s : State) (port vec : Nat) : Bool :=
  fld (s.ctlRaw (msixOff port vec)).toNat 32 1 == 1

/-- Whether a port's reference clock is good; the root clock of J2 drives both ports' dies (R536; DEDUCED, log 51). -/
def State.refOk (s : State) (port : Nat) : Bool := s.isl.refclk.getD 0 true && s.isl.refclk.getD port true

/-- Whether a host port's link is held down: its PERST_N is low, a reset of its die runs (R519, R537), or it cannot train for want of its reference
clock (R536). -/
def State.linkHeld (s : State) (port : Nat) : Bool :=
  s.isl.perst.contains port || s.isl.running.any (fun r => r.kind == 3 && r.unit == 4 * port) || !s.refOk port

/-- A host port's configuration space (R467, R500). -/
def State.cfg (s : State) (port : Nat) : PortCfg := s.isl.cfgs.getD port ⟨false, true, false⟩

/-- A vector's message leaves over a port, with the address and data of its table entry, and its holdoff begins (R482). What the device posts on a
port whose link is held down is lost (log 10). -/
def State.msixMessage (s : State) (port vec : Nat) : State :=
  let a := (s.ctlRaw (msixOff port vec - 8)).toNat
  let d := fld (s.ctlRaw (msixOff port vec)).toNat 0 32
  let s := if s.linkHeld port then s else { s with out := s.out ++ [.msix port vec a d] }
  if s.rf .evtModerate [] 0 16 = 0 || s.ev.holdoff.any (fun h => h.1 == vec) then s
  else { s with ev := { s.ev with holdoff := s.ev.holdoff ++ [(vec, false)] } }

/-- Sends a vector's message; sets its pending bit while it, or the function, is masked; does nothing while MSI-X is not enabled (R482, log 10). -/
def State.sendMsix (s : State) (vec : Nat) : State :=
  let p := s.evPort
  if (s.cfg p).msixEnable = false then s
  else if (s.cfg p).funcMask || s.msixMasked p vec then
    if s.ev.msixPending.contains (p, vec) then s
    else { s with ev := { s.ev with msixPending := s.ev.msixPending ++ [(p, vec)] } }
  else s.msixMessage p vec

/-- The message that follows a record: none within the vector's holdoff, which remembers that a record was written (R482). -/
def State.recordMsix (s : State) (code index : Nat) : State :=
  let g := code / 256
  let v := (s.rf .evtRoute [g] 0 11 + (index &&& s.rf .evtRoute [g] 16 11)) % 2048
  if s.ev.holdoff.any (fun h => h.1 == v) then
    { s with ev := { s.ev with holdoff := s.ev.holdoff.map (fun h => if h.1 == v then (v, true) else h) } }
  else s.sendMsix v

/-- The bytes of a record with its PHASE (R478, R479). -/
def EvRec.bytes (r : EvRec) (phase : Nat) : List Nat :=
  leBytes 2 r.code ++ [phase, r.detail % 256] ++ leBytes 4 (r.kind * 2 ^ 28 + r.index % 2 ^ 28) ++ leBytes 8 r.time
    ++ leBytes 8 r.arg0 ++ leBytes 8 r.arg1

/-- Writes a record into the ring and advances TAIL (R479); on a port whose link is held down the write is lost (R537, log 10). -/
def State.writeRec (s : State) (r : EvRec) : State :=
  let e := s.rf .evtRingTail [] 0 32
  let n := 2 ^ s.rf .evtRingCtrl [] 16 5
  let phase := if e / n % 2 = 0 then 1 else 0
  let s := if s.linkHeld s.evPort then s else s.setBytes (hostKey (s.reg .evtRingBase [] + 32 * (e % n))) (r.bytes phase)
  let s := { s with ev := { s.ev with recent := (r.bytes phase :: s.ev.recent).take 64 } }
  let s := s.setReg .evtRingTail [] ((e + 1) % 2 ^ 32)
  s.recordMsix r.code r.index

/-- Whether the ring is full (R480). -/
def State.ringFull (s : State) : Bool :=
  (s.rf .evtRingTail [] 0 32 + 2 ^ 32 - s.rf .evtRingHead [] 0 32) % 2 ^ 32 == 2 ^ s.rf .evtRingCtrl [] 16 5

/-- Discards records: counts them, and sets OVERFLOW (R480). -/
def State.discard (s : State) (n : Nat) : State :=
  let s := { s with ev := { s.ev with lostSince := s.ev.lostSince + n } }
  let s := s.setRf .evtRingCtrl [] 62 1 1
  s.tallyBump (regOff .evtLost []) n

/-- Writes what the ring has room for: an EVENT_LOST record first when records were discarded, then the held records (R480). -/
def State.drainRing : Nat → State → State
  | 0, s => s
  | k + 1, s =>
    if s.flag .evtRingCtrl [] 63 && !s.ringFull then
      if 0 < s.ev.lostSince then
        let n := s.ev.lostSince
        let s := { s with ev := { s.ev with lostSince := 0 } }
        State.drainRing k (s.writeRec ⟨0x0003, 0, 0, 0, s.time, n, 0⟩)
      else
        match s.ev.held with
        | [] => s
        | r :: rs => State.drainRing k ({ s with ev := { s.ev with held := rs } }.writeRec r)
    else s

/-- Takes a record into the event unit: disabled codes vanish; a record is written, held while the ring is full, or discarded (R479, R480). -/
def State.emit (s : State) (r : EvRec) : State :=
  if fld (s.reg .evtEnable [r.code / 256]) (r.code % 256) 1 = 0 then s
  else if !s.flag .evtRingCtrl [] 63 || 1024 ≤ s.ev.held.length then s.discard 1
  else State.drainRing 1026 { s with ev := { s.ev with held := s.ev.held ++ [r] } }

/-- The TALLY_SAT record of a tally (R478, R489). -/
def tallySatRec (s : State) (off : Nat) : EvRec := ⟨0x0004, 0, 0xC, off / 8, s.time, 0, 0⟩

/-- Raises an event (R478): code, coded items, source kind and index, the two value fields. A discarded record that saturates EVT.LOST raises
that tally's own event. -/
def State.raise (s : State) (code detail kind index arg0 arg1 : Nat) : State :=
  let o := regOff .evtLost []
  let s' := s.emit ⟨code, detail, kind, index, s.time, arg0, arg1⟩
  if (s'.tallyAt o).sticky && !(s.tallyAt o).sticky then s'.emit (tallySatRec s' o) else s'

/-- Discards records; EVT.LOST's own saturation raises TALLY_SAT (R480, R489). -/
def State.lose (s : State) (n : Nat) : State :=
  let o := regOff .evtLost []
  let s' := s.discard n
  if (s'.tallyAt o).sticky && !(s.tallyAt o).sticky then s'.emit (tallySatRec s' o) else s'

/-- Adds to a tally; its sticky bit going from 0 to 1 raises TALLY_SAT (R489). -/
def State.tallyAdd (s : State) (off n : Nat) : State :=
  let s' := s.tallyBump off n
  if (s'.tallyAt off).sticky && !(s.tallyAt off).sticky then
    s'.raise 0x0004 0 0xC (off / 8) 0 0
  else s'

/-! ### Snapshots (R488) -/

/-- The tally registers show the snapshot (R488). -/
def State.snapShow (s : State) : State :=
  match s.snap with
  | none => s
  | some l =>
    let s := l.foldl (fun (s : State) (e : Nat × Word) => s.setCtl e.1 e.2) s
    { s with snap := none }.setRf .evtSnapCtrl [] 61 1 0

/-! ### Progress slots (R484, R485) -/

/-- An operation claims a progress slot: code of the operation, unit, total. -/
def State.progClaim (s : State) (slot op unit total : Nat) : State :=
  let w := s.reg .evtProgState [slot]
  let w := if fld w 62 2 = 1 then setBits w 61 1 1 else w
  let w := setBits (setBits (setBits w 62 2 1) 60 1 unit) 56 4 op
  let w := setBits (setBits w 32 14 0) 0 32 (fld w 0 32 + 1)
  ((s.setReg .evtProgState [slot] w).setReg .evtProgPos [slot] 0).setReg .evtProgTotal [slot] total

/-- Whether a slot still reports for an operation of a given code: one that has been overtaken no longer reports (R485). -/
def State.progOwned (s : State) (slot op : Nat) : Bool := s.rf .evtProgState [slot] 62 2 == 1 && s.rf .evtProgState [slot] 56 4 == op

/-- The position of a running operation: POS and BP; basis points reach 10,000 only when the operation ends (R484, R295), and neither falls. -/
def State.progPos (s : State) (slot op pos : Nat) : State :=
  if s.progOwned slot op = false then s else
  let total := s.reg .evtProgTotal [slot]
  let pos := max pos (s.reg .evtProgPos [slot])
  let bp := max (s.rf .evtProgState [slot] 32 14) (if total = 0 then 0 else min 9999 (10000 * pos / total))
  (s.setReg .evtProgPos [slot] pos).setRf .evtProgState [slot] 32 14 bp

/-- An operation ends, done or failed: PROGRESS_END (R484). -/
def State.progEnd (s : State) (slot op : Nat) (ok : Bool) : State :=
  if s.progOwned slot op = false then s else
  let st := if ok then 2 else 3
  let s := s.setRf .evtProgState [slot] 62 2 st
  let s := if ok then s.setRf .evtProgState [slot] 32 14 10000 else s
  s.raise 0x0005 st 0xB slot (s.reg .evtProgPos [slot]) 0

/-! ### Tiles -/

/-- The record of a physical tile. -/
def State.tile (s : State) (t : Nat) : Tile := tblGet (fun _ => Tile.reset) s.tiles t

/-- Replaces the record of a physical tile. -/
def State.setTile (s : State) (t : Nat) (x : Tile) : State :=
  { s with tiles := tblSet (fun _ => Tile.reset) s.tiles t x }

/-- Indices of a tile's registers in TILE[d]: die and physical index. -/
def tix (t : Nat) : List Nat := [t / 160, t % 160]

/-- Whether a physical tile is enabled (R40). -/
def State.present (s : State) (t : Nat) : Bool :=
  t < 1280 && !(s.fuses.disabled.getD (t / 160) []).contains (t % 160)

/-- The logical number of a physical tile (R41). -/
def State.logical (s : State) (t : Nat) : Nat :=
  152 * (t / 160) + ((List.range (t % 160)).filter (fun p => s.present (t / 160 * 160 + p))).length

/-- The slice of a tile (R43, R47). -/
def State.slice (s : State) (t : Nat) : Nat := if s.present t then s.rf .tileTileCfg (tix t) 0 6 else 0

/-- Whether a tile belongs to the paddock (R43). -/
def State.isPaddock (s : State) (t : Nat) : Bool := s.slice t == 63

/-- RUNNING of a tile (R172). -/
def State.tileRunning (s : State) (t : Nat) : Bool := (s.tile t).seq != .stopped

/-- ID.PADDOCK.ENABLE (R48). -/
def State.paddockOn (s : State) : Bool := s.flag .idPaddock [] 16

/-- Whether an emergency quiesce has gated a tile's clock (R509). -/
def State.gated (s : State) (t : Nat) : Bool := s.isl.quiesced.contains (t / 160)

/-- Every physical tile. -/
def allTiles : List Nat := List.range 1280

/-- ID.PADDOCK.COUNT: the enabled tiles whose SLICE is 63 (R47). -/
def State.paddockCount (s : State) : Nat := (allTiles.filter s.isPaddock).length

/-- An event of a tile (R478). -/
def State.raiseTile (s : State) (t code detail arg0 : Nat) : State := s.raise code detail 1 (s.logical t) arg0 0

/-! ### Outcomes on registers that stand for commands -/

/-- The value that an access writes, over the register's old value: a half-access keeps the other half (R12, R13). -/
def accMerge (acc : Acc) (old v : Nat) : Nat :=
  match acc with
  | .full => v
  | .low => old / 2 ^ 32 * 2 ^ 32 + v % 2 ^ 32
  | .high => v % 2 ^ 32 * 2 ^ 32 + old % 2 ^ 32
  | .other => old

/-- The bits that an access covers. -/
def accMask (acc : Acc) : Nat :=
  match acc with
  | .full => 2 ^ 64 - 1
  | .low => 2 ^ 32 - 1
  | .high => 2 ^ 64 - 2 ^ 32
  | .other => 0

/-- The bits an access presents at their places in the register. -/
def accBits (acc : Acc) (v : Nat) : Nat := accMerge acc 0 v

end Sys2Proof.Machine
end

