-- ==== Sys2Proof/Machine/Crypto.lean ====
section
/-!
DEFINITION. The published algorithms that the manual names: AES-256, GCM (SP 800-38D), the key wrap KW (SP 800-38F), SHA-384 and ECDSA over
P-384. Their definitions are taken from the publications that the manual cites (PRESUMED, log 16). Bytes are natural numbers below 256.
-/
namespace Sys2Proof.Machine

/-! ### AES-256 -/

/-- Multiplication by x in the field of AES. -/
def xtime (a : Nat) : Nat := if 128 ≤ a then (2 * a - 256) ^^^ 0x1B else 2 * a

/-- The product of two bytes in the field of AES; the fuel counts the bits of the second. -/
def gfMulGo : Nat → Nat → Nat → Nat → Nat
  | 0, _, _, acc => acc
  | k + 1, a, b, acc => gfMulGo k (xtime a) (b / 2) (if b % 2 = 1 then acc ^^^ a else acc)

def gfMul (a b : Nat) : Nat := gfMulGo 8 a b 0

/-- Entry `a` of a table of 256 bytes, 32 in each word, the first lowest. -/
def tableByte (t : List Nat) (a : Nat) : Nat := t.getD (a / 32) 0 / 2 ^ (8 * (a % 32)) % 256

/-- The substitution of AES as FIPS 197 tabulates it (a test derives it from inverses), and its inverse. -/
def aesSbox (a : Nat) : Nat :=
  tableByte [0xc072a49cafa2d4adf04759fa7dc982ca76abd7fe2b670130c56f6bf27b777c63, 0x75b227ebe28012079a059618c323c7041531d871f1e5a534ccf73f362693fdb7, 0xcf584c4a39becb6a5bb1fc20ed00d153842fe329b3d63b52a05a6e1b1a2c8309, 0xd2f3ff1021dab6bcf5389d928f40a351a89f3c507f02f94585334d43fbaaefd0, 0xdb0b5ede14b8ee4688902a22dc4f816073195d643d7ea7c41744975fec130ccd, 0x08ae7a65eaf4566ca94ed58d6d37c8e779e4959162acd3c25c2406490a3a32e0, 0x9e1dc186b95735610ef6034866b53e708a8bbd4b1f74dde8c6b4a61c2e2578ba, 0x16bb54b00f2d99416842e6bf0d89a18cdf2855cee9871e9b948ed9691198f8e1] a

def aesInvSbox (a : Nat) : Nat :=
  tableByte [0xcbe9dec444438e3487ff2f9b8239e37cfbd7f3819ea340bf38a53630d56a0952, 0x25d18b6d49a25b76b224d92866a12e084ec3fa420b954cee3d23c2a632947b54, 0x849d8da75746155edab9edfd5048706c92b6655dcc5ca4d41698688664f6f872, 0x6b8a130103bdafc1020f3fca8f1e2cd00645b3b80558e4f70ad3bc8c00abd890, 0x6edf751ce837f9e28535ade72274ac9673e6b4f0cecff297eadc674f4111913a, 0xf45acd78fec0db9a2079d2c64b3e56fc1bbe18aa0e62b76f89c5291d711af147, 0xef9cc9939f7ae52d0d4ab519a97f51605fec8027591012b131c7078833a8dd1f, 0x7d0c2155631469e126d677ba7e042b17619953833cbbebc8b0f52aae4d3be0a0] a

/-- The bytewise exclusive or of two lists. -/
def xorBytes (a b : List Nat) : List Nat := List.zipWith (· ^^^ ·) a b

/-- The key schedule: the words of AES-256 after the first eight, newest first; the fuel counts the words. -/
def aesExpand : Nat → Nat → Nat → List (List Nat) → List (List Nat)
  | 0, _, _, ws => ws
  | k + 1, i, rcon, ws =>
    let prev := ws.headD []
    let old := ws.getD 7 []
    let w :=
      if i % 8 = 0 then
        let r := (prev.drop 1 ++ prev.take 1).map aesSbox
        xorBytes r [rcon, 0, 0, 0]
      else if i % 8 = 4 then prev.map aesSbox
      else prev
    aesExpand k (i + 1) (if i % 8 = 0 then xtime rcon else rcon) (xorBytes old w :: ws)

/-- The fifteen round keys of a 32-byte key. -/
def aesKeys (key : List Nat) : List (List Nat) :=
  let ws := (List.range 8).map (fun i => (key.drop (4 * i)).take 4)
  let all := (aesExpand 52 8 1 ws.reverse).reverse
  (List.range 15).map (fun r => ((all.drop (4 * r)).take 4).flatten)

/-- The row shift and its inverse on a state in column order. -/
def aesShift (inv : Bool) (b : List Nat) : List Nat :=
  (List.range 16).map (fun k =>
    let r := k % 4
    let c := k / 4
    b.getD (r + 4 * ((if inv then c + 4 - r else c + r) % 4)) 0)

/-- The column mixing with the coefficients of its first row. -/
def aesMix (m : List Nat) (b : List Nat) : List Nat :=
  (List.range 16).map (fun k =>
    let r := k % 4
    let c := k / 4 * 4
    (List.range 4).foldl (fun a j => a ^^^ gfMul (b.getD (c + j) 0) (m.getD ((j + 4 - r) % 4) 0)) 0)

/-- AES-256 of a 16-byte block under round keys. -/
def aesEncK (ks : List (List Nat)) (b : List Nat) : List Nat :=
  let s := xorBytes b (ks.headD [])
  let s := (ks.drop 1).take 13 |>.foldl (fun s k => xorBytes (aesMix [2, 3, 1, 1] (aesShift false (s.map aesSbox))) k) s
  xorBytes (aesShift false (s.map aesSbox)) (ks.getD 14 [])

def aesEnc (key b : List Nat) : List Nat := aesEncK (aesKeys key) b

/-- The inverse of AES-256. -/
def aesDec (key b : List Nat) : List Nat :=
  let ks := (aesKeys key).reverse
  let s := xorBytes b (ks.headD [])
  let s := (aesShift true s).map aesInvSbox
  let s := (ks.drop 1).take 13 |>.foldl (fun s k => (aesShift true (aesMix [14, 11, 13, 9] (xorBytes s k))).map aesInvSbox) s
  xorBytes s (ks.getD 14 [])

/-! ### GCM -/

/-- One product in the field of GHASH; the fuel counts the bits of the first factor, taken from the top. -/
def ghMulGo : Nat → Nat → Nat → Nat → Nat
  | 0, _, _, z => z
  | k + 1, x, v, z =>
    ghMulGo k x (if v % 2 = 1 then v / 2 ^^^ 0xE1 * 2 ^ 120 else v / 2) (if x.testBit k then z ^^^ v else z)

def ghMul (x y : Nat) : Nat := ghMulGo 128 x y 0

/-- Cuts bytes into blocks of sixteen, the last padded with zero bytes. -/
def blocks16 : Nat → List Nat → List (List Nat)
  | 0, _ => []
  | _, [] => []
  | k + 1, l => (l.take 16 ++ List.replicate (16 - (l.take 16).length) 0) :: blocks16 k (l.drop 16)

/-- GHASH of additional data and text. -/
def ghash (h : Nat) (aad text : List Nat) : Nat :=
  let bl := blocks16 (aad.length + 1) aad ++ blocks16 (text.length + 1) text ++ [beBytes 8 (8 * aad.length) ++ beBytes 8 (8 * text.length)]
  bl.foldl (fun y b => ghMul (y ^^^ beVal b) h) 0

/-- The counter mode of GCM from a counter on. -/
def gctr (ks : List (List Nat)) (iv : List Nat) : Nat → Nat → List Nat → List Nat
  | 0, _, _ => []
  | _, _, [] => []
  | k + 1, ctr, l => xorBytes (l.take 16) (aesEncK ks (iv ++ beBytes 4 ctr)) ++ gctr ks iv k (ctr + 1) (l.drop 16)

/-- The tag over a ciphertext. -/
def gcmTag (key iv aad ct : List Nat) : List Nat :=
  let ks := aesKeys key
  let h := beVal (aesEncK ks (List.replicate 16 0))
  xorBytes (beBytes 16 (ghash h aad ct)) (aesEncK ks (iv ++ [0, 0, 0, 1]))

/-- Encryption and decryption are one operation of the counter mode. -/
def gcmText (key iv t : List Nat) : List Nat := gctr (aesKeys key) iv (t.length + 1) 2 t

/-- Ciphertext and tag. -/
def gcmSeal (key iv aad pt : List Nat) : List Nat × List Nat :=
  let ct := gcmText key iv pt
  (ct, gcmTag key iv aad ct)

/-- The plaintext where the tag verifies. -/
def gcmOpen (key iv aad ct tag : List Nat) : Option (List Nat) :=
  if gcmTag key iv aad ct = tag then some (gcmText key iv ct) else none

/-! ### Key wrap -/

/-- The steps of a wrap over the registers R, in order; `t` counts the steps. -/
def kwWrapGo (key : List Nat) : List (List Nat) → List Nat → Nat → List Nat × List (List Nat)
  | [], a, _ => (a, [])
  | r :: rs, a, t =>
    let b := aesEnc key (a ++ r)
    let (a', out) := kwWrapGo key rs (xorBytes (b.take 8) (beBytes 8 t)) (t + 1)
    (a', b.drop 8 :: out)

/-- Cuts bytes into words of eight. -/
def words8 (l : List Nat) : List (List Nat) := (List.range (l.length / 8)).map (fun i => (l.drop (8 * i)).take 8)

/-- The wrap of a string of whole 8-byte words. -/
def kwWrap (key p : List Nat) : List Nat :=
  let rs := words8 p
  let n := rs.length
  let (a, out) := (List.range 6).foldl (fun (a, l) j => kwWrapGo key l a (n * j + 1)) (List.replicate 8 0xA6, rs)
  a ++ out.flatten

/-- The steps of an unwrap, last register first. -/
def kwUnwrapGo (key : List Nat) : List (List Nat) → List Nat → Nat → List Nat × List (List Nat)
  | [], a, _ => (a, [])
  | r :: rs, a, t =>
    let b := aesDec key (xorBytes a (beBytes 8 t) ++ r)
    let (a', out) := kwUnwrapGo key rs (b.take 8) (t - 1)
    (a', b.drop 8 :: out)

/-- The unwrap; none where the integrity check fails. -/
def kwUnwrap (key c : List Nat) : Option (List Nat) :=
  match words8 c with
  | [] => none
  | a0 :: rs =>
    let n := rs.length
    let (a, out) := (List.range 6).foldl (fun (a, l) j => kwUnwrapGo key l a (n * (6 - j))) (a0, rs.reverse)
    if a = List.replicate 8 0xA6 then some out.reverse.flatten else none

/-! ### SHA-384 -/

/-- The first eighty primes. -/
def primes80 : List Nat := ((List.range 410).filter (fun n => 2 ≤ n && (List.range n).all (fun d => d < 2 || n % d != 0))).take 80

/-- The floor of a cube root, bit by bit. -/
def icbrtGo (n : Nat) : Nat → Nat → Nat
  | 0, r => r
  | k + 1, r => let c := r + 2 ^ k; icbrtGo n k (if c * c * c ≤ n then c else r)

/-- The round constants: the first 64 bits of the fractions of the cube roots. -/
def sha512K : List Nat := primes80.map (fun p => icbrtGo (p * 2 ^ 192) 67 0 % 2 ^ 64)

/-- The initial value of SHA-384: the fractions of the square roots of the ninth to sixteenth primes. -/
def sha384H : List Nat := ((primes80.drop 8).take 8).map (fun p => isqrt (p * 2 ^ 128) % 2 ^ 64)

/-- A 64-bit word rotated right. -/
def rotr64 (x k : Nat) : Nat := x / 2 ^ k + x % 2 ^ k * 2 ^ (64 - k)

/-- The message schedule, newest first. -/
def shaSchedule : Nat → List Nat → List Nat
  | 0, w => w
  | k + 1, w =>
    let x := w.getD 14 0
    let y := w.getD 1 0
    let s0 := rotr64 x 1 ^^^ rotr64 x 8 ^^^ x / 2 ^ 7
    let s1 := rotr64 y 19 ^^^ rotr64 y 61 ^^^ y / 2 ^ 6
    shaSchedule k ((w.getD 15 0 + s0 + w.getD 6 0 + s1) % 2 ^ 64 :: w)

/-- One round on the eight working words. -/
def shaRound (v : List Nat) (kw : Nat) : List Nat :=
  match v with
  | [a, b, c, d, e, f, g, h] =>
    let s1 := rotr64 e 14 ^^^ rotr64 e 18 ^^^ rotr64 e 41
    let ch := (e &&& f) ^^^ ((2 ^ 64 - 1 - e) &&& g)
    let t1 := h + s1 + ch + kw
    let s0 := rotr64 a 28 ^^^ rotr64 a 34 ^^^ rotr64 a 39
    let mj := (a &&& b) ^^^ (a &&& c) ^^^ (b &&& c)
    [(t1 + s0 + mj) % 2 ^ 64, a, b, c, (d + t1) % 2 ^ 64, e, f, g]
  | v => v

/-- One block. -/
def shaBlock (ks : List Nat) (h : List Nat) (block : List Nat) : List Nat :=
  let w := shaSchedule 64 ((List.range 16).map (fun i => beVal ((block.drop (8 * i)).take 8))).reverse
  let v := (List.zipWith (· + ·) ks w.reverse).foldl shaRound h
  List.zipWith (fun a b => (a + b) % 2 ^ 64) h v

/-- The digest of bytes. -/
def sha384 (m : List Nat) : List Nat :=
  let pad := m ++ [0x80] ++ List.replicate ((239 - m.length % 128) % 128) 0 ++ beBytes 16 (8 * m.length)
  let ks := sha512K
  let h := (List.range (pad.length / 128)).foldl (fun h i => shaBlock ks h ((pad.drop (128 * i)).take 128)) sha384H
  (h.take 6).flatMap (beBytes 8)

/-! ### ECDSA over P-384 -/

def p384P : Nat := 2 ^ 384 - 2 ^ 128 - 2 ^ 96 + 2 ^ 32 - 1
def p384B : Nat := 0xb3312fa7e23ee7e4988e056be3f82d19181d9c6efe8141120314088f5013875ac656398d8a2ed19d2a85c8edd3ec2aef
def p384N : Nat := 0xffffffffffffffffffffffffffffffffffffffffffffffffc7634d81f4372ddf581a0db248b0a77aecec196accc52973
def p384Gx : Nat := 0xaa87ca22be8b05378eb1c71ef320ad746e1d3b628ba79b9859f741e082542a385502f25dbf55296c3a545e3872760ab7
def p384Gy : Nat := 0x3617de4a96262c6f5d9e98bf9292dc29f8f41dbd289a147ce9da3113b5f0b8c00a60b1ce1d7e819d7a431d7c90ea0e5f

/-- Modular power with fuel for the exponent's bits. -/
def powFuel (p : Nat) : Nat → Nat → Nat → Nat → Nat
  | 0, _, _, acc => acc
  | k + 1, b, e, acc => powFuel p k (b * b % p) (e / 2) (if e % 2 = 1 then acc * b % p else acc)

/-- The inverse modulo a prime of 384 bits. -/
def invMod (p a : Nat) : Nat := powFuel p 384 (a % p) (p - 2) 1

/-- Subtraction modulo p. -/
def subMod (p a b : Nat) : Nat := (a + p - b % p) % p

/-- Points in Jacobian coordinates; Z = 0 is the point at infinity. -/
structure EcPoint where
  x : Nat
  y : Nat
  z : Nat
  deriving DecidableEq, Repr

/-- Doubling on a curve with a = -3. -/
def ecDouble (q : EcPoint) : EcPoint :=
  let p := p384P
  let yy := q.y * q.y % p
  let s := 4 * q.x * yy % p
  let zz := q.z * q.z % p
  let m := 3 * (subMod p q.x zz) * (q.x + zz) % p
  let x := subMod p (m * m % p) (2 * s)
  ⟨x, subMod p (m * subMod p s x % p) (8 * yy * yy), 2 * q.y * q.z % p⟩

/-- Addition. -/
def ecAdd (a b : EcPoint) : EcPoint :=
  let p := p384P
  if a.z = 0 then b
  else if b.z = 0 then a
  else
    let az := a.z * a.z % p
    let bz := b.z * b.z % p
    let u1 := a.x * bz % p
    let u2 := b.x * az % p
    let s1 := a.y * bz % p * b.z % p
    let s2 := b.y * az % p * a.z % p
    if u1 = u2 then (if s1 = s2 then ecDouble a else ⟨1, 1, 0⟩)
    else
      let h := subMod p u2 u1
      let r := subMod p s2 s1
      let hh := h * h % p
      let hhh := hh * h % p
      let v := u1 * hh % p
      let x := subMod p (r * r % p) (hhh + 2 * v)
      ⟨x, subMod p (r * subMod p v x % p) (s1 * hhh), a.z * b.z % p * h % p⟩

/-- A multiple of a point; the fuel counts the scalar's bits from the top. -/
def ecMulGo (q : EcPoint) (k : Nat) : Nat → EcPoint → EcPoint
  | 0, acc => acc
  | i + 1, acc =>
    let d := ecDouble acc
    ecMulGo q k i (if k.testBit i then ecAdd d q else d)

def ecMul (q : EcPoint) (k : Nat) : EcPoint := ecMulGo q k 384 ⟨1, 1, 0⟩

/-- Whether a point of the plane lies on the curve. -/
def ecOn (x y : Nat) : Bool := x < p384P && y < p384P && (y * y) % p384P == (x * x * x + p384B + 3 * (p384P - x)) % p384P

/-- The affine coordinates of a point; none at infinity. -/
def ecAffine (q : EcPoint) : Option (Nat × Nat) :=
  let zi := invMod p384P q.z
  let z2 := zi * zi % p384P
  if q.z = 0 then none else some (q.x * z2 % p384P, q.y * z2 % p384P * zi % p384P)

/-- The public half of a key pair, x ∥ y. -/
def ecPublic (priv : Nat) : List Nat :=
  match ecAffine (ecMul ⟨p384Gx, p384Gy, 1⟩ priv) with
  | some (x, y) => beBytes 48 x ++ beBytes 48 y
  | none => []

/-- The ECDH secret shared with an uncompressed public key of 97 bytes; none where it is no point of the curve. -/
def ecdhShared (priv : Nat) (pub : List Nat) : Option Nat :=
  let x := beVal ((pub.drop 1).take 48)
  let y := beVal (pub.drop 49)
  if pub.length = 97 ∧ pub.getD 0 0 = 4 ∧ ecOn x y = true then (ecAffine (ecMul ⟨x, y, 1⟩ priv)).map Prod.fst else none

/-- Verifies the signature (r, s) of a digest under the public key (x, y), each 48 bytes. -/
def ecdsaVerify (pub digest sig : List Nat) : Bool :=
  let x := beVal (pub.take 48)
  let y := beVal (pub.drop 48)
  let r := beVal (sig.take 48)
  let s := beVal (sig.drop 48)
  if pub.length = 96 ∧ sig.length = 96 ∧ ecOn x y = true ∧ 0 < r ∧ r < p384N ∧ 0 < s ∧ s < p384N then
    let w := invMod p384N s
    let u1 := beVal digest * w % p384N
    let u2 := r * w % p384N
    let q := ecAdd (ecMul ⟨p384Gx, p384Gy, 1⟩ u1) (ecMul ⟨x, y, 1⟩ u2)
    let zi := invMod p384P q.z
    q.z != 0 && (q.x * zi % p384P * zi % p384P) % p384N == r
  else false

end Sys2Proof.Machine
end

