-- ==== Sys2Proof/Machine/Views.lean ====
section
/-!
DEFINITION. What a read of a control register returns (R8, R14, R469): the register file's value, and the registers that show
other state of the module.
-/
namespace Sys2Proof.Machine

/-- Tokens' counts; k0 reads 0 (R114, R171). -/
def Tile.token (x : Tile) (k : Nat) : Nat := if k = 0 then 0 else tblGet (fun _ => 0) x.tok k

/-- A group's record. -/
def Tile.group (x : Tile) (g : Nat) : Group := tblGet (fun _ => Group.reset) x.groups g

/-- The state codes of R195. -/
def GState.code : GState → Nat
  | .free => 0 | .opened => 1 | .closing => 2 | .queued => 3 | .held => 4

/-- The queue's own instructions. -/
def Tile.queue (x : Tile) : Queue → List QEntry
  | .mx => x.qMx | .vx => x.qVx | .dv => x.qDv | .lk => x.qLk | .sq => []

/-- Whether a queue holds an instruction or one of its instructions has not completed (R150, R171). -/
def Tile.queueBusy (x : Tile) (q : Queue) : Bool :=
  !(x.queue q).isEmpty || x.flights.any (fun f => f.queue == q)

/-- STATE and STOP_CAUSE codes (R171). -/
def SeqState.code : SeqState → Nat
  | .stopped => 0 | .running => 1 | .draining => 2
def StopCause.code : StopCause → Nat
  | .never => 0 | .halt => 1 | .stop => 2 | .fetchFault => 3

/-- SEQ_STATUS of a tile (R171). -/
def Tile.seqStatus (x : Tile) : Nat :=
  x.haltCode * 2 ^ 32 + x.cause.code * 2 ^ 14 + x.seq.code * 2 ^ 12
    + bit (x.queueBusy .lk) * 2 ^ 11 + bit (x.queueBusy .dv) * 2 ^ 10 + bit (x.queueBusy .vx) * 2 ^ 9
    + bit (x.queueBusy .mx) * 2 ^ 8 + bit x.mode * 2 ^ 7
    + bit x.watchdog * 8 + bit x.tokenSat * 4 + bit x.fetchFault * 2 + bit x.writeReject

/-- How many groups of a tile are in a state. -/
def Tile.groupCount (x : Tile) (p : GState → Bool) : Nat := ((List.range 8).filter (fun g => p (x.group g).st)).length

/-- MX_STATE of a tile (R222). HEAD, which is valid only while a group is queued, reads 0 while none is (DESIGN CHOICE, log 51). -/
def Tile.mxState (x : Tile) : Nat :=
  x.groupCount (fun g => g == .opened || g == .closing) * 2 ^ 36 + x.groupCount (· == .queued) * 2 ^ 32
    + x.tileQueue.headD 0 * 2 ^ 24
    + ((List.range 8).map (fun g => (x.group g).st.code * 8 ^ g)).sum

/-- Eight token counts as one register (R171). -/
def Tile.tokenReg (x : Tile) (n : Nat) : Nat := ((List.range 8).map (fun b => x.token (8 * n + b) * 256 ^ b)).sum

/-- The physical indices of a die's enabled tiles, ascending (R41). -/
def State.dieTiles (s : State) (d : Nat) : List Nat := (List.range 160).filter (fun p => s.present (160 * d + p))

/-- Whether any message of this module is queued or outstanding on the fabric (DEN.STATUS.BUSY, R384): DAWN messages, remote copies, the reads of a shard
transfer, messages that wait at a port. -/
def State.netBusy (s : State) : Bool :=
  s.net.dawnOut != 0 || !s.net.dawnHeld.isEmpty || !s.remotes.isEmpty || s.shard.isSome
    || s.net.ready.any (fun e => e.2.src == s.rf .denModule [] 0 14)

/-- A far channel's record, the bytes that a frame holds, and the uses of R415. -/
def State.chan (s : State) (c : Nat) : Chan := tblGet (fun _ => Chan.reset) s.far.chans c
def FarFrame.size (f : FarFrame) : Nat := f.hdr.length + f.body.length
/-- The frames for which a channel has space in the far buffer: those that it holds, and the one being encrypted. -/
def Chan.held (x : Chan) : List FarFrame := x.frames ++ (x.sealing.map Sealing.frame).toList
def State.chanUse (s : State) (c : Nat) : Nat := ((s.chan c).held.map FarFrame.size).sum
def State.classUse (s : State) (x : Nat) : Nat :=
  (s.far.chans.map (fun c => ((c.2.held.filter (fun f => f.cls == x)).map FarFrame.size).sum)).sum
def State.fbufUse (s : State) : Nat := (s.far.chans.map (fun c => (c.2.held.map FarFrame.size).sum)).sum

/-- A quota register with OVER, 1 while the use exceeds the quota (R416). -/
def overBit (w use : Nat) : Nat := setBits w 63 1 (bit (fld w 12 36 * 4096 < use))

/-- SVC_ARM is closed (R460, R542). -/
def State.armed (s : State) : Bool := s.isl.armed

/-- The key of a privileged slot; empty: none. Slot 0 holds no key (chapter 11). -/
def State.pkey (s : State) (k : Nat) : List Nat := if k = 0 then [] else tblGet (fun _ => []) s.cip.pkeys k

/-- The registers whose value is other state of the module; none where the register file holds the value. -/
def State.view (s : State) (port : Nat) (n : RegName) (idx : List Nat) : Option Nat :=
  let i := idx.headD 0
  let j := idx.getD 1 0
  let t := 160 * i + j
  match n with
  | .idIdent => some (s.fuses.vendor * 2 ^ 48 + 0x088043B10000)
  | .idRoles => some 0x40424043
  | .idPort => some port
  | .idTime => some s.time
  | .idPaddock => some (setBits (s.reg .idPaddock []) 0 11 s.paddockCount)
  | .tileDieInfo => some (152 * i * 2 ^ 16 + 152 * 2 ^ 8 + i)
  | .tileHarvestMap =>
    some ((List.range 64).map (fun b => if 64 * j + b < 160 ∧ s.present (160 * i + 64 * j + b) then 2 ^ b else 0)).sum
  | .tileLtMap => some ((List.range 8).map (fun k => (s.dieTiles i).getD (8 * j + k) 0 * 256 ^ k)).sum
  | .tileTileCfg => some (s.slice t)
  | .tileTileStatus =>
    some (bit (s.tile t).cfgReject * 4 + bit (s.tileRunning t) * 2 + bit (s.present t))
  | .tilePc => some (s.tile t).pc
  | .tileSeqStatus => some (s.tile t).seqStatus
  | .tileToken => some ((s.tile t).tokenReg (idx.getD 2 0))
  | .tileMxState => some (s.tile t).mxState
  | .tileMxLastClose => some (s.tile t).lastClose.toNat
  | .tileVxState =>
    some (bit ((s.tile t).flights.any (fun f => f.queue == .vx)) * 2 ^ 7 + bit (s.tile t).dt.valid * 2 + bit (s.tile t).vt.valid)
  | .tileVxFtId => some ((s.tile t).dt.id * 2 ^ 32 + (s.tile t).vt.id)
  | .denStatus => some (setBits (s.reg .denStatus []) 0 1 (bit s.netBusy))
  | .cipKeystore =>
    some (bit s.cip.kek.isSome * 2 ^ 63 + bit s.armed * 2 ^ 62 + s.rf .cipKeystore [] 61 1 * 2 ^ 61
      + ((List.range 16).map (fun k => if s.pkey k = [] then 0 else 2 ^ (32 + k))).sum + s.cip.kekGen)
  | .cipEngine => some (setBits (s.reg .cipEngine [i]) 40 6 (s.cip.cache.filter (fun c => c.eng == i)).length)
  | .farFbufUse => some s.fbufUse
  | .farClassUse => some (s.classUse i)
  | .farChanUse => some (s.chanUse i)
  | .farClassQ => some (overBit (s.reg .farClassQ [i]) (s.classUse i))
  | .farChanQuota => some (overBit (s.reg .farChanQuota [i]) (s.chanUse i))
  | .ledCommit => some (setBits (s.reg .ledCommit []) 48 2 (s.reg .ledCommit [] % 4))
  | .shmStatus => some (setBits (s.reg .shmStatus []) 61 1 (bit s.armed))
  | .farPortOwnMac => some (s.fuses.macs.getD i 0)
  | .evtPba =>
    some ((List.range 64).map (fun b => if s.ev.msixPending.contains (port, 64 * i + b) then 2 ^ b else 0)).sum
  | .evtMsix => some (s.ctlRaw (regOff .evtMsix [i] + port * 2 ^ 26)).toNat
  | _ => none

/-- The value of the control register at an offset as a read over `port` returns it; an offset that no block defines reads 0 (R469). -/
def State.ctlRead (s : State) (port off : Nat) : Nat :=
  match regFind off with
  | none => 0
  | some (n, idx) => (s.view port n idx).getD (s.ctlRaw off).toNat

/-- The bits that a read of a register clears (R14, R17): its RC bits. -/
def rcMask (off : Nat) : Nat :=
  match regFind off with
  | none => 0
  | some (n, _) => (regRow n).rc

/-- A read over `port`: the value, and the register file after its read-to-clear bits have been cleared in the part that was read (R17). -/
def State.ctlReadRc (s : State) (port off : Nat) (acc : Acc) : Nat × State :=
  let v := s.ctlRead port off
  let m := rcMask off &&& accMask acc
  let part := match acc with
    | .full => v
    | .low => v % 2 ^ 32
    | .high => v / 2 ^ 32
    | .other => 0
  (part, if m = 0 then s else s.setCtl off (s.ctlRaw off &&& ~~~ (BitVec.ofNat 64 m)))

/-- A register's value after a write: the covered RW bits take the written bits, the covered W1C bits that are written 1 clear, the rest
stays (R12-R15). -/
def ctlMerge (n : RegName) (acc : Acc) (old v : Nat) : Nat :=
  let m := (regRow n).rw &&& accMask acc
  let c := (regRow n).w1c &&& accMask acc &&& accBits acc v
  ((old &&& (2 ^ 64 - 1 - m)) ||| (accBits acc v &&& m)) &&& (2 ^ 64 - 1 - c)

/-- A write to a register that does nothing but this (R14). -/
def State.ctlApply (s : State) (n : RegName) (idx : List Nat) (acc : Acc) (v : Nat) : State :=
  s.setReg n idx (ctlMerge n acc (s.reg n idx) v)

end Sys2Proof.Machine
end

