-- ==== Sys2Proof/Machine/Access.lean ====
section
/-!
DEFINITION. Access to the device address map (R50-R61, R169, R285): where an address lies, which accesses the paddock rules
refuse, what faults do, and the reads and writes that go through it.
-/
namespace Sys2Proof.Machine

/-- Where a device address lies for an access. -/
inductive Loc where
  | mem (key : Nat)
  | ctl (off : Nat)
  | flash (off : Nat)
  | fault (kind : Nat)
  deriving DecidableEq, Repr

/-- The key of an HBM byte: stack and stack address of offset `o` in a region (R58). -/
def hbmKey (mode die frame o : Nat) : Nat :=
  let g := o / 4096
  let w := o % 4096
  let stk :=
    if mode = 1 then
      g % 16 ^^^ g / 16 % 16 ^^^ g / 256 % 16 ^^^ g / 4096 % 16 ^^^ g / 65536 % 4
    else 2 * die + (g % 2 ^^^ g / 16 % 2 ^^^ g / 256 % 2 ^^^ g / 4096 % 2 ^^^ g / 65536 % 2)
  let off := if mode = 1 then frame * 2 ^ 26 + g / 16 * 4096 + w else frame * 2 ^ 26 + g / 2 * 4096 + w
  stk * 2 ^ 36 + off

/-- The offset in a region of the byte that a key names; none: it lies in no frame of the region (R58). -/
def hbmOff (mode die frame k : Nat) : Option Nat :=
  let stk := k / 2 ^ 36
  let off := k % 2 ^ 36
  let q := (off - frame * 2 ^ 26) / 4096
  let g := if mode = 1 then 16 * q + (stk ^^^ q % 16 ^^^ q / 16 % 16 ^^^ q / 256 % 16 ^^^ q / 4096 % 4)
    else 2 * q + (stk % 2 ^^^ q / 8 % 2 ^^^ q / 128 % 2 ^^^ q / 2048 % 2 ^^^ q / 32768 % 2)
  if off < frame * 2 ^ 26 ∨ 262144 ≤ g ∨ (mode ≠ 1 ∧ stk / 2 ≠ die) then none else some (g * 4096 + off % 4096)

/-- Whether the issuer acts as a paddock unit (R50, R263, R352); none for an issuer that the rule does not restrict. -/
def State.sideOf (s : State) : Issuer → Option Bool
  | .tile t => some (s.isPaddock t)
  | .queue q => some (s.flag .drvQueueCtrl [q] 30)
  | .remote p => some p
  | .host _ => none
  | .unit => none

/-- Whether the ownership rule refuses an access (R50). `space`: 0 HBM region, 1 tile or accumulator store, 2 flash or control range; `own` says
whether the target belongs to the paddock. -/
def State.refused (s : State) (by_ : Issuer) (wr : Bool) (space : Nat) (own : Bool) : Bool :=
  match s.paddockOn, s.sideOf by_ with
  | true, some true => if space = 0 then wr && !own else !own
  | true, some false => own
  | _, _ => false

/-- Where an address lies (R53-R61). A refused access that also lies in a hole, in an ABSENT region, in an absent tile or beyond the flash is of that
kind, not ISOLATION; an address above the accumulator store in the slot of an absent tile is a hole (0b00), not an access to an absent tile (DESIGN
CHOICE, log 51). -/
def State.locate (s : State) (by_ : Issuer) (wr : Bool) (da : Nat) : Loc :=
  if da < 2 ^ 40 then
    let r := da / 2 ^ 30
    let w := s.reg .idHbmRegion [r]
    if fld w 18 2 = 0 then .fault 0
    else if s.refused by_ wr 0 (fld w 17 1 == 1) then .fault 2
    else .mem (hbmKey (fld w 18 2) (fld w 12 3) (fld w 0 10) (da % 2 ^ 30))
  else if 0x200000000000 ≤ da ∧ da < 0x200200000000 ∨ 0x280000000000 ≤ da ∧ da < 0x280200000000 then
    let acc := 0x280000000000 ≤ da
    let o := da % 0x80000000000
    let d := o / 0x40000000
    let p := o % 0x40000000 / 0x400000
    let t := 160 * d + p
    if 160 ≤ p ∨ (acc ∧ 0x80000 ≤ o % 0x400000) then .fault 0
    else if s.present t = false then .fault 1
    else if s.refused by_ wr 1 (s.isPaddock t) then .fault 2
    else .mem da
  else if 0x300000000000 ≤ da ∧ da < 0x300004000000 then
    let o := da % 0x4000000
    if (regFind (o / 8 * 8)).isNone then .fault 0
    else if s.refused by_ wr 2 false then .fault 2
    else .ctl o
  else if 0x400000000000 ≤ da ∧ da < 0x500000000000 then
    let o := da - 0x400000000000
    if s.rf .drvFlashCap [] 0 48 ≤ o then .fault 3
    else if s.refused by_ wr 2 false then .fault 2
    else .flash da
  else .fault 0

/-- SOURCE of an address fault's record: the issuing tile or drover queue (R55). -/
def State.raiseBy (s : State) (by_ : Issuer) (code : Nat) : State :=
  match by_ with
  | .tile t => s.raiseTile t code 0 0
  | .queue q => s.raise code 0 2 q 0 0
  | _ => s.raise code 0 0 0 0 0

/-- Records an address fault and raises its event (R55). -/
def State.addrFault (s : State) (by_ : Issuer) (da kind : Nat) : State :=
  let s :=
    if s.flag .idAddrFault [] 63 then s.setRf .idAddrFault [] 62 1 1
    else
      let w := setBits (setBits (setBits (s.reg .idAddrFault []) 63 1 1) 56 2 kind) 0 48 (min da (2 ^ 48 - 1))
      s.setReg .idAddrFault [] w
  s.raiseBy by_ 0x0101

/-- The lowest faulting address among some addresses, with its kind (R55). -/
def State.lowFault (s : State) (by_ : Issuer) (wr : Bool) (das : List Nat) : Option (Nat × Nat) :=
  das.foldl (fun b da =>
    match s.locate by_ wr da with
    | .fault k =>
      match b with
      | some (x, kx) => if da < x then some (da, k) else some (x, kx)
      | none => some (da, k)
    | _ => b) none

/-- One access's faults: one record for its lowest faulting address (R55, R56). -/
def State.recordFaults (s : State) (by_ : Issuer) (wr : Bool) (das : List Nat) : State :=
  match s.lowFault by_ wr das with
  | some (da, k) => s.addrFault by_ da k
  | none => s

/-- The first address of a tile's store, and of its accumulator store (R53). -/
def tileBase (t : Nat) : Nat := 0x200000000000 + t / 160 * 0x40000000 + t % 160 * 0x400000
def accBase (t : Nat) : Nat := 0x280000000000 + t / 160 * 0x40000000 + t % 160 * 0x400000

/-- Whether `n` bytes at an address lie wholly in a tile's own tile store. -/
def inTileStore (t da n : Nat) : Bool := tileBase t ≤ da && da + n ≤ tileBase t + 0x400000

/-- Whether `n` bytes at an address lie wholly in a tile's own accumulator store. -/
def inAccStore (t da n : Nat) : Bool := accBase t ≤ da && da + n ≤ accBase t + 0x80000

/-! ### The accumulator store (R69, R70, R204) -/

/-- The key of the word of row `i`, column `j` of a group (R69). -/
def accKey (t g i j : Nat) : Nat := accBase t + g * 0x10000 + i * 512 + j * 4

/-- The value that a close gives to an element, with what its rounding counts (R203). -/
def State.closeElem (s : State) (t g i j : Nat) : F32 × Count :=
  let x := (s.tile t).group g
  let live : F32 := BitVec.ofNat 32 (s.le (accKey t g i j) 4)
  if x.captures = 0 then (live, .none)
  else
    let o := x.slot + i * 512 + j * 4
    let sum : F32 := BitVec.ofNat 32 (s.le o 4)
    let err : F32 := BitVec.ofNat 32 (s.le (o + 0x10000) 4)
    f32RoundC .rne (((f32Val sum).add (f32Val err)).add (f32Val live)).toRes

/-- The byte that a drover, the host or a vector instruction reads in an accumulator store: of an open group, the byte of what a close would
produce (R204). -/
def State.accByte (s : State) (da : Nat) : Nat :=
  let o := da - 0x280000000000
  let t := 160 * (o / 0x40000000) + o % 0x40000000 / 0x400000
  let a := o % 0x400000
  let g := a / 0x10000
  if ((s.tile t).group g).st = .opened then
    (s.closeElem t g (a % 0x10000 / 512) (a % 512 / 4)).1.toNat / 256 ^ (a % 4) % 256
  else s.byte da

/-- The tile and group of an address in an accumulator store. -/
def accGroup (da : Nat) : Option (Nat × Nat) :=
  if 0x280000000000 ≤ da ∧ da < 0x280200000000 then
    let o := da - 0x280000000000
    some (160 * (o / 0x40000000) + o % 0x40000000 / 0x400000, o % 0x400000 / 0x10000)
  else none

/-- Whether a read at some addresses is held (R70, R204): a group being closed or discarded, or captured and not yet folded. -/
def State.accHeld (s : State) (das : List Nat) : Bool :=
  das.any (fun da => match accGroup da with
    | some (t, g) =>
      ((s.tile t).group g).st == .closing || (match (s.tile t).staging with
        | some c => c.group == g
        | none => false)
    | none => false)

/-- Whether a write at some addresses meets a group that is OPEN or QUEUED (R71). -/
def State.accBusy (s : State) (das : List Nat) : Bool :=
  das.any (fun da => match accGroup da with
    | some (t, g) => let st := ((s.tile t).group g).st; st == .opened || st == .queued
    | none => false)

/-- The bytes of a page map (R287). -/
def mapLen : Nat := 3489660928

/-- The offset in a page map of the byte at a key; none where it lies in none of the map's frames. -/
def PageMap.offset (m : PageMap) (k : Nat) : Option Nat :=
  (List.range 5).findSome? (fun i =>
    let w := m.words.getD i 0
    if 2 ^ 40 ≤ k ∨ fld w 18 2 = 0 then none
    else match hbmOff (fld w 18 2) (fld w 12 3) (fld w 0 10) k with
      | some o =>
        let a := (m.base / 2 ^ 30 + i) * 2 ^ 30 + o
        if m.base ≤ a ∧ a < m.base + mapLen then some (a - m.base) else none
      | none => none)

/-- The page map that holds the byte at a key, with the byte's offset in it. -/
def State.mapAt (s : State) (k : Nat) : Option (PageMap × Nat) := s.flash.maps.findSome? (fun m => (m.offset k).map (fun o => (m, o)))

/-- The byte of HBM or of a tile's stores at a key. In a page map that the cold store has written it is free, but where another unit has written since
(R287; log 6). -/
def State.memByte (s : State) (k : Nat) : Nat :=
  match s.mapAt k with
  | some (m, o) => if s.byte k = 0 ∧ s.flash.zeros.contains k = false then (Config.mapByte m.epoch o).toNat else s.byte k
  | none => s.byte k

/-- The byte that a read at an address returns (R54): zero where it faults, a byte of the register in the control range. -/
def State.peek (s : State) (by_ : Issuer) (da : Nat) : Nat :=
  match s.locate by_ false da with
  | .mem k => if (accGroup da).isSome then s.accByte da else s.memByte k
  | .flash k => s.byte k
  | .ctl o => s.ctlRead 0 (o / 8 * 8) / 256 ^ (o % 8) % 256
  | .fault _ => 0

/-- `n` bytes from an address on. -/
def State.peeks (s : State) (by_ : Issuer) (da n : Nat) : List Nat := (List.range n).map (fun i => s.peek by_ (da + i))

/-- A little-endian value of `n` bytes at an address. -/
def State.peekLe (s : State) (by_ : Issuer) (da n : Nat) : Nat := leVal (s.peeks by_ da n)

/-- Remembers that a byte has been written at an address: its line of the HBM window (R170), and a zero in a page map (R287). -/
def State.noted (s : State) (da k v : Nat) : State :=
  let s := if da < 2 ^ 40 then { s with gen := s.gen + 1, lineGen := tblSet (fun _ => 0) s.lineGen (da / 256) (s.gen + 1) } else s
  if v % 256 = 0 ∧ (s.mapAt k).isSome = true ∧ s.flash.zeros.contains k = false then { s with flash := { s.flash with zeros := k :: s.flash.zeros } } else s

/-- Writes a byte where the address lies in a memory; a write at a faulting address is discarded (R54). Writes of control registers and of the flash
window take their own ways (R53, R290). -/
def State.poke (s : State) (by_ : Issuer) (da v : Nat) : State :=
  match s.locate by_ true da with
  | .mem k => (s.setByte k v).noted da k v
  | _ => s

/-- Writes bytes from an address on. -/
def State.pokes (s : State) (by_ : Issuer) (da : Nat) : List Nat → State
  | [] => s
  | b :: bs => (s.poke by_ da b).pokes by_ (da + 1) bs

/-- Writes a list of (address, byte) pairs. -/
def State.pokeAll (s : State) (by_ : Issuer) : List (Nat × Nat) → State
  | [] => s
  | (da, b) :: r => (s.poke by_ da b).pokeAll by_ r

/-! ### Host buffers (R283, R285) -/

/-- Where offset `o` of host buffer `b` lies; none where it is at or beyond SIZE (R285). -/
def State.hostBuf (s : State) (b o : Nat) : Option Nat :=
  if o < s.reg .drvHostBufSize [b] then some (hostKey (s.reg .drvHostBufBase [b] + o)) else none

/-- Records a host fault and raises its event (R285). -/
def State.hostFault (s : State) (b o : Nat) : State :=
  let s :=
    if s.flag .drvHostFault [] 63 then s.setRf .drvHostFault [] 62 1 1
    else s.setReg .drvHostFault [] (setBits (setBits (setBits (s.reg .drvHostFault []) 63 1 1) 48 8 b) 0 48 o)
  s.raise 0x0202 0 3 b 0 0

end Sys2Proof.Machine
end

