-- ==== Sys2Proof/Machine/Convert.lean ====
section
/-!
DEFINITION. Element formats and their one conversion rule (R73, R80-R101): the value of a code, the fit rule of block
scales, and the code that an exact result takes in a destination.
-/
namespace Sys2Proof

/-- The element formats of R73. -/
inductive Fmt where
  | fp32 | bf16 | fp16 | e4m3 | e5m2 | fp4 | int8 | int4 | g4 | e8m0
  deriving DecidableEq, Repr

/-- The format a FORMAT code names; codes 0xA to 0xF are reserved (R73). -/
def Fmt.ofCode : Nat → Option Fmt
  | 0 => some .fp32 | 1 => some .bf16 | 2 => some .fp16 | 3 => some .e4m3 | 4 => some .e5m2
  | 5 => some .fp4 | 6 => some .int8 | 7 => some .int4 | 8 => some .g4 | 9 => some .e8m0
  | _ => none

/-- Element size in bits (R73). -/
def Fmt.bits : Fmt → Nat
  | .fp32 => 32 | .bf16 => 16 | .fp16 => 16 | .e4m3 => 8 | .e5m2 => 8
  | .fp4 => 4 | .int8 => 8 | .int4 => 4 | .g4 => 4 | .e8m0 => 8

/-- The formats that may carry block scales (R90). -/
def Fmt.blockable : Fmt → Bool
  | .e4m3 | .e5m2 | .fp4 | .int8 | .int4 | .g4 => true
  | _ => false

/-- The formats whose elements the tensor scale applies to when they carry no block scales (R91). -/
def Fmt.tensorScaled : Fmt → Bool
  | .e4m3 | .e5m2 | .fp4 | .int8 | .int4 => true
  | _ => false

/-- The layout of a floating-point format (R80). -/
def Fmt.fp : Fmt → Option FpFmt
  | .fp32 => some fpFP32 | .bf16 => some fpBF16 | .fp16 => some fpFP16
  | .e4m3 => some fpE4M3 | .e5m2 => some fpE5M2 | .fp4 => some fpE2M1
  | _ => none

/-- A two's complement code of `w` bits as an integer value (R82). -/
def intVal (w code : Nat) : Val :=
  let i : Int := if code % 2 ^ w < 2 ^ (w - 1) then (code % 2 ^ w : Nat) else ((code % 2 ^ w : Nat) : Int) - 2 ^ w
  Val.ofInt false i 0

/-- The value of an E8M0 byte (R89, R101). The format has no sign bit: the NaN that 0xFF reads as is taken as positive (DESIGN CHOICE, log 27). -/
def e8m0Val (b : Nat) : Val := if b = 255 then .nan false else .fin false 1 ((b : Int) - 127)

/-- The value `x` of a code, before any scale (R81, R82, R85, R101). `levels` are the sixteen codebook values. -/
def codeVal (f : Fmt) (levels : List Val) (code : Nat) : Val :=
  match f with
  | .fp32 => fpFP32.ieee code
  | .bf16 => fpBF16.ieee code
  | .fp16 => fpFP16.ieee code
  | .e5m2 => fpE5M2.ieee code
  | .e4m3 => if code % 128 = 127 then .nan (128 ≤ code) else fpE4M3.value code
  | .fp4 => fpE2M1.value code
  | .int8 => intVal 8 code
  | .int4 => intVal 4 code
  | .g4 => levels.getD (code % 16) Val.zero
  | .e8m0 => e8m0Val code

/-- An element's scale when it is read: none, a power of two, or the NaN scale 0xFF (R91). -/
inductive Scale where
  | pow (k : Int)
  | nan
  deriving DecidableEq, Repr

/-- The scale a block-scale byte stands for (R89). -/
def Scale.ofByte (b : Nat) : Scale := if b = 255 then .nan else .pow ((b : Int) - 127)

/-- The value of an element under its scale (R91). -/
def Scale.apply (s : Scale) (v : Val) : Val :=
  match s with
  | .pow k => v.shift k
  | .nan => .nan false

/-- The largest magnitude `D` of a format that a scale is fitted to (R92), as `(m, e)` for `m * 2^e`; for G4 the larger
of the two outer level magnitudes. -/
def fitMax (f : Fmt) (levels : List Val) : Val :=
  match f with
  | .e4m3 => .fin false 448 0
  | .e5m2 => .fin false 57344 0
  | .fp4 => .fin false 6 0
  | .int8 => .fin false 127 0
  | .int4 => .fin false 7 0
  | .g4 => ((levels.getD 0 Val.zero).abs).max ((levels.getD 15 Val.zero).abs)
  | _ => .fin false 1 0

/-- The exact quotient of two positive magnitudes, the divisor a dyadic one. -/
def Mag.divDy (a : Mag) (d : Val) : Mag :=
  match d with
  | .fin _ m e =>
    let y := Mag.dyadic m e
    if a.root then ⟨a.num * (y.den * y.den), a.den * (y.num * y.num), true⟩
    else ⟨a.num * y.den, a.den * y.num, false⟩
  | _ => a

/-- Compares two magnitudes. -/
def Mag.le (a b : Mag) : Bool :=
  let sq (x : Mag) : Nat × Nat := if x.root then (x.num, x.den) else (x.num * x.num, x.den * x.den)
  let (n1, d1) := sq a
  let (n2, d2) := sq b
  n1 * d2 ≤ n2 * d1

/-- The largest finite magnitude of a list of exact results. -/
def maxMag (rs : List Res) : Mag :=
  rs.foldl (fun a r => match r with
    | .fin _ x => if a.le x then x else a
    | _ => a) ⟨0, 1, false⟩

/-- The block-scale byte that the fit rule chooses for the results of one block (R92). -/
def fitScale (f : Fmt) (levels : List Val) (rs : List Res) : Nat :=
  if rs.any (fun r => !r.isFin) then 255
  else
    let a := maxMag rs
    if a.num = 0 then 127
    else
      let k := (a.divDy (fitMax f levels)).ceilLog2
      (min 254 (max 0 (127 + k))).toNat

/-- The code of a float destination (R96, R99): canonical NaNs, infinities where the format has them. -/
def encodeFp (f : Fmt) (fp : FpFmt) (rm : Rm) (r : Res) : Nat × Count :=
  let s (n : Bool) : Nat := if n then 2 ^ (fp.eBits + fp.fBits) else 0
  match r with
  | .nan n =>
    (match f with
      | .fp32 => 0x7FC00000 + s n
      | .bf16 => 0x7FC0 + s n
      | .fp16 => 0x7E00 + s n
      | .e4m3 => 0x7F + s n
      | .e5m2 => 0x7E + s n
      | _ => 0, .nf)
  | .inf n =>
    (match f with
      | .fp32 => 0x7F800000 + s n
      | .bf16 => 0x7F80 + s n
      | .fp16 => 0x7C00 + s n
      | .e4m3 => 0x7F + s n
      | .e5m2 => 0x7C + s n
      | _ => fp.maxCode + s n, .nf)
  | .fin n x =>
    let (c, k) := fp.round rm x
    (c + s n, k)

/-- The code of an integer destination of `w` bits (R97, R99). -/
def encodeInt (w : Nat) (rm : Rm) (r : Res) : Nat × Count :=
  let hi : Nat := 2 ^ (w - 1) - 1
  match r with
  | .nan _ => (0, .nf)
  | .inf n => (if n then 2 ^ (w - 1) else hi, .nf)
  | .fin n x =>
    let i := x.toInt rm
    if n then
      if 2 ^ (w - 1) < i then (2 ^ (w - 1), .sat)
      else ((2 ^ w - i) % 2 ^ w, if i = 0 ∧ x.num ≠ 0 then .ftz else .none)
    else
      if hi < i then (hi, .sat) else (i, if i = 0 ∧ x.num ≠ 0 then .ftz else .none)

/-- Orders a result against a level: whether `r < l`. -/
def resLtVal (r : Res) (l : Val) : Bool :=
  match r, l with
  | .fin n x, .fin k m e =>
    if x.num = 0 then !k && m != 0
    else if m = 0 then n
    else if n != k then n
    else if n then x.cmp m e == .gt else x.cmp m e == .lt
  | .inf n, _ => n
  | _, _ => false

/-- The code of the level nearest to a quotient; a tie takes the even code (R98). Where the outermost level is the zero level and the quotient lies
beyond it, R98 names a saturation and a flush and R103 allows one count: the saturation is counted (DESIGN CHOICE, log 27). -/
def encodeG4 (levels : List Val) (r : Res) : Nat × Count :=
  let lv (i : Nat) : Val := levels.getD i Val.zero
  match r with
  | .nan _ => (0, .nf)
  | .inf _ => (0, .nf)
  | .fin n x =>
    if resLtVal (.fin (!n) x) ((lv 15).negate) then (15, .sat)
    else if resLtVal r (lv 0) then (0, .sat)
    else
      let step (c : Nat) (i : Nat) : Nat :=
        -- moves from code `i` to `i + 1` when the quotient lies above their midpoint, or on it and `i + 1` is even
        if c = i then
          let mid := ((lv i).add (lv (i + 1))).shift (-1)
          if resLtVal r mid then c
          else if resLtVal (.fin (!n) x) mid.negate then i + 1
          else if (i + 1) % 2 = 0 then i + 1 else c
        else c
      let c := (List.range 15).foldl step 0
      (c, if x.num ≠ 0 ∧ (lv c).isZero then .ftz else .none)

/-- The code of an E8M0 destination (R101). -/
def encodeE8m0 (rtz : Bool) (r : Res) : Nat × Count :=
  match r with
  | .nan _ => (255, .nf)
  | .inf _ => (255, .nf)
  | .fin n x =>
    if x.num = 0 then (0, .ftz)
    else if n then (255, .sat)
    else
      let k := 127 + (if rtz then x.floorLog2 else x.ceilLog2)
      if 254 < k then (254, .sat) else if k < 0 then (0, .ftz) else (k.toNat, .none)

/-- The code of one element whose quotient by the destination's scale is `q` (R94-R101). -/
def encodeElem (f : Fmt) (levels : List Val) (rtz : Bool) (q : Res) : Nat × Count :=
  let rm : Rm := if rtz then .rtz else .rne
  match f with
  | .fp32 => encodeFp .fp32 fpFP32 rm q
  | .bf16 => encodeFp .bf16 fpBF16 rm q
  | .fp16 => encodeFp .fp16 fpFP16 rm q
  | .e4m3 => encodeFp .e4m3 fpE4M3 rm q
  | .e5m2 => encodeFp .e5m2 fpE5M2 rm q
  | .fp4 =>
    match q with
    | .nan _ => (0, .nf)
    | q => encodeFp .fp4 fpE2M1 rm q
  | .int8 => encodeInt 8 rm q
  | .int4 => encodeInt 4 rm q
  | .g4 => encodeG4 levels q
  | .e8m0 => encodeE8m0 rtz q

/-- The code every element of a block takes whose scale byte is 0xFF (R93): code 0, or the value 0, in the formats
without a NaN. -/
def nanBlockCode : Fmt → Nat
  | .e4m3 => 0x7F
  | .e5m2 => 0x7E
  | _ => 0

/-- The canonical form of a code: a NaN becomes the canonical NaN of its sign; any other code stays (R100, R84). -/
def canonCode (f : Fmt) (code : Nat) : Nat :=
  match codeVal f [] code with
  | .nan n =>
    match f.fp with
    | some fp => (encodeFp f fp .rne (.nan n)).1
    | none => code
  | _ => code

end Sys2Proof
end

