-- ==== Sys2Proof/Machine/Operands.lean ====
section
/-!
DEFINITION. Tensor operands: the descriptor's fields (R72), element and scale addresses (R74-R76), reading a tensor's elements with
their scales (R85-R91), and writing encoded elements (R92-R101).
-/
namespace Sys2Proof.Machine

/-! ### Descriptors -/

/-- A descriptor's fields (R72). The extents of dimensions above RANK are 1 and their strides 0 (R74). -/
structure Tens where
  base : Nat
  fmt : Fmt
  rank : Nat
  e0 : Nat
  e1 : Nat
  e2 : Nat
  e3 : Nat
  s1 : Int
  s2 : Int
  s3 : Int
  place : Nat
  ledgerEn : Bool
  ledger : Nat
  deriving DecidableEq, Repr

/-- BASE of a descriptor. -/
def descBase (d : Desc) : Nat := fld d.toNat 0 48

/-- The low bit and width of the descriptor field that a selector names (R72, R158). -/
def descField (f : Nat) : Nat × Nat :=
  match f with
  | 0 => (0, 48) | 1 => (48, 4) | 2 => (52, 12) | 3 => (64, 1) | 4 => (65, 3) | 5 => (68, 2) | 6 => (70, 2)
  | 7 => (80, 20) | 8 => (100, 20) | 9 => (120, 20) | 10 => (140, 20)
  | 11 => (160, 32) | 12 => (192, 32) | _ => (224, 32)

/-- Whether a descriptor's reserved bits are 0 (R8, R72). -/
def descPlain (d : Desc) : Bool := fld d.toNat 72 8 == 0

/-- Whether STRIDE1 leaves room for the scales that trail the rows (R75): rows of `e0` elements of `bits` bits, `e1` of them. Rows that all are one row
(STRIDE1 0, R79) leave it (DEDUCED, log 28). -/
def trailRoom (bits e0 e1 : Nat) (s1 : Int) : Bool :=
  e1 ≤ 1 || s1 == 0 || 8 * ((e0 * bits + 7) / 8 + (e0 + 31) / 32) ≤ s1.natAbs * bits

/-- Reads a descriptor, or names the undefined case that it is (R8, R73-R75, R88, R90). -/
def Tens.ofDesc (d : Desc) : Except UB Tens :=
  let n := d.toNat
  let rank := fld n 70 2
  let place := fld n 65 3
  let stride (lo : Nat) : Int := sext 32 (fld n lo 32)
  match Fmt.ofCode (fld n 48 4) with
  | none => .error (.ub 7)
  | some fmt =>
    let act (k : Nat) : Bool := k ≤ rank
    if descPlain d = false then .error (.ub 1)
    else if 3 ≤ place then .error (.ub 7)
    else if place ≠ 0 ∧ fmt.blockable = false ∨ (fmt = .g4 ∧ place = 0) then .error (.ub 12)
    else if (rank < 1 ∧ (fld n 100 20 ≠ 0 ∨ fld n 160 32 ≠ 0)) ∨ (rank < 2 ∧ (fld n 120 20 ≠ 0 ∨ fld n 192 32 ≠ 0))
        ∨ (rank < 3 ∧ (fld n 140 20 ≠ 0 ∨ fld n 224 32 ≠ 0)) then .error .r4
    else if fmt.bits = 4 ∧ (stride 160 % 2 ≠ 0 ∨ stride 192 % 2 ≠ 0 ∨ stride 224 % 2 ≠ 0) then .error (.ub 8)
    else if place = 2 ∧ 1 ≤ rank ∧ trailRoom fmt.bits (fld n 80 20) (fld n 100 20) (stride 160) = false then .error .r4
    else .ok
      { base := fld n 0 48, fmt := fmt, rank := rank, e0 := fld n 80 20
        e1 := if act 1 then fld n 100 20 else 1, e2 := if act 2 then fld n 120 20 else 1
        e3 := if act 3 then fld n 140 20 else 1
        s1 := stride 160, s2 := stride 192, s3 := stride 224, place := place
        ledgerEn := fld n 64 1 = 1, ledger := fld n 52 12 }

/-- An element's indices. -/
structure Ix where
  i0 : Nat
  i1 : Nat
  i2 : Nat
  i3 : Nat
  deriving DecidableEq, Repr

/-- The number of elements. -/
def Tens.size (t : Tens) : Nat := t.e0 * t.e1 * t.e2 * t.e3

/-- Whether the tensor is empty (R74). -/
def Tens.empty (t : Tens) : Bool := t.size == 0

/-- The rows in element order: indices with i0 = 0 (R232). -/
def Tens.rows (t : Tens) : List Ix :=
  (List.range (t.e1 * t.e2 * t.e3)).map (fun k => ⟨0, k % t.e1, k / t.e1 % t.e2, k / t.e1 / t.e2⟩)

/-- All indices in element order: i0 fastest (R232). -/
def Tens.indices (t : Tens) : List Ix :=
  t.rows.flatMap (fun r => (List.range t.e0).map (fun i => { r with i0 := i }))

/-- The element offset of R74. -/
def Tens.off (t : Tens) (x : Ix) : Int := x.i0 + x.i1 * t.s1 + x.i2 * t.s2 + x.i3 * t.s3

/-- The byte address of an element modulo 2^48, and whether it is the upper nibble of a 4-bit format (R74). -/
def Tens.addr (t : Tens) (x : Ix) : Nat × Bool :=
  let e := t.off x
  if t.fmt.bits = 4 then (((t.base + e / 2) % 2 ^ 48).toNat, e % 2 = 1)
  else (((t.base + e * (t.fmt.bits / 8 : Nat)) % 2 ^ 48).toNat, false)

/-- How many bytes an element touches. -/
def Tens.bytesPer (t : Tens) : Nat := if t.fmt.bits = 4 then 1 else t.fmt.bits / 8

/-- How many blocks a row has (R75). -/
def Tens.blocks (t : Tens) : Nat := (t.e0 + 31) / 32

/-- The address of the scale of block `b` of a row (R75); `ed` is the separate scale tensor. -/
def Tens.scaleAddr (t : Tens) (ed : Option Tens) (row : Ix) (b : Nat) : Nat :=
  match t.place, ed with
  | 1, some e => (e.addr { row with i0 := b }).1
  | _, _ => ((t.addr { row with i0 := 0 }).1 + (t.e0 * t.fmt.bits + 7) / 8 + b) % 2 ^ 48

/-- The addresses of every scale byte, row by row. -/
def Tens.scaleAddrs (t : Tens) (ed : Option Tens) : List Nat :=
  if t.place = 0 then [] else t.rows.flatMap (fun r => (List.range t.blocks).map (t.scaleAddr ed r))

/-- The addresses of every byte of the elements. -/
def Tens.dataAddrs (t : Tens) : List Nat :=
  t.indices.flatMap (fun x => (List.range t.bytesPer).map (fun k => ((t.addr x).1 + k) % 2 ^ 48))

/-- The addresses of the codebook record (R76, R85). -/
def Tens.bookAddrs (t : Tens) : List Nat :=
  if t.fmt = .g4 then (List.range 64).map (fun k => (t.base + 2 ^ 48 - 64 + k) % 2 ^ 48) else []

/-- Every byte that reading the tensor touches. -/
def Tens.readAddrs (t : Tens) (ed : Option Tens) : List Nat :=
  if t.empty then [] else t.dataAddrs ++ t.scaleAddrs ed ++ t.bookAddrs

/-- Every byte that must lie in a tile's own stores where a matrix or vector instruction names the tensor (R78): what reading it touches, and every element of a
separate scale tensor. -/
def Tens.ownBytes (t : Tens) (ed : Option Tens) : List Nat :=
  if t.empty then [] else t.readAddrs ed ++ (match ed with
    | some e => e.readAddrs none
    | none => [])

/-- Every byte that writing the tensor touches. -/
def Tens.writeAddrs (t : Tens) (ed : Option Tens) : List Nat :=
  if t.empty then [] else t.dataAddrs ++ t.scaleAddrs ed

/-- A descriptor with its scale tensor, or the undefined case that it is. A scale descriptor has FORMAT E8M0 (R75). -/
def Tens.pair (d ed : Desc) : Except UB (Tens × Option Tens) :=
  match Tens.ofDesc d with
  | .error e => .error e
  | .ok t =>
    if t.place = 1 then
      match Tens.ofDesc ed with
      | .error e => .error e
      | .ok e => if e.fmt = .e8m0 then .ok (t, some e) else .error (.ub 7)
    else .ok (t, none)

/-! ### Spaces -/

/-- The space that a descriptor's addresses belong to: device addresses under an issuer's rights, or offsets of a host buffer (R283). -/
inductive Sp where
  | da (by_ : Issuer)
  | host (b : Nat)
  deriving DecidableEq, Repr

/-- Reads a byte of a space; a faulting byte reads 0 (R54, R285). -/
def State.spPeek (s : State) (sp : Sp) (a : Nat) : Nat :=
  match sp with
  | .da i => s.peek i a
  | .host b => match s.hostBuf b a with
    | some k => s.byte k
    | none => 0

/-- Writes a byte of a space; a faulting byte is discarded (R54, R285). -/
def State.spPoke (s : State) (sp : Sp) (a v : Nat) : State :=
  match sp with
  | .da i => s.poke i a v
  | .host b => match s.hostBuf b a with
    | some k => s.setByte k v
    | none => s

/-- Whether an access at an address of a space does not fault (R51, R54, R285). -/
def State.spLive (s : State) (sp : Sp) (wr : Bool) (a : Nat) : Bool :=
  match sp with
  | .da i => (match s.locate i wr a with
    | .fault _ => false
    | _ => true)
  | .host b => (s.hostBuf b a).isSome

/-- Records the faults of one access (R55, R285). -/
def State.spFaults (s : State) (sp : Sp) (wr : Bool) (as : List Nat) : State :=
  match sp with
  | .da i => s.recordFaults i wr as
  | .host b =>
    match (as.filter (fun a => (s.hostBuf b a).isNone)).min? with
    | some a => s.hostFault b a
    | none => s

/-! ### The ledger's tensor scale (R313-R315, R325) -/

/-- The address of a ledger entry (R313). -/
def State.entryAddr (s : State) (n : Nat) : Nat := s.rf .ledBase [] 20 28 * 2 ^ 20 + 256 * n

/-- A field of a ledger entry: byte offset and width in bytes (R315). -/
def State.entryLe (s : State) (n off len : Nat) : Nat := s.peekLe .unit (s.entryAddr n + off) len

/-- Whether the ledger unit serves an entry: ENABLE and ACTIVE (R314). -/
def State.entryOn (s : State) (n : Nat) : Bool := s.flag .ledBase [] 63 && fld (s.entryLe n 0 8) 0 1 == 1

/-- Whether a served entry holds a reserved ROLE or OVR_MODE, or a reserved field that is not 0 (R315, R316). -/
def State.entryBad (s : State) (n : Nat) : Bool :=
  let cfg := s.entryLe n 0 8
  let st := s.entryLe n 0xC0 8
  s.entryOn n && (4 < fld cfg 28 4 || fld cfg 2 26 != 0 || 3 ≤ s.entryLe n 0x15 1 || s.entryLe n 0x16 10 != 0 || s.entryLe n 0x26 2 != 0
    || s.entryLe n 0x36 2 != 0 || s.entryLe n 0x70 16 != 0 || fld st 27 5 != 0 || fld st 48 16 != 0 || s.entryLe n 0xE8 24 != 0)

/-- Whether one of the served entries that some addresses touch is such an entry. -/
def State.badEntries (s : State) (as : List Nat) : Bool :=
  let b := s.entryAddr 0
  s.flag .ledBase [] 63 &&
    ((as.filter (fun a => b ≤ a && a < b + 2 ^ 20)).map (fun a => (a - b) / 256)).eraseDups.any s.entryBad

/-- The entries that some descriptors name (R72). -/
def namedEntries (ds : List Desc) : List Nat := (ds.filter (fun d => fld d.toNat 64 1 == 1)).map (fun d => fld d.toNat 52 12)

/-- The tensor scale exponent T of an entry (R314, R325). -/
def State.entryT (s : State) (n : Nat) : Int :=
  if s.entryOn n then
    let mode := fld (s.entryLe n 0x15 1) 0 2
    let st := s.entryLe n 0xC0 8
    if mode = 2 ∨ (mode = 1 ∧ fld st 21 1 = 0) then sext 8 (s.entryLe n 0x14 1) else sext 8 (fld st 0 8)
  else 0

/-- The tensor scale that a descriptor's elements carry (R91): none with block scales or outside the scaled formats. -/
def State.tScale (s : State) (t : Tens) : Int :=
  if t.place = 0 ∧ t.fmt.tensorScaled = true ∧ t.ledgerEn = true then s.entryT t.ledger else 0

/-! ### Codebooks (R85, R86) -/

/-- A codebook record read from memory. -/
structure Book where
  levels : List Val
  codes : List Nat
  zero : Nat
  deriving DecidableEq, Repr

/-- The absent codebook of every format but G4. -/
def Book.none : Book := ⟨[], [], 255⟩

/-- Reads a codebook record, or names the undefined case that it is. -/
def bookOf (bytes : List Nat) : Except UB Book :=
  let codes := (List.range 16).map (fun c => bytes.getD (2 * c) 0 + 256 * bytes.getD (2 * c + 1) 0)
  let levels := codes.map fpBF16.ieee
  let zcode := bytes.getD 33 0
  let normal (c : Nat) : Bool := (0 < c / 128 % 256 && c / 128 % 256 < 255) || c % 32768 == 0
  let rising := (List.range 15).all (fun i => (levels.getD i Val.zero).lt (levels.getD (i + 1) Val.zero))
  let zeros := (List.range 16).filter (fun i => (levels.getD i Val.zero).isZero)
  if (bytes.drop 34).any (· ≠ 0) then .error (.ub 1)
  else if bytes.getD 32 0 ≠ 1 ∨ codes.all normal = false ∨ rising = false ∨ zeros.headD 255 ≠ zcode then .error (.ub 11)
  else .ok ⟨levels, codes, zcode⟩

/-- The codebook that a tensor uses (R76, R87). -/
def State.book (s : State) (sp : Sp) (t : Tens) : Except UB Book :=
  if t.fmt = .g4 ∧ t.empty = false then bookOf (t.bookAddrs.map (s.spPeek sp)) else .ok Book.none

/-! ### Reading -/

/-- The code of one element (R74). -/
def State.elemCode (s : State) (sp : Sp) (t : Tens) (x : Ix) : Nat :=
  let (a, hi) := t.addr x
  if t.fmt.bits = 4 then
    let b := s.spPeek sp a
    if hi then b / 16 else b % 16
  else leVal ((List.range t.bytesPer).map (fun k => s.spPeek sp ((a + k) % 2 ^ 48)))

/-- A tensor as it was read: its format, scaling and codebook, the code of each element in element order with its block's scale byte. -/
structure View where
  fmt : Fmt
  block : Bool
  t : Int
  book : Book
  elems : List (Nat × Nat)
  scales : List Nat
  deriving DecidableEq, Repr

/-- The value of an element (R91). -/
def View.val (v : View) (e : Nat × Nat) : Val :=
  let x := codeVal v.fmt v.book.levels e.1
  if v.block then (Scale.ofByte e.2).apply x else if v.t = 0 then x else x.shift v.t

/-- The values of a tensor in element order. -/
def View.vals (v : View) : List Val := v.elems.map v.val

/-- Reads a tensor whole. -/
def State.readTens (s : State) (sp : Sp) (t : Tens) (ed : Option Tens) : Except UB View :=
  match s.book sp t with
  | .error e => .error e
  | .ok book =>
    let scales := (t.scaleAddrs ed).map (s.spPeek sp)
    let elems := t.rows.zipIdx.flatMap (fun (r, j) =>
      (List.range t.e0).map (fun i =>
        (s.elemCode sp t { r with i0 := i }, if t.place = 0 then 0 else scales.getD (j * t.blocks + i / 32) 0)))
    .ok ⟨t.fmt, t.place ≠ 0, s.tScale t, book, elems, scales⟩

/-! ### Encoding and writing -/

/-- Encoded elements ready to be written: codes in element order, scale bytes row by row, what each element counted, and whether it stands in a
block that another element's non-finite value made NaN whole, so that it counts nothing of its own (R103). -/
structure Enc where
  codes : List Nat
  scales : List Nat
  counts : List Count
  drowned : List Bool
  deriving DecidableEq, Repr

/-- Cuts a list into pieces of at most `n`, the fuel being at least the number of pieces. -/
def chunksGo {α : Type} (n : Nat) : Nat → List α → List (List α)
  | 0, _ => []
  | _, [] => []
  | k + 1, l => l.take n :: chunksGo n k (l.drop n)

def chunks {α : Type} (n : Nat) (l : List α) : List (List α) := chunksGo n (l.length + 1) l

/-- One block of a block-scaled destination: its scale byte, and the codes and counts of its elements (R92, R93, R99). -/
def encBlock (f : Fmt) (levels : List Val) (rtz : Bool) (rs : List Res) : Nat × List (Nat × Count) :=
  let e := fitScale f levels rs
  if e = 255 then (255, rs.map (fun r => (nanBlockCode f, if r.isFin then .none else .nf)))
  else (e, rs.map (fun r => encodeElem f levels rtz (Res.shift r (127 - (e : Int)))))

/-- Encodes exact results, in element order, into a destination (R92-R101). -/
def encode (t : Tens) (tscale : Int) (levels : List Val) (rtz : Bool) (rs : List Res) : Enc :=
  if t.place = 0 then
    let l := rs.map (fun r => encodeElem t.fmt levels rtz (if tscale = 0 then r else Res.shift r (-tscale)))
    ⟨l.map Prod.fst, [], l.map Prod.snd, l.map (fun _ => false)⟩
  else
    let bl := (chunks t.e0 rs).flatMap (fun row => (chunks 32 row).map (encBlock t.fmt levels rtz))
    ⟨bl.flatMap (fun b => b.2.map Prod.fst), bl.map Prod.fst, bl.flatMap (fun b => b.2.map Prod.snd),
      bl.flatMap (fun b => b.2.map (fun _ => b.1 == 255))⟩

/-- Writes one element's code; a nibble leaves the other one of its byte (R74). -/
def State.putElem (s : State) (sp : Sp) (t : Tens) (x : Ix) (code : Nat) : State :=
  let (a, hi) := t.addr x
  if t.fmt.bits = 4 then
    let b := s.spPeek sp a
    s.spPoke sp a (if hi then b % 16 + 16 * (code % 16) else b / 16 * 16 + code % 16)
  else
    ((leBytes t.bytesPer code).zipIdx).foldl (fun s (b, k) => s.spPoke sp ((a + k) % 2 ^ 48) b) s

/-- Writes codes and scale bytes (R74, R75). -/
def State.putTens (s : State) (sp : Sp) (t : Tens) (ed : Option Tens) (codes scales : List Nat) : State :=
  let s := (t.indices.zip codes).foldl (fun s (x, c) => s.putElem sp t x c) s
  ((t.scaleAddrs ed).zip scales).foldl (fun s (a, b) => s.spPoke sp a b) s

/-- The written values of an encoded destination, decoded by R91. -/
def Enc.vals (e : Enc) (t : Tens) (tscale : Int) (book : Book) : List Val :=
  if t.place = 0 then
    e.codes.map (fun c => let x := codeVal t.fmt book.levels c; if tscale = 0 then x else x.shift tscale)
  else
    (chunks t.e0 e.codes).zipIdx.flatMap (fun (row, j) => row.zipIdx.map (fun (c, i) =>
      (Scale.ofByte (e.scales.getD (j * t.blocks + i / 32) 0)).apply (codeVal t.fmt book.levels c)))

end Sys2Proof.Machine
end

