-- ==== Sys2Proof/Machine/Guard.lean ====
section
/-!
DEFINITION. What guards an access: where the ledger's ring and parity areas and the fold area lie, which reads and writes are undefined, which are
held, and what two unordered accesses leave (R68, R276).
-/
namespace Sys2Proof.Machine

/-! ### Registers that the guards look at -/

/-- The committed version and parity (R300), the boundary's PHASE (R389), whether the far exchange is enabled (R396). -/
def State.cv (s : State) : Nat := s.rf .ledCommit [] 0 48
def State.par (s : State) : Nat := s.rf .ledCommit [] 52 1
def State.phase (s : State) : Nat := s.rf .farStatus [] 0 2
def State.farOn (s : State) : Bool := s.flag .farCfg [] 63

/-- The address of the record of a channel context (R445), and whether any far channel is enabled. -/
def State.ctxAddr (s : State) (c dir : Nat) : Nat := s.rf .cipCtxCfg [] 21 27 * 2 ^ 21 + 256 * (2 * c + dir)
def State.anyChannel (s : State) : Bool := (List.range 4096).any (fun c => s.flag .farChanCfg [c] 63)

/-- The context area (R445), and the far buffer (R414), each as its first address and length. -/
def State.ctxRange (s : State) : Nat × Nat := (s.ctxAddr 0 0, 2 ^ 21)
def State.fbufRange (s : State) : Nat × Nat := (s.rf .farFbuf [] 30 18 * 2 ^ 30, s.rf .farFbuf [] 0 8 * 2 ^ 30)

/-- READY of the cold store. -/
def State.flashReady (s : State) : Bool := s.flag .drvFlashStatus [] 63

/-- Whether an address lies in the flash window (R53). -/
def inFlash (da : Nat) : Bool := 0x400000000000 ≤ da && da < 0x500000000000

/-- The place of the page map (R287). -/
def State.mapBase (s : State) : Nat := s.rf .drvFlashCtrl [] 12 36 * 4096

/-! ### Areas of the ledger's entries (R302) -/

/-- The ring slot of a version, and a parity area. -/
def State.ringSlot (s : State) (n v : Nat) : Nat := s.entryLe n 0x20 6 + v % 4 * s.entryLe n 0x28 4
def State.slotBytes (s : State) (n : Nat) : Nat := s.entryLe n 0x2C 4
def State.parArea (s : State) (n p : Nat) : Nat := s.entryLe n 0x30 6 + p % 2 * s.entryLe n 0x38 4
def State.parBytes (s : State) (n : Nat) : Nat := s.entryLe n 0x3C 4

/-- Whether an entry is ACTIVE, and whether it is so with ROLE 0x1. -/
def State.isActive (s : State) (n : Nat) : Bool := fld (s.entryLe n 0 8) 0 1 == 1
def State.isWeight (s : State) (n : Nat) : Bool := let c := s.entryLe n 0 8; fld c 0 1 == 1 && fld c 28 4 == 1

/-- The active entries in order, and those of ROLE 0x1. -/
def State.activeEntries (s : State) : List Nat := (List.range 4096).filter s.isActive
def State.weightEntries (s : State) : List Nat := (List.range 4096).filter s.isWeight

/-- Whether an address lies in the ring slot of version `v` of an entry that the ledger unit serves (R302, R303). -/
def State.inRing (s : State) (v a : Nat) : Bool :=
  s.flag .ledBase [] 63 && (List.range 4096).any (fun n => s.isActive n && s.ringSlot n v ≤ a && a < s.ringSlot n v + s.slotBytes n)

/-- The areas of an entry: four ring slots and two parity areas, each as its first address and length. -/
def State.entryAreas (s : State) (n : Nat) : List (Nat × Nat) :=
  (List.range 4).map (fun v => (s.ringSlot n v, s.slotBytes n)) ++ (List.range 2).map (fun p => (s.parArea n p, s.parBytes n))

/-- Whether two ranges share an address. -/
def overlaps (a b : Nat × Nat) : Bool := 0 < a.2 && 0 < b.2 && a.1 < b.1 + b.2 && b.1 < a.1 + a.2

/-- Whether some two of a list of ranges overlap. -/
def anyOverlap : List (Nat × Nat) → Bool
  | [] => false
  | r :: rs => rs.any (overlaps r) || anyOverlap rs

/-- Whether a range of HBM lies wholly in mapped regions. -/
def State.rangeMapped (s : State) (a n : Nat) : Bool :=
  n == 0 || (a + n ≤ 2 ^ 40 && (List.range ((a + n - 1) / 2 ^ 30 - a / 2 ^ 30 + 1)).all (fun k => s.rf .idHbmRegion [a / 2 ^ 30 + k] 18 2 != 0))

/-- Whether the areas of the active entries overlap one another (R303). -/
def State.areasClash (s : State) : Bool := anyOverlap (s.activeEntries.flatMap s.entryAreas)

/-! ### Undefined reads and writes -/

/-- Whether an address lies in the spill slot of a group that is OPEN or CLOSING (R199). -/
def State.inSpill (s : State) (a : Nat) : Bool :=
  if 0x200000000000 ≤ a ∧ a < 0x200200000000 then
    let o := a - 0x200000000000
    let x := s.tile (160 * (o / 0x40000000) + o % 0x40000000 / 0x400000)
    (List.range 8).any (fun g => let u := x.group g
      (u.st == .opened || u.st == .closing) && u.interval != 0 && u.slot ≤ a && a < u.slot + 0x20000)
  else false

/-- Whether an address lies in chunks 1 to 3 of an active ledger entry (R316). -/
def State.inEntry (s : State) (a : Nat) : Bool :=
  let b := s.entryAddr 0
  s.flag .ledBase [] 63 && b ≤ a && a < b + 2 ^ 20 && 64 ≤ (a - b) % 256 && s.entryOn ((a - b) / 256)

/-- Whether an address lies in a range that a running shard transfer copies (R385). -/
def State.inShard (s : State) (a : Nat) : Bool :=
  match s.shard with
  | some x => x.all.any (fun r => r.1 ≤ a && a < r.1 + r.2)
  | none => false

/-- Whether an address lies in the fold area of an enabled exchange (R395). -/
def State.inFold (s : State) (a : Nat) : Bool :=
  let b := s.rf .farArea [] 12 36 * 4096
  s.farOn && b ≤ a && a < b + s.reg .farAreaSize []

/-- Whether the far buffer is larger than 128 GiB, lies outside mapped HBM, or overlaps the fold area, the context area, the page map or an area of the
ledger (R414, R551). -/
def State.fbufBad (s : State) : Bool :=
  let b := s.fbufRange
  128 < s.rf .farFbuf [] 0 8 || !s.rangeMapped b.1 b.2 || overlaps b s.ctxRange
    || (s.farOn && overlaps b (s.rf .farArea [] 12 36 * 4096, s.reg .farAreaSize []))
    || (s.flag .drvFlashCtrl [] 63 && overlaps b (s.mapBase, mapLen))
    || (s.flag .ledBase [] 63 && (overlaps b (s.rf .ledBase [] 20 28 * 2 ^ 20, 2 ^ 20) || (s.activeEntries.flatMap s.entryAreas).any (overlaps b)))

/-- Bytes that a privileged operation reads and writes (R455). -/
def PrivOp.srcLen (o : PrivOp) : Nat :=
  match o.op with
  | 1 => o.aadLen + o.textLen
  | 2 => o.aadLen + o.textLen + 16
  | 3 => 48
  | 4 => 40
  | _ => 32
def PrivOp.dstLen (o : PrivOp) : Nat :=
  match o.op with
  | 1 => o.textLen + 16
  | 2 => o.textLen
  | _ => 0

/-- Whether an address lies in a buffer of a privileged operation in progress (R459). -/
def State.inPrivBuf (s : State) (a : Nat) : Bool :=
  s.cip.ops.any (fun o => (o.src ≤ a && a < o.src + o.srcLen) || (o.dst ≤ a && a < o.dst + o.dstLen))

/-- What every access in flight has at stake. -/
def State.stakes (s : State) : List Stake :=
  s.tiles.flatMap (fun e => e.2.flights.map Flight.stake) ++ (s.xfers.filter (fun x => !x.done)).map Xfer.stake

/-- Whether a write meets a record that an access in flight uses (R87, R106, R248, R254). -/
def State.recBusy (s : State) (as : List Nat) : Bool := s.stakes.any (fun k => k.recs.any as.contains)

/-- Whether an address lies in the record of an armed reduction (R371). -/
def State.inRecord (s : State) (a : Nat) : Bool :=
  s.ctxs.any (fun e => match e.2 with
    | some x => x.record ≤ a && a < x.record + 320
    | none => false)

/-- Whether a write meets CONTRIB or RESULT of an armed reduction (R371). -/
def State.inReduction (s : State) (as : List Nat) : Bool :=
  s.ctxs.any (fun e => match e.2 with
    | some x => [x.contrib, x.result].any (fun d => match Tens.ofDesc d with
      | .ok t => (t.writeAddrs none).any as.contains
      | .error _ => false)
    | none => false)

/-- The undefined case that a write is to whatever store it goes, if any: a spill slot (R199), the record of a reduction (R371), a record in use
(R87). -/
def State.slotBreach (s : State) (as : List Nat) : Option UB :=
  if as.any s.inSpill then some (.ub 23)
  else if as.any s.inRecord then some (.ub 47)
  else if s.recBusy as then some (.ub 13)
  else none

/-- The undefined case that a write into tile stores and HBM is wherever it comes from, if any: beside those of `slotBreach` a group in use (R71). -/
def State.storeBreach (s : State) (as : List Nat) : Option UB := if s.accBusy as then some (.ub 6) else s.slotBreach as

/-- The undefined case that a write of any unit but the far exchange at some addresses is, if any: beside those of `storeBreach` the page map
(R287), a context record (R448), an active ledger entry (R316), a range of a shard transfer (R385), a privileged operation's buffer (R459), the fold area (R395), a ring slot whose
earlier version is still being read (R303), an update of the next round before the boundary has ended (R392). -/
def State.areaBreach (s : State) (as : List Nat) : Option UB :=
  let map := s.mapBase
  let ctx := s.ctxAddr 0 0
  match s.storeBreach as with
  | some u => some u
  | none =>
    if s.flag .drvFlashCtrl [] 63 && as.any (fun a => map ≤ a && a < map + mapLen) then some (.ub 39)
    else if as.any (fun a => ctx ≤ a && a < ctx + 2 ^ 21) && s.anyChannel then some (.ub 55)
    else if as.any s.inEntry then some (.ub 41)
    else if as.any s.inShard then some (.ub 48)
    else if as.any s.inPrivBuf then some (.ub 56)
    else if as.any s.inFold then some (.ub 51)
    else if s.stakes.any (fun k => k.ring.any as.contains) && as.any (s.inRing (s.cv + 1)) then some (.ub 40)
    else if s.farOn && s.phase != 0 && as.any (s.inRing (s.cv + 1)) then some (.ub 50)
    else none

/-- The undefined case that a drover's, another module's or the host's write at some addresses is, if any: beside those of `areaBreach` the tensors of a
reduction (R371). -/
def State.wrBreach (s : State) (as : List Nat) : Option UB :=
  match s.areaBreach as with
  | some u => some u
  | none => if s.inReduction as then some (.ub 47) else none

/-- Whether a write at some addresses, which took the machine from `s` to `s'`, has changed ACTIVE of an entry that an access in flight names (R316). -/
def State.activeMoved (s s' : State) (as : List Nat) : Bool :=
  let b := s.entryAddr 0
  s.flag .ledBase [] 63 &&
    ((as.filter (fun a => b ≤ a && a < b + 2 ^ 20)).map (fun a => (a - b) / 256)).eraseDups.any (fun n =>
      s.entryOn n != s'.entryOn n && s.stakes.any (fun k => k.entries.contains n))

/-- The undefined case that a write at some addresses, which took the machine from `s` to `s'`, is by what it leaves in the ledger's entries, if any: a
reserved value, or a change of ACTIVE that R316 forbids; areas of active entries that overlap (R303). -/
def State.entryBreach (s s' : State) (as : List Nat) : Option UB :=
  let b := s.entryAddr 0
  if s'.badEntries as || s.activeMoved s' as then some (.ub 41)
  else if s.flag .ledBase [] 63 && as.any (fun a => b ≤ a && a < b + 2 ^ 20) && s'.areasClash then some (.ub 40)
  else none

/-- Records that undefined case. -/
def State.checkEntries (s s' : State) (as : List Nat) : State :=
  match s.entryBreach s' as with
  | some u => s'.broke u
  | none => s'

/-- Whether an issuer's access at an address reaches HBM or a tile's stores: not one that faults (R51, R54). -/
def State.lands (s : State) (by_ : Issuer) (wr : Bool) (a : Nat) : Bool :=
  match s.locate by_ wr a with
  | .mem _ => true
  | _ => false

/-- The addresses at which an issuer's write, or its read, reaches HBM or a tile's stores. -/
def State.landing (s : State) (by_ : Issuer) (as : List Nat) : List Nat := as.filter (s.lands by_ true)
def State.readable (s : State) (by_ : Issuer) (as : List Nat) : List Nat := as.filter (s.lands by_ false)

/-- Records the undefined case that an issuer's write at some addresses is, if any. -/
def State.guardWrite (s : State) (by_ : Issuer) (as : List Nat) : State :=
  match s.wrBreach (s.landing by_ as) with
  | some u => s.broke u
  | none => s

/-- Whether an issuer's read touches a version other than CV - 2 to CV of a served entry, or the slot being written (R303): the ring slot of
version CV + 1. -/
def State.rdBreach (s : State) (by_ : Issuer) (as : List Nat) : Bool := (s.readable by_ as).any (s.inRing (s.cv + 1))

/-- The addresses of an issuer's read that lie in rings (R303). -/
def State.ringReads (s : State) (by_ : Issuer) (as : List Nat) : List Nat :=
  if s.flag .ledBase [] 63 then (s.readable by_ as).filter (fun a => (List.range 4).any (fun v => s.inRing v a)) else []

/-! ### Accesses that are held -/

/-- The dies that an access from die `a` to die `b` passes: along the row, then between rows (R62). -/
def diePath (a b : Nat) : List Nat :=
  let lo := min (a % 4) (b % 4)
  (List.range (max (a % 4) (b % 4) - lo + 1)).map (fun k => a / 4 * 4 + lo + k) ++ [b]

/-- The die of a byte of HBM or of a tile's stores. -/
def State.daDie (s : State) (by_ : Issuer) (da : Nat) : Option Nat :=
  match s.locate by_ false da with
  | .mem k => if k < 2 ^ 40 then some (k / 2 ^ 37) else some (da % 0x80000000000 / 0x40000000)
  | _ => none

/-- The die from which an issuer's accesses come, where one is named. -/
def State.issuerDie (s : State) (by_ : Issuer) : Option Nat :=
  match by_ with
  | .tile t => some (t / 160)
  | .queue q => some (s.rf .drvQueueCtrl [q] 27 3)
  | .host p => some (4 * p)
  | _ => none

/-- Whether a die reset of die `d` runs. -/
def State.dieDown (s : State) (d : Nat) : Bool := s.isl.running.any (fun r => r.kind == 3 && r.unit == d)

/-- Whether a die reset holds an access: its target's die, or a die that it passes, is being reset (R519). -/
def State.dieHeld (s : State) (by_ : Issuer) (as : List Nat) : Bool :=
  s.isl.running.any (fun r => r.kind == 3) &&
    as.any (fun a => match s.daDie by_ a with
      | some b => (match s.issuerDie by_ with
        | some h => (diePath h b).any s.dieDown
        | none => s.dieDown b)
      | none => false)

/-- Whether an emergency quiesce holds an access: the stack's die, or the tile's, has been quiesced, its HBM in self-refresh (R509). -/
def State.quiesceHeld (s : State) (by_ : Issuer) (as : List Nat) : Bool :=
  !s.isl.quiesced.isEmpty && as.any (fun a => match s.daDie by_ a with
    | some b => s.isl.quiesced.contains b
    | none => false)

/-- Whether writes at some addresses are held. -/
def State.wrHeld (s : State) (by_ : Issuer) (as : List Nat) : Bool := s.dieHeld by_ as || s.quiesceHeld by_ as

/-- Whether accesses to `n` bytes of HBM from an address on are held, in part: a stack that holds one of their 4 KiB granules is (R58, R509, R519). -/
def State.rangeHeld (s : State) (by_ : Issuer) (a n : Nat) : Bool :=
  n != 0 && s.wrHeld by_ ((List.range ((n + 4095) / 4096 + 1)).map (fun k => min (a + 4096 * k) (a + n - 1)))

/-- Whether some addresses include bytes of FAR.APPLY_WAIT as a drover reads them. -/
def readsApplyWait (as : List Nat) : Bool := as.any (fun a => a / 8 * 8 == 0x300000000000 + regOff .farApplyWait [])

/-- Whether reads at some addresses are held: a group in use (R204), the flash window before READY (R288), APPLY_WAIT while PHASE is ROUNDEND or
APPLY (R391), a die that is being reset or quiesced (R509, R519). -/
def State.rdHeld (s : State) (by_ : Issuer) (as : List Nat) : Bool :=
  s.accHeld as || (as.any inFlash && !s.flashReady) || (readsApplyWait as && (s.phase == 1 || s.phase == 2)) || s.wrHeld by_ as

/-! ### Drover engines (R263, R264, R266) -/

/-- The engines of a class on a die (R263). -/
def State.enginesOf (s : State) (d : Nat) (paddock : Bool) : List Nat :=
  (List.range 16).filter (fun e => (fld (s.reg .drvEngineOwn [d]) e 1 == 1) == paddock)

/-- How many transfers an engine runs. -/
def State.engineLoad (s : State) (d e : Nat) : Nat := (s.xfers.filter (fun x => x.die == d && x.eng == e && !x.done)).length

/-- The engine that takes a transfer of a class on a die, if one has room (R264). -/
def State.drvEngine (s : State) (d : Nat) (paddock : Bool) : Option Nat :=
  ((s.enginesOf d paddock).filter (fun e => s.engineLoad d e < 32)).foldl (fun b e => match b with
    | none => some e
    | some c => if s.engineLoad d e < s.engineLoad d c then some e else some c) none

/-- The engine that runs the instruction-cache line fills of a tile: E(p mod 16), or the lowest of the tile's class; none where its die has no engine
of that class (R266). -/
def State.fillEngine (s : State) (t : Nat) : Option Nat :=
  let es := s.enginesOf (t / 160) (s.isPaddock t)
  if es.contains (t % 160 % 16) then some (t % 160 % 16) else es.head?

/-! ### Unordered accesses (R68, R276) -/

/-- The first key of the unit that holds a key of the byte store: 64 bytes in HBM and host memory, 16 in a tile's stores. -/
def unitOf (k : Nat) : Nat := if k < 2 ^ 40 || 2 ^ 64 ≤ k then k / 64 * 64 else k / 16 * 16
def unitLen (k : Nat) : Nat := if k < 2 ^ 40 || 2 ^ 64 ≤ k then 64 else 16

/-- Who makes an access, for the question which others it is ordered against: an engine's queue orders its own instructions (R139). -/
inductive Actor where
  | sq (t : Nat)
  | unit (t : Nat) (q : Queue)
  | other
  deriving DecidableEq, Repr

/-- What the accesses in flight that an actor is not ordered against have at stake. Transfers of one DV queue or memory queue that are in flight together are
not ordered, as they may complete in any order (R128, R275, R276; DEDUCED, log 28). -/
def State.stakesBut (s : State) (w : Actor) : List Stake :=
  s.tiles.flatMap (fun e => (e.2.flights.filter (fun f => w != .unit e.1 f.queue)).map Flight.stake)
    ++ (s.xfers.filter (fun x => !x.done)).map Xfer.stake

/-- The bytes that a unit held before an access in flight wrote it; none where none did. -/
def oldUnit (ks : List Stake) (u : Nat) : Option (List Nat) :=
  (ks.flatMap Stake.lines).findSome? (fun l => if l.1 = u then some l.2 else none)

/-- The units of some keys that an access in flight has written. -/
def racedUnits (ks : List Stake) (keys : List Nat) : List (Nat × List Nat) :=
  if ks.all (fun k => k.lines.isEmpty) then []
  else (keys.map unitOf).eraseDups.filterMap (fun u => (oldUnit ks u).map (fun b => (u, b)))

/-- Whether an access in flight, unordered against this actor, has written a byte of a record (R87). -/
def State.recRaced (s : State) (w : Actor) (keys : List Nat) : Bool := (s.stakesBut w).any (fun k => k.wrote.any keys.contains)

/-- What an unordered reader sees: each unit as it stands, or as it stood before the write in flight (R68, R276). -/
def State.seen (s : State) (w : Actor) (keys : List Nat) : State :=
  (racedUnits (s.stakesBut w) keys).foldl (fun s u =>
    let (b, s) := s.takeBool
    if b then { s with mem := (s.setBytes u.1 u.2).mem } else s) s

/-- What a reader sees of some keys, and the state in which it goes on. -/
def State.look (s : State) (w : Actor) (keys : List Nat) : State × State :=
  let r := s.seen w keys
  (r, { s with free := r.free })

/-- What an unordered write leaves: `s` is the state before it, `s'` the state with it. Of each unit that an access in flight has written, either this
write's whole unit remains, over what the unit held before, or the other's (R68, R276). Of two scadds both additions stay (R273). -/
def State.raceWrite (s s' : State) (w : Actor) (keys : List Nat) (adds : Bool := false) : State :=
  (racedUnits ((s.stakesBut w).filter (fun k => !(adds && k.adds))) keys).foldl (fun r u =>
    let (b, r) := r.takeBool
    if b then
      r.setBytes u.1 ((List.range (unitLen u.1)).map (fun i => if keys.contains (u.1 + i) then s'.byte (u.1 + i) else u.2.getD i 0))
    else r.setBytes u.1 (s.bytes u.1 (unitLen u.1))) s'

/-- What a write of some keys has at stake: their units with the bytes before. -/
def State.linesOf (s : State) (keys : List Nat) : List (Nat × List Nat) :=
  (keys.map unitOf).eraseDups.map (fun u => (u, s.bytes u (unitLen u)))

/-- What an access has at stake once it has written some keys (R68, R87, R273, R276); `s` is the state before. -/
def State.staked (s : State) (k : Stake) (keys : List Nat) (adds : Bool) : Stake := { k with lines := s.linesOf keys, wrote := keys, adds := adds }

/-- The keys of the byte store that some addresses of a space lie at. -/
def State.spKeys (s : State) (sp : Sp) (wr : Bool) (as : List Nat) : List Nat :=
  as.filterMap (fun a => match sp with
    | .da i => (match s.locate i wr a with
      | .mem k => some k
      | _ => none)
    | .host b => s.hostBuf b a)

end Sys2Proof.Machine
end

