-- ==== Sys2Proof/Machine/Cip.lean ====
section
/-!
DEFINITION. The cipher engines (chapter 11): channel contexts, sealing and opening of frames, the locks, the privileged operations, the key store
and the entropy tests.
-/
namespace Sys2Proof.Machine

/-- An event of a cipher engine (R478). -/
def State.raiseCip (s : State) (f code detail arg0 : Nat) : State := s.raise code detail 8 f arg0 0

/-- A cipher tally (R465). -/
def State.cipCount (s : State) (t : Nat) : State := s.tallyAdd (regOff .cipTally [t]) 1

/-- Whether an engine runs (R463, R464). -/
def State.cipReady (s : State) (f : Nat) : Bool := s.flag .cipEngine [f] 63

/-! ### Context records (R445-R450) -/

/-- A little-endian field of a clear record. -/
def ctxLe (b : List Nat) (off len : Nat) : Nat := leVal ((b.drop off).take len)

/-- A clear record with a field replaced. -/
def ctxSet (b : List Nat) (off len v : Nat) : List Nat := b.take off ++ leBytes len v ++ b.drop (off + len)

/-- FLAGS of a clear record: VALID, STRICT, SPENT. -/
def ctxValid (b : List Nat) : Bool := (ctxLe b 106 1).testBit 0
def ctxStrict (b : List Nat) : Bool := (ctxLe b 106 1).testBit 1
def ctxSpent (b : List Nat) : Bool := (ctxLe b 106 1).testBit 2

/-- SEQ, MAXLEN and the key of a clear record. -/
def ctxSeq (b : List Nat) : Nat := ctxLe b 80 8
def ctxMaxLen (b : List Nat) : Nat := ctxLe b 92 4
def ctxKey (b : List Nat) : List Nat := b.take 32

/-- Whether a reserved bit of a clear record is not 0 (R8, R445). -/
def ctxReserved (b : List Nat) : Bool :=
  ctxLe b 90 2 != 0 || ctxLe b 112 16 != 0 || 16 ≤ ctxLe b 106 1

/-- The clear record of a transmit context while `done` bytes of a frame's text are encrypted (R435, R445): the accumulator over the header and that much
ciphertext, the next counter block, DONE and IN_FRAME; and with no frame in progress (log 39). -/
def ctxInFrame (b : List Nat) (c : Nat) (hdr : List Nat) (f : FarFrame) (done : Nat) : List Nat :=
  let h := beVal (aesEnc (ctxKey b) (List.replicate 16 0))
  let x := (blocks16 (hdr.length + 1) hdr ++ blocks16 (done + 1) (f.body.take done)).foldl (fun y b => ghMul (y ^^^ beVal b) h) 0
  let b := b.take 48 ++ beBytes 16 x ++ (beBytes 4 c ++ beBytes 8 f.seq ++ beBytes 4 (2 + done / 16)) ++ b.drop 80
  ctxSet (ctxSet b 88 2 done) 106 1 (ctxLe b 106 1 ||| 8)
def ctxIdle (b : List Nat) : List Nat :=
  ctxSet (ctxSet (b.take 48 ++ List.replicate 32 0 ++ b.drop 80) 88 2 0) 106 1 (ctxLe b 106 1 % 8)

/-- Whether records are stored wrapped. -/
def State.ctxWrap (s : State) : Bool := s.flag .cipCtxCfg [] 63

/-- The clear record at a place; none where its unwrap fails (R445, R447). -/
def State.ctxStored (s : State) (c dir : Nat) : Option (List Nat) :=
  let a := s.ctxAddr c dir
  if s.ctxWrap then
    match s.cip.kek with
    | some k => kwUnwrap k (s.peeks .unit a 136)
    | none => none
  else some (s.peeks .unit a 128)

/-- Writes a clear record to its place (R445). -/
def State.ctxStore (s : State) (c dir : Nat) (b : List Nat) : State :=
  if s.ctxWrap then
    match s.cip.kek with
    | some k => s.pokes .unit (s.ctxAddr c dir) (kwWrap k b)
    | none => s
  else s.pokes .unit (s.ctxAddr c dir) b

/-- Whether VERSION, CHANNEL and KEK_GEN of a record match its place (R447). -/
def State.ctxMatches (s : State) (c dir : Nat) (b : List Nat) : Bool :=
  ctxLe b 107 1 == 1 && ctxLe b 104 2 == c + dir * 2 ^ 15 && ctxLe b 108 4 == s.cip.kekGen

/-- Whether a cached record is the one of a channel and direction. -/
def CtxRec.isFor (r : CtxRec) (f c dir : Nat) : Bool := r.eng == f && r.chan == c && r.dir == dir

/-- Replaces the cached record of a channel and direction. -/
def State.ctxUpdate (s : State) (f c dir : Nat) (b : List Nat) : State :=
  { s with cip := { s.cip with cache := s.cip.cache.map (fun r => if r.isFor f c dir then { r with bytes := b } else r) } }

/-- Makes room in an engine's cache of 32 contexts: writes one back and drops it; which one is open (R446). -/
def State.ctxEvict (s : State) (f : Nat) : State :=
  let mine := s.cip.cache.filter (fun r => r.eng == f)
  if mine.length < 32 then s
  else
    let (w, s) := s.takeWord
    match mine[w.toNat % mine.length]? with
    | none => s
    | some r =>
      let s := s.ctxStore r.chan r.dir r.bytes
      { s with cip := { s.cip with cache := s.cip.cache.filter (fun x => !x.isFor f r.chan r.dir) } }

/-- A context fault (R447): the channel frames and accepts nothing from here on, the frame counts, the event is raised. -/
def State.ctxFault (s : State) (c dir : Nat) : State :=
  let s := { s with cip := { s.cip with faulted := if s.cip.faulted.contains c then s.cip.faulted else c :: s.cip.faulted } }
  (s.cipCount 2).raise 0x0602 dir 5 c 0 0

/-- The context that an engine needs, from its cache or fetched (R446); none at a context fault. -/
def State.ctxGet (s : State) (f c dir : Nat) : Option (List Nat) × State :=
  if s.cip.faulted.contains c then (none, s.ctxFault c dir)
  else
    match s.cip.cache.find? (fun r => r.isFor f c dir) with
    | some r => (some r.bytes, s)
    | none =>
      match s.ctxStored c dir with
      | none => (none, s.ctxFault c dir)
      | some b =>
        if s.ctxMatches c dir b then
          let s := s.ctxEvict f
          (some b, { s with cip := { s.cip with cache := s.cip.cache ++ [⟨f, c, dir, b⟩] } })
        else (none, s.ctxFault c dir)

/-- Writes back both contexts of a channel and drops them from the caches (R446); a later enable starts without a fault. -/
def State.ctxDrop (s : State) (c : Nat) : State :=
  let s := (s.cip.cache.filter (fun r => r.chan == c)).foldl (fun s r => s.ctxStore c r.dir r.bytes) s
  { s with cip := { s.cip with cache := s.cip.cache.filter (fun r => r.chan != c), faulted := s.cip.faulted.filter (· != c) } }

/-- Whether a record of a channel that is to be enabled has a reserved bit set. -/
def State.ctxSpoilt (s : State) (c : Nat) : Bool :=
  [0, 1].any (fun d => match s.ctxStored c d with
    | some b => ctxReserved b
    | none => false)

/-- Whether a channel may be enabled: a fresh transmit record and a valid receive record (R450). -/
def State.ctxEnableOk (s : State) (c : Nat) : Bool :=
  match s.ctxStored c 0, s.ctxStored c 1 with
  | some t, some r => ctxValid t && !ctxSpent t && ctxValid r
  | _, _ => false

/-- An engine's generator serves requests: one for each block that it masks (R463; what a request is, is open: log 39). -/
def State.drawMasks (s : State) (f len : Nat) : State :=
  { s with cip := { s.cip with requests := tblSet (fun _ => 0) s.cip.requests f (tblGet (fun _ => 0) s.cip.requests f + (len + 15) / 16 + 1) } }

/-! ### Frames (R436-R444) -/

/-- The IV of a channel's frame (R436). -/
def cipIv (c seq : Nat) : List Nat := beBytes 4 c ++ beBytes 8 seq

/-- A header with RETX taken as 0, as it is authenticated (R437). -/
def aadOf (hdr : List Nat) : List Nat := (hdr.zipIdx).map (fun (b, i) => if i = 1 then b % 128 else b)

/-- What sealing a frame gives: its 64-bit sequence, the ciphertext and the tag. -/
structure Sealed where
  seq : Nat
  text : List Nat
  tag : List Nat
  deriving DecidableEq, Repr

/-- Whether a context's length mode takes a text: under STRICT whole blocks up to MAXLEN (R440). The header is 32 bytes. -/
def ctxTakes (b : List Nat) (len : Nat) : Bool := !ctxStrict b || (len % 16 == 0 && len ≤ ctxMaxLen b)

/-- Seals a frame of a channel (R434, R436-R438, R442, R449); its header is made from its sequence. None where the engine does not run, at a
context fault, when the channel has used its last sequence, or where the context rejects the length (R440, R442). -/
def State.cipSeal (s : State) (f c : Nat) (hdr : Nat → List Nat) (pt : List Nat) : Option Sealed × State :=
  if s.cipReady f = false then (none, s)
  else
    match s.ctxGet f c 0 with
    | (none, s) => (none, s)
    | (some b, s) =>
      let seq := ctxSeq b
      if seq = 2 ^ 64 - 1 ∨ ctxTakes b pt.length = false then (none, s)
      else
        let s := if ctxSpent b then s else s.ctxStore c 0 (ctxSet b 106 1 (ctxLe b 106 1 ||| 4))
        let b := ctxSet (ctxSet b 106 1 (ctxLe b 106 1 ||| 4)) 80 8 (seq + 1)
        let (ct, tag) := gcmSeal (ctxKey b) (cipIv c seq) (aadOf (hdr seq)) pt
        (some ⟨seq, ct, tag⟩, (s.ctxUpdate f c 0 b).drawMasks f pt.length)

/-- The largest text that a channel's transmit context takes under STRICT (R442); none: no such limit. -/
def State.cipLimit (s : State) (f c : Nat) : Option Nat :=
  let b := match s.cip.cache.find? (fun r => r.isFor f c 0) with
    | some r => some r.bytes
    | none => s.ctxStored c 0
  match b with
  | some b => if ctxStrict b then some (ctxMaxLen b) else none
  | none => none

/-- What opening a received frame gives. -/
inductive Opened where
  | refused
  | failed
  | ok (seq : Nat) (text : List Nat)
  deriving DecidableEq, Repr

/-- The sequence that a header's SEQ names next to HIGHEST (R439), modulo 2^64. -/
def rxSeq (highest seq : Nat) : Nat :=
  let d := (seq + 2 ^ 32 - highest % 2 ^ 32) % 2 ^ 32
  if d < 2 ^ 31 then (highest + d) % 2 ^ 64 else (highest + d + 2 ^ 64 - 2 ^ 32) % 2 ^ 64

/-- A frame's tag failed (R443): it counts, and the channel's event is raised at most once in 1,000 ms. -/
def State.authFail (s : State) (c : Nat) : State :=
  let s := s.cipCount 0
  let last := tblGet (fun _ => 0) s.cip.authEvt c
  if last ≠ 0 ∧ (s.time + 2 ^ 64 - (last - 1)) % 2 ^ 64 < 10 ^ 8 then s
  else
    let s := { s with cip := { s.cip with authEvt := tblSet (fun _ => 0) s.cip.authEvt c (s.time + 1) } }
    s.raise 0x0601 0 5 c (s.tallyAt (regOff .cipTally [0])).count 0

/-- Opens a received frame of a channel (R437, R439-R444, R447): its authenticated header, SEQ, ciphertext and tag; `room` says that the receive
buffer has room for it (R444). -/
def State.cipOpen (s : State) (room : Bool) (f c : Nat) (hdr : List Nat) (seq : Nat) (ct tag : List Nat) : Opened × State :=
  if s.cipReady f = false ∨ room = false then (.refused, s.cipCount 3)
  else
    match s.ctxGet f c 1 with
    | (none, s) => (.refused, s)
    | (some b, s) =>
      if ctxTakes b ct.length = false then (.refused, s.cipCount 1)
      else
        let s := s.drawMasks f ct.length
        let highest := ctxSeq b
        let v := rxSeq highest seq
        match gcmOpen (ctxKey b) (cipIv c v) (aadOf hdr) ct tag with
        | none => (.failed, s.authFail c)
        | some pt => (.ok v pt, s.ctxUpdate f c 1 (ctxSet b 80 8 (max highest v)))

/-! ### Locks (R452, R453) -/

/-- OWNER of an engine's lock. -/
def State.cipOwner (s : State) (f : Nat) : Nat := s.rf .cipPlock [f] 56 2

/-- BUSY of an engine. -/
def State.cipBusy (s : State) (f : Nat) : Bool := s.flag .cipPop [f] 62

/-- Frees an engine's lock. -/
def State.unlock (s : State) (f : Nat) : State :=
  let s := s.setRf .cipPlock [f] 56 2 0
  { s with cip := { s.cip with releasing := s.cip.releasing.filter (· != f) } }

/-- A write of PLOCK by a requester, the host (1) or Shepherd (2) (R452): ACQUIRE takes a free lock, RELEASE frees the requester's own, at once or when
BUSY ends. -/
def State.plockWrite (s : State) (who f : Nat) (acc : Acc) (v : Nat) : Ans :=
  let b := accBits acc v
  let owner := s.cipOwner f
  let s := if b.testBit 61 then s.setRf .cipPlock [f] 61 1 0 else s
  if b.testBit 63 && acc != .full then ubR4
  else if b.testBit 63 && owner == 0 then .next ((s.setRf .cipPlock [f] 56 2 who).setRf .cipPlock [f] 0 2 (fld b 0 2))
  else if b.testBit 62 && owner == who then
    if s.cipBusy f then
      .next { s with cip := { s.cip with releasing := if s.cip.releasing.contains f then s.cip.releasing else f :: s.cip.releasing } }
    else .next (s.unlock f)
  else .next s

/-- A lock held for 100 ms with no operation in progress is broken (R453). -/
def execCipLockBreak (f : Fin 4) (s : State) : Ans :=
  let f := f.val
  let owner := s.cipOwner f
  if owner ≠ 0 ∧ s.cipBusy f = false then
    .next (((s.unlock f).setRf .cipPlock [f] 61 1 1).raiseCip f 0x0604 owner 0)
  else .next s

/-! ### Privileged operations (R454-R459) -/

/-- Whether a requester may write an engine's operation registers (R454). -/
def State.popOwned (s : State) (who f : Nat) : Bool := s.cipOwner f == who && !s.cipBusy f

/-- A requester's write of one of an engine's operation registers beside POP, ignored without the lock or while BUSY is 1 (R454). -/
def State.popArg (s : State) (who : Nat) (n : RegName) (f : Nat) (acc : Acc) (v : Nat) : State :=
  if s.popOwned who f then s.ctlApply n [f] acc v else s

/-- Ends an engine's operation with a result (R452, R457). -/
def State.popEnd (s : State) (f result : Nat) : State :=
  let s := (s.setRf .cipPstatus [f] 60 4 result).setRf .cipPop [f] 62 1 0
  let s := { s with cip := { s.cip with ops := s.cip.ops.filter (fun o => o.eng != f) } }
  if s.cip.releasing.contains f then s.unlock f else s

/-- A requester's write of POP (R454): its fields under the lock, and GO. -/
def State.popWrite (s : State) (who f : Nat) (acc : Acc) (v : Nat) : State :=
  let go := (accBits acc v).testBit 63
  if s.popOwned who f then
    let s := s.ctlApply .cipPop [f] acc v
    if go && s.cipReady f then
      let w := s.reg .cipPop [f]
      let l := s.reg .cipPlen [f]
      let op : PrivOp :=
        { eng := f, lockChan := s.rf .cipPlock [f] 0 2, op := fld w 54 4, strict := fld w 53 1 == 1, dir := fld w 52 1, kslot := fld w 48 4
          channel := fld w 36 12, src := s.reg .cipPsrc [f], dst := s.reg .cipPdst [f], aadLen := fld l 48 9, textLen := fld l 0 17
          seq := s.reg .cipPseq [f], arm := s.armed }
      { s.setRf .cipPop [f] 62 1 1 with cip := { s.cip with ops := s.cip.ops ++ [op] } }
    else s
  else if go && s.cipOwner f == 0 then s.setRf .cipPstatus [f] 60 4 7
  else s

/-- The result of the checks before any byte moves, in the order of this list (R457): BAD_OP, LEN_ERROR, KEY_ABSENT, ARM_OPEN, CHAN_BUSY; 1: none. -/
def State.popCheck (s : State) (o : PrivOp) : Nat :=
  let crypt := o.op == 1 || o.op == 2
  if o.op = 0 ∨ 5 < o.op ∨ (crypt ∧ (o.lockChan = 0 ∨ o.kslot = 0)) ∨ (crypt = false ∧ o.lockChan ≠ 0)
      ∨ (o.op = 4 ∧ o.kslot = 0) ∨ (o.op = 3 ∧ o.channel < 4) then 0xB
  else if 256 < o.aadLen ∨ 65536 < o.textLen ∨ (crypt ∧ o.strict ∧ (o.aadLen % 16 ≠ 0 ∨ o.textLen % 16 ≠ 0)) then 3
  else if (crypt ∧ s.pkey o.kslot = []) ∨ ((o.op = 3 ∨ o.op = 4) ∧ s.cip.kek = none) then 4
  else if o.op = 5 ∧ o.arm = false then 5
  else if (o.op = 3 ∧ s.flag .farChanCfg [o.channel] 63) ∨ (o.op = 5 ∧ s.anyChannel) then 6
  else 1

/-- Whether an operation's buffers, none of whose bytes faults, break R459 (UB-56): outside the HBM window, over each other or over the context
area. -/
def State.popMisplaced (s : State) (o : PrivOp) : Bool :=
  let area := (s.ctxAddr 0 0, 2 ^ 21)
  let src := (o.src, o.srcLen)
  let dst := (o.dst, o.dstLen)
  2 ^ 40 < o.src + o.srcLen || (0 < o.dstLen && 2 ^ 40 < o.dst + o.dstLen) || overlaps src dst || overlaps src area || overlaps dst area

/-- Installs a KEK (R460). -/
def State.installKek (s : State) (k : List Nat) : State :=
  { s with cip := { s.cip with kek := some k, kekGen := (s.cip.kekGen + 1) % 2 ^ 32, pkeys := [], pseqs := [] } }

/-- The fresh record of a KEYLOAD (R455). -/
def State.freshRecord (s : State) (o : PrivOp) (key id : List Nat) : List Nat :=
  key ++ aesEnc key (List.replicate 16 0) ++ List.replicate 32 0 ++ leBytes 8 0 ++ leBytes 2 0 ++ leBytes 2 0 ++ leBytes 4 o.textLen ++ id
    ++ leBytes 2 (o.channel + o.dir * 2 ^ 15) ++ leBytes 1 (1 + 2 * bit o.strict) ++ [1] ++ leBytes 4 s.cip.kekGen ++ List.replicate 16 0

/-- The result of an ENCRYPT under a key whose sequences are used up: the spec names none, only that no value is issued twice (R456; log 39). It is one
of the results other than OK, free. -/
def State.spentResult (s : State) : Nat × State :=
  let (w, s) := s.takeWord
  (2 + w.toNat % 10, s)

/-- Carries a checked operation out: its result, and the state with its output (R455-R458). -/
def State.popRun (s : State) (o : PrivOp) : Nat × State :=
  let src := s.peeks .unit o.src o.srcLen
  let aad := src.take o.aadLen
  let text := (src.drop o.aadLen).take o.textLen
  match o.op with
  | 1 =>
    let q := tblGet (fun _ => 0) s.cip.pseqs o.kslot
    if 2 ^ 64 ≤ q then s.spentResult else
    let (ct, tag) := gcmSeal (s.pkey o.kslot) (cipIv o.lockChan q) aad text
    let s := { s with cip := { s.cip with pseqs := tblSet (fun _ => 0) s.cip.pseqs o.kslot (q + 1) } }
    (1, (s.setReg .cipPseq [o.eng] q).pokes .unit o.dst (ct ++ tag))
  | 2 =>
    match gcmOpen (s.pkey o.kslot) (cipIv o.lockChan o.seq) aad text (src.drop (o.aadLen + o.textLen)) with
    | some pt => (1, s.pokes .unit o.dst pt)
    | none => (2, s)
  | 3 =>
    match kwUnwrap (s.cip.kek.getD []) (src.take 40) with
    | some key => (1, s.ctxStore o.channel o.dir (s.freshRecord o key (src.drop 40)))
    | none => (2, s)
  | 4 =>
    match kwUnwrap (s.cip.kek.getD []) src with
    | some key =>
      (1, { s with cip := { s.cip with pkeys := tblSet (fun _ => []) s.cip.pkeys o.kslot key, pseqs := tblSet (fun _ => 0) s.cip.pseqs o.kslot 0 } })
    | none => (2, s)
  | _ => (1, s.installKek src)

/-- Whether the memory that an operation reaches is held (R509, R519). -/
def State.popHeld (s : State) (o : PrivOp) : Bool :=
  s.rangeHeld .unit o.src o.srcLen || s.rangeHeld .unit o.dst o.dstLen || (o.op == 3 && s.rangeHeld .unit (s.ctxAddr o.channel o.dir) 256)

/-- The result of a privileged operation (R457-R459). One that is to move bytes of a die which is being reset or quiesced waits (R509, R519). -/
def execPrivilegedResult (f : Fin 4) (s : State) : Ans :=
  match s.cip.ops.find? (fun o => o.eng == f.val) with
  | none => .next s
  | some o =>
    let r := s.popCheck o
    if r ≠ 1 then .next (s.popEnd f.val r)
    else if s.popHeld o then .next s
    else if o.op = 3 ∧ (s.lowFault .unit true [s.ctxAddr o.channel o.dir]).isSome then ub 55
    else
      let rd := (List.range o.srcLen).map (o.src + ·)
      let wr := (List.range o.dstLen).map (o.dst + ·)
      if (s.lowFault .unit false rd).isSome then .next ((s.recordFaults .unit false rd).popEnd f.val 0xA)
      else if (s.lowFault .unit true wr).isSome then .next ((s.recordFaults .unit true wr).popEnd f.val 0xA)
      else if s.popMisplaced o then ub 56
      else
        let (r, s) := (s.drawMasks f.val o.srcLen).popRun o
        .next (s.popEnd f.val r)

/-! ### Zeroisation (R462) -/

/-- Steps 1 to 3 of key zeroisation: the keys are erased, ZEROISED is set, every lock is taken, every operation ends; locks and operations are there
while the compute domain is powered. The island goes on with the warm reset and the zero-fill. -/
def State.eraseKeys (s : State) : State :=
  let s := { s with cip := { s.cip with kek := none, pkeys := [], pseqs := [] } }
  let s := s.setRf .cipKeystore [] 61 1 1
  if s.isl.powered = false then s else
  (List.range 4).foldl (fun s f =>
    let s := if s.cipBusy f then s.popEnd f 8 else s
    s.setRf .cipPlock [f] 56 2 2) s

/-- Zero-fills some bytes of a region, a granule of 4 KiB at a time (R58). -/
def State.zeroGranule (s : State) (da : Nat) : State :=
  match s.locate .unit true da with
  | .mem k => { s with mem := tblClear s.mem k (k + 4096) }
  | _ => s

/-- Step 5: the context area reads zero (R462). -/
def State.zeroContexts (s : State) : State :=
  (List.range 512).foldl (fun s i => s.zeroGranule (s.ctxAddr 0 0 + 4096 * i)) s

/-- A warm or die reset clears an engine, its contexts and its lock (chapter 11, *Masking*); it starts anew with its tests (R463). -/
def State.cipClear (s : State) (f : Nat) : State :=
  { s with cip := { s.cip with
      cache := s.cip.cache.filter (fun r => r.eng != f), ops := s.cip.ops.filter (fun o => o.eng != f)
      releasing := s.cip.releasing.filter (· != f), requests := tblSet (fun _ => 0) s.cip.requests f 0, testing := if s.cip.testing.contains f then s.cip.testing else f :: s.cip.testing } }

/-! ### Entropy (R463, R464) -/

/-- A write of ENGINE: HEALTH_FAIL clears, RESTART begins the start-up tests anew (R464). -/
def State.engineWrite (s : State) (f : Nat) (acc : Acc) (v : Nat) : State :=
  let s := s.ctlApply .cipEngine [f] acc v
  if (accBits acc v).testBit 61 then
    let s := s.setRf .cipEngine [f] 63 1 0
    { s with cip := { s.cip with testing := if s.cip.testing.contains f then s.cip.testing else f :: s.cip.testing } }
  else s

/-- The start-up tests of an engine pass (R463). -/
def execStartUpTestsPass (f : Fin 4) (s : State) : Ans :=
  if s.cip.testing.contains f.val then
    .next { s.setRf .cipEngine [f.val] 63 1 1 with cip := { s.cip with testing := s.cip.testing.filter (· != f.val) } }
  else .next s

/-- An engine's health test fails (R464): start-up (0), repetition count (1) or adaptive proportion (2); a privileged operation ends. -/
def State.entropyFails (s : State) (f test : Nat) : State :=
  let s := (s.setRf .cipEngine [f] 62 1 1).setRf .cipEngine [f] 63 1 0
  let s := { s with cip := { s.cip with testing := s.cip.testing.filter (· != f) } }
  let s := s.raiseCip f 0x0605 test 0
  if s.cipBusy f then s.popEnd f 9 else s

/-- An engine's generator is reseeded. -/
def State.reseeded (s : State) (f : Nat) : State :=
  { s with cip := { s.cip with reseeds := tblSet (fun _ => 0) s.cip.reseeds f (tblGet (fun _ => 0) s.cip.reseeds f + 1) } }

/-- After 2^20 requests an engine's generator is reseeded (R463), and its requests count anew; before, nothing happens. -/
def execReseed (f : Fin 4) (s : State) : Ans :=
  let n := tblGet (fun _ => 0) s.cip.requests f.val
  if n < 2 ^ 20 then .next s
  else .next (State.reseeded { s with cip := { s.cip with requests := tblSet (fun _ => 0) s.cip.requests f.val (n - 2 ^ 20) } } f.val)


end Sys2Proof.Machine
end

