-- ==== Sys2Proof/Machine/Flags.lean ====
section
/-!
DEFINITION. Tokens (R130-R134), the counts of conversions and where they go (R102, R314, R322), the ledger updates of a write (R319, R320),
the fixed reduction tree and the scalar summaries (R239, R244), and the deposits of engine instructions (R137, R138).
-/
namespace Sys2Proof.Machine

/-! ### Tokens -/

/-- Sets a token's count; k0 is no register (R114). -/
def Tile.setToken (x : Tile) (k n : Nat) : Tile :=
  if k = 0 then x else { x with tok := tblSet (fun _ => 0) x.tok k n }

/-- Whether an instruction that waits on token `k` may issue (R114, R130). -/
def Tile.tokenReady (x : Tile) (k : Nat) : Bool := k == 0 || 0 < x.token k

/-- The granted wait takes one from the count (R130). -/
def Tile.takeToken (x : Tile) (k : Nat) : Tile := x.setToken k (x.token k - 1)

/-- Adds increments to a token (R131, R133); a count that would pass 255 stays there, sets TOKEN_SAT and raises TOKEN_SAT (R134), once however many
of the increments pass 255 (DESIGN CHOICE, log 51). -/
def State.addToken (s : State) (t k n : Nat) : State :=
  let x := s.tile t
  if k = 0 then s
  else if x.token k + n ≤ 255 then s.setTile t (x.setToken k (x.token k + n))
  else (s.setTile t { x.setToken k 255 with tokenSat := true }).raiseTile t 0x0102 0 0

/-- Signals a completion (R131). -/
def State.signal (s : State) (t k : Nat) : State := s.addToken t k 1

/-! ### The scalar registers under pending deposits -/

/-- A tile's s-register; s0 reads 0 (R118). -/
def Tile.sreg (x : Tile) (r : Nat) : Word := if r = 0 then 0 else tblGet (fun _ => 0) x.s r

/-- Writes an s-register; a write of s0 is discarded (R118). -/
def Tile.setSreg (x : Tile) (r : Nat) (v : Word) : Tile :=
  if r = 0 then x else { x with s := tblSet (fun _ => 0) x.s r v }

/-- An a-register, a predicate (p0 reads 1), a descriptor register (R118). -/
def Tile.areg (x : Tile) (r : Nat) : DA := tblGet (fun _ => 0) x.a r
def Tile.preg (x : Tile) (r : Nat) : Bool := if r = 0 then true else tblGet (fun _ => false) x.p r
def Tile.dreg (x : Tile) (r : Nat) : Desc := tblGet (fun _ => 0) x.d r

/-- Writes an a-register; the value keeps bits [47:0] (R119). -/
def Tile.setAreg (x : Tile) (r v : Nat) : Tile := { x with a := tblSet (fun _ => 0) x.a r (BitVec.ofNat 48 v) }

/-- Writes a predicate; a write of p0 is discarded (R118). -/
def Tile.setPreg (x : Tile) (r : Nat) (v : Bool) : Tile :=
  if r = 0 then x else { x with p := tblSet (fun _ => false) x.p r v }

/-- Writes a descriptor register. -/
def Tile.setDreg (x : Tile) (r : Nat) (v : Desc) : Tile := { x with d := tblSet (fun _ => 0) x.d r v }

/-- What a sequencer read returns while these instructions' deposits into the register are pending: at each, the value before or
the deposited value (R138). A deposit whose value its engine has not formed yet leaves only the value before; a read that returns the later one
is a read after the completion (log 1). -/
def State.readUnder (s : State) (r : Nat) (v : Word) : List Flight → Word × State
  | [] => (v, s)
  | f :: fs =>
    if f.sdst = r ∧ f.hasDep = true then
      let (b, s) := s.takeBool
      s.readUnder r (if b then f.dep else v) fs
    else s.readUnder r v fs

/-- A sequencer read of an s-register (R118, R138). -/
def State.readS (s : State) (t r : Nat) : Word × State :=
  if r = 0 then (0, s) else s.readUnder r ((s.tile t).sreg r) (s.tile t).flights

/-- A sequencer write of an s-register; pending deposits into it are marked, for either value may remain (R138). -/
def State.writeS (s : State) (t r : Nat) (v : Word) : State :=
  let x := (s.tile t).setSreg r v
  s.setTile t { x with flights := x.flights.map (fun f => if f.sdst = r ∧ r ≠ 0 then { f with overwritten := true } else f) }

/-- The deposit of a completing instruction (R137); where the sequencer has written the register meanwhile, either value remains (R138). -/
def State.deposit (s : State) (t : Nat) (f : Flight) : State :=
  if f.sdst = 0 ∨ f.hasDep = false then s
  else if f.overwritten then
    let (b, s) := s.takeBool
    if b then s.setTile t ((s.tile t).setSreg f.sdst f.dep) else s
  else s.setTile t ((s.tile t).setSreg f.sdst f.dep)

/-- Completes an issued instruction: its deposit lands and its token rises (R131, R137). -/
def State.complete (s : State) (t : Nat) (f : Flight) : State := (s.deposit t f).signal t f.signal

/-! ### The tensors that an instruction names -/

/-- How many sources a reduction's leaf product reads (R240). -/
def redSources (imm : Nat) : Nat :=
  match imm / 8 % 4 with
  | 1 => 2
  | 2 => 3
  | _ => 1

/-- Whether a vector operation writes D, and how many sources it reads (R224, R236, R240, R242, R250, R251). -/
def vxArity (o : VxOp) (imm : Nat) : Bool × Nat :=
  match o with
  | .rrow | .rcol => (true, redSources imm)
  | .scan => (false, redSources imm)
  | .perm | .unpack | .rescale | .drop => (true, 1)
  | .shuf | .pack | .fnd => (true, 2)
  | .fn => (true, if imm / 32 = 1 then 2 else 1)
  | .drain | .ftld => (false, 0)
  | o => (true, o.sources)

/-- The descriptors through which an instruction names ledger entries (R316, R324): those of the operands that its operation uses; a finished tile stands
in place of the first source (R227). -/
def QEntry.named (e : QEntry) : List Desc :=
  let vec (o : VxOp) : List Desc :=
    let (d, n) := vxArity o (ctrlImm e.ctrl)
    (if d then [e.dA] else []) ++ (if ctrlCons e.ctrl then [[], e.dC :: [], [e.dC, e.dD]].getD (n - 1) [] else [e.dB, e.dC, e.dD].take n)
  match e.op with
  | .vx o | .vxl o => vec o
  | .mx .pass | .mx .passr | .mx .passb | .dv _ => [e.dA, e.dB]
  | .mx _ | .lk _ => []

/-! ### Counts and the ledger -/

/-- Numbers of saturations, flushes to zero and non-finite elements (R102). -/
structure Counts where
  sat : Nat
  ftz : Nat
  nf : Nat
  deriving DecidableEq, Repr

def Counts.zero : Counts := ⟨0, 0, 0⟩

/-- How many of each kind a list of element counts holds. -/
def Counts.of (l : List Count) : Counts := ⟨l.count .sat, l.count .ftz, l.count .nf⟩

/-- Whether an issuer updates no ledger entry: a paddock tile or drover while the paddock is enabled, or any unit of the paddock class (R322). -/
def State.noLedger (s : State) (by_ : Issuer) : Bool := (s.sideOf by_).getD false

/-- Whether a write through a destination goes to a ledger entry (R102, R314, R322). -/
def State.toEntry (s : State) (by_ : Issuer) (t : Tens) : Bool :=
  t.ledgerEn && s.entryOn t.ledger && !s.noLedger by_

/-- Writes a field of a ledger entry (R315). -/
def State.setEntry (s : State) (n off len v : Nat) : State := s.pokes .unit (s.entryAddr n + off) (leBytes len v)

/-- Adds to a step counter of an entry, which holds at its largest value (R319). -/
def State.entryAdd (s : State) (n off len k : Nat) : State :=
  s.setEntry n off len (min (256 ^ len - 1) (s.entryLe n off len + k))

/-- Whether the ledger unit's accesses of some entries are held: a die whose stacks hold them is being reset or quiesced (R509, R519). -/
def State.entriesHeld (s : State) (ns : List Nat) : Bool := s.flag .ledBase [] 63 && s.wrHeld .unit (ns.map s.entryAddr)

/-- Whether an instruction that names some tensors waits: a step close runs and one names an active entry (R324), or an entry cannot be reached now. -/
def State.ledgerWait (s : State) (ds : List Desc) : Bool :=
  (s.flag .ledClose [] 63 && ds.any (fun d => fld d.toNat 64 1 == 1 && s.entryOn (fld d.toNat 52 12))) || s.entriesHeld (namedEntries ds)

/-- Counts into the issuing tile's unattributed tallies, or the memory queues' (R102, R332). -/
def State.countUnattributed (s : State) (by_ : Issuer) (c : Counts) : State :=
  match by_ with
  | .tile t =>
    let i := tix t
    ((s.tallyAdd (regOff .tileNumSat i) c.sat).tallyAdd (regOff .tileNumFtz i) c.ftz).tallyAdd (regOff .tileNumNf i) c.nf
  | .queue _ =>
    ((s.tallyAdd (regOff .ledQSat []) c.sat).tallyAdd (regOff .ledQFtz []) c.ftz).tallyAdd (regOff .ledQNf []) c.nf
  | _ => s

/-- Counts where R102 sends them. -/
def State.countTo (s : State) (by_ : Issuer) (t : Tens) (c : Counts) : State :=
  if s.toEntry by_ t then
    ((s.entryAdd t.ledger 0x44 4 c.sat).entryAdd t.ledger 0x48 4 c.ftz).entryAdd t.ledger 0x4C 4 c.nf
  else s.countUnattributed by_ c

/-- The square of a magnitude. -/
def magSq (x : Mag) : Mag := if x.root then ⟨x.num, x.den, false⟩ else ⟨x.num * x.num, x.den * x.den, false⟩

/-- The fixed reduction tree over FP32 leaves (R239): one level of pairs. -/
def pairLevel (op : F32 → F32 → F32 × Nat) : List F32 → List F32 × Nat
  | a :: b :: r =>
    let (x, n) := op a b
    let (l, m) := pairLevel op r
    (x :: l, n + m)
  | l => (l, 0)

/-- A chunk of 64 leaves through six levels (R239). -/
def treeGo (op : F32 → F32 → F32 × Nat) : Nat → List F32 → Nat → F32 × Nat
  | 0, l, n => (l.headD 0, n)
  | k + 1, l, n =>
    let (l', m) := pairLevel op l
    treeGo op k l' (n + m)

/-- The reduction of a sequence of leaves (R239), with how many of its operations saturated. No leaves give the padding value. -/
def reduceBy (op : F32 → F32 → F32 × Nat) (ident : F32) (l : List F32) : F32 × Nat :=
  match (chunks 64 l).map (fun c => treeGo op 6 (c ++ List.replicate (64 - c.length) ident) 0) with
  | [] => (ident, 0)
  | t :: ts => ts.foldl (fun (r, n) (x, m) => let (y, k) := op r x; (y, n + m + k)) t

/-- The operations of a reduction (R239). -/
inductive RedOp where
  | sum | max | min | amax
  deriving DecidableEq, Repr

/-- One operation of a reduction, with 1 when it saturated. -/
def RedOp.apply (o : RedOp) (a b : F32) : F32 × Nat :=
  match o with
  | .sum =>
    let (x, c) := f32RoundC .rne ((f32Val a).add (f32Val b)).toRes
    (x, if c = .sat then 1 else 0)
  | .max => (f32Of ((f32Val a).max (f32Val b)), 0)
  | .min => (f32Of ((f32Val a).min (f32Val b)), 0)
  | .amax =>
    (f32Of ((f32Val a).abs.max (f32Val b).abs), 0)

/-- The padding value of a reduction (R239). -/
def RedOp.ident : RedOp → F32
  | .sum => 0x80000000 | .max => 0xFF800000 | .min => 0x7F800000 | .amax => 0

/-- The reduction of R239. -/
def reduce (o : RedOp) (l : List F32) : F32 × Nat := reduceBy o.apply o.ident l

/-- The contribution to SQ of the exact values of one instruction or granule, in units of 2^-64 (R320). -/
def sqUnits (vs : List Res) : Nat :=
  let leaves := vs.filterMap (fun r => match r with
    | .fin _ x => some (f32Round (.fin false (magSq x)))
    | _ => none)
  match f32Val (reduce .sum leaves).1 with
  | .fin false m e => if 0 ≤ e + 64 then m * 2 ^ (e + 64).toNat else m / 2 ^ (-(e + 64)).toNat
  | _ => 0

/-- A write of exact values through a destination updates its ledger entry (R319, R320): the values of each contribution apart. -/
def State.ledgerUpdate (s : State) (by_ : Issuer) (t : Tens) (groups : List (List Res)) : State :=
  if s.toEntry by_ t then
    let vs := groups.flatten
    let fins := vs.filterMap (fun r => match r with
      | .fin _ x => some x
      | _ => none)
    let amax := fins.foldl (fun a x => max a (f32Up x).toNat) (s.entryLe t.ledger 0x40 4)
    let s := s.setEntry t.ledger 0x40 4 amax
    let s := s.entryAdd t.ledger 0x50 8 fins.length
    let s := s.entryAdd t.ledger 0x58 8 (fins.filter (fun x => x.num ≠ 0)).length
    s.entryAdd t.ledger 0x60 16 (groups.map sqUnits).sum
  else s

/-! ### Scalar summaries (R244, R245) -/

/-- The summary of kind `sumk` over written values (R245): the exact results' non-finite count and the miss count come from the
instruction. -/
def summary (sumk : Nat) (vals : List Val) (nf miss : Nat) : Word :=
  let f (v : Val) : F32 := f32Of v
  match sumk with
  | 1 => BitVec.ofNat 64 nf
  | 2 => BitVec.ofNat 64 (vals.filter (fun v => !v.isZero)).length
  | 3 => BitVec.ofNat 64 (reduce .max (vals.map f)).1.toNat
  | 4 => BitVec.ofNat 64 (if vals.isEmpty then 0 else (reduce .sum (vals.map f)).1.toNat)
  | 5 => BitVec.ofNat 64 (reduce .amax (vals.map f)).1.toNat
  | 6 => BitVec.ofNat 64 miss
  | _ => 0

end Sys2Proof.Machine
end

