-- ==== Sys2Proof/Machine/Seq.lean ====
section
/-!
DEFINITION. The sequencer of a tile (R112-R177): fetching, the instruction cache, the sequencer's own instructions, dispatch into the engine
queues, start, stop and halt.
-/
namespace Sys2Proof.Machine

/-! ### The instruction cache (R165, R166, R170) -/

/-- The set of a line number (R165). -/
def icSet (line : Nat) : Nat := line % 64

/-- Whether a line is in the cache. -/
def Tile.cached (x : Tile) (line : Nat) : Bool := x.icache.any (fun l => l.1 == line)

/-- The bytes of a cached line. -/
def Tile.lineBytes (x : Tile) (line : Nat) : List Nat := ((x.icache.find? (fun l => l.1 == line)).map Prod.snd).getD []

/-- Makes a line the most recently used one. -/
def Tile.touch (x : Tile) (line : Nat) : Tile :=
  if x.cached line then { x with icache := (line, x.lineBytes line) :: x.icache.filter (fun l => l.1 != line) } else x

/-- Puts a line with its bytes into the cache; its set keeps the four most recently used lines (R165). -/
def Tile.fillLine (x : Tile) (line : Nat) (bytes : List Nat) : Tile :=
  let others := x.icache.filter (fun l => l.1 != line)
  let same := ((others.filter (fun l => icSet l.1 == icSet line)).take 3).map Prod.fst
  { x with icache := (line, bytes) :: others.filter (fun l => icSet l.1 != icSet line || same.contains l.1) }

/-- The addresses of a line. -/
def lineAddrs (line : Nat) : List Nat := (List.range 256).map (256 * line + ·)

/-- Fills a line of a tile's cache with the bytes that its drover reads (R165, R166). -/
def State.fill (s : State) (t line : Nat) : State := s.setTile t ((s.tile t).fillLine line (s.peeks (.tile t) (256 * line) 256))

/-- Whether a line of the HBM window meets an address fault for a tile. -/
def State.lineFaults (s : State) (t line : Nat) : Bool :=
  match s.locate (.tile t) false (256 * line) with
  | .mem _ => false
  | _ => true

/-- A fetch for execution meets an address fault (R169): the tile drains and stops; ADDR_FAULT and FETCH_FAULT are raised. -/
def State.fetchFaultAt (s : State) (t line : Nat) : State :=
  let s := match s.locate (.tile t) false (256 * line) with
    | .fault k => s.addrFault (.tile t) (256 * line) k
    | _ => s
  let s := s.setTile t { s.tile t with seq := .draining, cause := .fetchFault, fetchFault := true, icReq := [] }
  s.raiseTile t 0x0103 0 0

/-- The next-line request of a miss (R166): none for a present or requested line, nor for one that would meet a fault. -/
def State.nextLine (s : State) (t line : Nat) : State :=
  let x := s.tile t
  if x.cached line || x.icReq.any (fun r => r.line == line) || 2 ^ 40 ≤ 256 * line || s.lineFaults t line then s
  else s.setTile t { x with icReq := x.icReq ++ [⟨line, false⟩] }

/-- Makes `pc` the next instruction's address and requests its line where the cache lacks it (R166, R168, R169). -/
def State.seek (s : State) (t pc : Nat) : Ans :=
  let s := s.setTile t { s.tile t with pc := pc }
  let x := s.tile t
  let line := pc / 256
  if 2 ^ 40 ≤ pc then ub 19
  else if x.cached line then .next s
  else if s.lineFaults t line then .next (s.fetchFaultAt t line)
  else
    let others := x.icReq.filter (fun r => r.line != line)
    let s := s.setTile t { x with icReq := ⟨line, true⟩ :: others }
    .next (s.nextLine t (line + 1))

/-! ### Fetch -/

/-- What a running sequencer has before it. -/
inductive Fetched where
  | idle
  | stop (u : UB)
  | insn (i : KInsn)
  deriving DecidableEq, Repr

/-- Whether any unit has written a line of the HBM window since generation `g` (R170): the cold store's writes of its page map among them. -/
def State.lineWritten (s : State) (line g : Nat) : Bool :=
  decide (g < tblGet (fun _ => 0) s.lineGen line)
    || s.flash.maps.any (fun m => g < m.gen && m.base < 256 * line + 256 && 256 * line < m.base + mapLen)

/-- The instruction that the sequencer of a tile takes next, from the bytes of its cached line: none while it does not run or its line is missing; an
undefined case where the line was written since the last invalidation (R170) or the word is no instruction (R117). -/
def State.fetch (s : State) (t : Nat) : Fetched :=
  let x := s.tile t
  if x.seq ≠ .running ∨ s.gated t = true then .idle
  else if x.cached (x.pc / 256) = false then .idle
  else if s.lineWritten (x.pc / 256) x.icGen then .stop (.ub 18)
  else
    match kDecode (BitVec.ofNat 64 (leVal (((x.lineBytes (x.pc / 256)).drop (x.pc % 256)).take 8))) with
    | some i => .insn i
    | none => .stop (.ub 15)

/-! ### Running one sequencer instruction -/

/-- What an instruction leaves: the state, where the next instruction is (none: the next word), whether SIGNAL rises now, and whether the
sequencer goes on fetching. -/
structure Done where
  st : State
  pc : Option Nat
  sig : Bool
  fetch : Bool
  deriving DecidableEq, Repr

/-- An instruction that goes on at the next word. -/
def Done.seq (s : State) : Done := ⟨s, none, true, true⟩

/-- The end of an instruction (R131): its token rises, and the sequencer moves on. -/
def State.retire (s : State) (t : Nat) (i : KInsn) (d : Done) : Ans :=
  let next := (((s.tile t).pc) + 8) % 2 ^ 48
  let s := if d.sig then d.st.signal t i.signal.val else d.st
  if d.fetch then s.seek t (d.pc.getD next) else .next (s.setTile t { s.tile t with pc := next })

/-- Whether the conditions of fence and mode hold (R150, R161). -/
def Tile.sqReady (x : Tile) (b : KBody) : Bool :=
  match b with
  | .fence m =>
    !(m.val.testBit 0 && x.queueBusy .mx) && !(m.val.testBit 1 && x.queueBusy .vx)
      && !(m.val.testBit 2 && x.queueBusy .dv) && !(m.val.testBit 3 && x.queueBusy .lk)
  | .mode _ => !x.queueBusy .vx
  | _ => true

/-- Runs the instruction before a tile's sequencer where it is one that `want` names, its WAIT token is there and `ready` holds (R113,
R124, R130); in every other case nothing happens. A predicate of 0 leaves only the tokens (R113). -/
def State.sqRun (s : State) (t : Nat) (want : KBody → Bool) (ready : KBody → Bool) (f : KBody → KInsn → State → Except UB Done) : Ans :=
  match s.fetch t with
  | .idle => .next s
  | .stop u => .fault (.undefined u)
  | .insn i =>
    let x := s.tile t
    if want i.body && x.tokenReady i.wait.val then
      let s' := s.setTile t ((x.takeToken i.wait.val).touch (x.pc / 256))
      if x.preg i.pred.val = false then s'.retire t i (Done.seq s')
      else if ready i.body then
        match f i.body i s' with
        | .ok d => s'.retire t i d
        | .error u => .fault (.undefined u)
      else .next s
    else .next s

/-! ### Integer arithmetic and comparison (R140-R144) -/

/-- Leading zeros of a 64-bit value. -/
def clz64 (a : Nat) : Nat := if a = 0 then 64 else 63 - Nat.log2 a

/-- The number of 1 bits of a 64-bit value. -/
def popc64 (a : Nat) : Nat := ((List.range 64).filter (fun k => a.testBit k)).length

/-- The result of an arithmetic operation (R140); `p` is the predicate of sel. -/
def aluEval (op : AluOp) (a b : Word) (p : Bool) : Word :=
  let sh := b.toNat % 64
  match op with
  | .add => a + b
  | .sub => a - b
  | .and => a &&& b
  | .or => a ||| b
  | .xor => a ^^^ b
  | .shl => a <<< sh
  | .shr => a >>> sh
  | .sra => a.sshiftRight sh
  | .mul => a * b
  | .mulhu => BitVec.ofNat 64 (a.toNat * b.toNat / 2 ^ 64)
  | .mulhs => BitVec.ofInt 64 (a.toInt * b.toInt / 2 ^ 64)
  | .min => if b.slt a then b else a
  | .max => if a.slt b then b else a
  | .minu => if b < a then b else a
  | .maxu => if a < b then b else a
  | .sel => if p then a else b
  | .clz => BitVec.ofNat 64 (clz64 a.toNat)
  | .li => b
  | .popc => BitVec.ofNat 64 (popc64 a.toNat)
  | .shori => (a <<< 28) ||| b
  | .divu => if b = 0 then BitVec.allOnes 64 else BitVec.ofNat 64 (a.toNat / b.toNat)
  | .remu => if b = 0 then a else BitVec.ofNat 64 (a.toNat % b.toNat)

/-- The immediate operand of an arithmetic operation (R141): sign-extended, but shori zero-extends. The shifts take bits [5:0]. -/
def aluImm (op : AluOp) (imm : BitVec 28) : Word := if op = .shori then imm.zeroExtend 64 else imm.signExtend 64

/-- A comparison of two register values (R143, R144). -/
def cmpEval (op : CmpOp) (a b : Word) : Bool :=
  match op with
  | .eq => a == b
  | .ne => a != b
  | .lt => a.slt b
  | .ge => !a.slt b
  | .ltu => a < b
  | .geu => !decide (a < b)
  | .flt => f32Lt (a.truncate 32) (b.truncate 32)
  | .fge => f32Ge (a.truncate 32) (b.truncate 32)
  | .fnf => f32NonFinite (a.truncate 32)
  | .tst => (a &&& b) != 0
  | .pand | .por | .pxor | .pandn => false

/-- A logic operation on two predicates (R143). -/
def cmpEvalP (op : CmpOp) (a b : Bool) : Bool :=
  match op with
  | .pand => a && b
  | .por => a || b
  | .pxor => xor a b
  | .pandn => a && !b
  | _ => false

/-- The rows of majors 0x00 and 0x01. -/
def State.sqAlu (s : State) (t : Nat) (op : AluOp) : Ans :=
  s.sqRun t
    (fun b => match b with
      | .alu o _ _ _ _ => o == op
      | .aluI o _ _ _ => o == op
      | _ => false)
    (fun _ => true)
    (fun b _ s => match b with
      | .alu _ dst a b c =>
        let (x, s) := s.readS t a.val
        let (y, s) := s.readS t b.val
        .ok (.seq (s.writeS t dst.val (aluEval op x y ((s.tile t).preg c.val))))
      | .aluI _ dst a imm =>
        let (x, s) := s.readS t a.val
        .ok (.seq (s.writeS t dst.val (aluEval op x (aluImm op imm) false)))
      | _ => .ok (.seq s))

/-- The rows of majors 0x02 and 0x03. -/
def State.sqCmp (s : State) (t : Nat) (op : CmpOp) : Ans :=
  s.sqRun t
    (fun b => match b with
      | .cmp o _ _ _ => o == op
      | .cmpI o _ _ _ => o == op
      | _ => false)
    (fun _ => true)
    (fun b _ s => match b with
      | .cmp _ dst a b =>
        if op.onPreds then
          let x := s.tile t
          .ok (.seq (s.setTile t (x.setPreg dst.val (cmpEvalP op (x.preg a.val) (x.preg b.val)))))
        else
          let (x, s) := s.readS t a.val
          let (y, s) := s.readS t b.val
          .ok (.seq (s.setTile t ((s.tile t).setPreg dst.val (cmpEval op x y))))
      | .cmpI _ dst a imm =>
        let (x, s) := s.readS t a.val
        .ok (.seq (s.setTile t ((s.tile t).setPreg dst.val (cmpEval op x (imm.signExtend 64)))))
      | _ => .ok (.seq s))

def execSqAdd (t : TileId) (s : State) : Ans := s.sqAlu t.val .add
def execSqSub (t : TileId) (s : State) : Ans := s.sqAlu t.val .sub
def execSqAnd (t : TileId) (s : State) : Ans := s.sqAlu t.val .and
def execSqOr (t : TileId) (s : State) : Ans := s.sqAlu t.val .or
def execSqXor (t : TileId) (s : State) : Ans := s.sqAlu t.val .xor
def execSqShl (t : TileId) (s : State) : Ans := s.sqAlu t.val .shl
def execSqShr (t : TileId) (s : State) : Ans := s.sqAlu t.val .shr
def execSqSra (t : TileId) (s : State) : Ans := s.sqAlu t.val .sra
def execSqMul (t : TileId) (s : State) : Ans := s.sqAlu t.val .mul
def execSqMulhu (t : TileId) (s : State) : Ans := s.sqAlu t.val .mulhu
def execSqMulhs (t : TileId) (s : State) : Ans := s.sqAlu t.val .mulhs
def execSqMin (t : TileId) (s : State) : Ans := s.sqAlu t.val .min
def execSqMax (t : TileId) (s : State) : Ans := s.sqAlu t.val .max
def execSqMinu (t : TileId) (s : State) : Ans := s.sqAlu t.val .minu
def execSqMaxu (t : TileId) (s : State) : Ans := s.sqAlu t.val .maxu
def execSqSel (t : TileId) (s : State) : Ans := s.sqAlu t.val .sel
def execSqClz (t : TileId) (s : State) : Ans := s.sqAlu t.val .clz
def execSqLi (t : TileId) (s : State) : Ans := s.sqAlu t.val .li
def execSqPopc (t : TileId) (s : State) : Ans := s.sqAlu t.val .popc
def execSqShori (t : TileId) (s : State) : Ans := s.sqAlu t.val .shori
def execSqDivu (t : TileId) (s : State) : Ans := s.sqAlu t.val .divu
def execSqRemu (t : TileId) (s : State) : Ans := s.sqAlu t.val .remu
def execSqEq (t : TileId) (s : State) : Ans := s.sqCmp t.val .eq
def execSqNe (t : TileId) (s : State) : Ans := s.sqCmp t.val .ne
def execSqLt (t : TileId) (s : State) : Ans := s.sqCmp t.val .lt
def execSqGe (t : TileId) (s : State) : Ans := s.sqCmp t.val .ge
def execSqLtu (t : TileId) (s : State) : Ans := s.sqCmp t.val .ltu
def execSqGeu (t : TileId) (s : State) : Ans := s.sqCmp t.val .geu
def execSqFlt (t : TileId) (s : State) : Ans := s.sqCmp t.val .flt
def execSqFge (t : TileId) (s : State) : Ans := s.sqCmp t.val .fge
def execSqPand (t : TileId) (s : State) : Ans := s.sqCmp t.val .pand
def execSqPor (t : TileId) (s : State) : Ans := s.sqCmp t.val .por
def execSqPxor (t : TileId) (s : State) : Ans := s.sqCmp t.val .pxor
def execSqPandn (t : TileId) (s : State) : Ans := s.sqCmp t.val .pandn
def execSqFnf (t : TileId) (s : State) : Ans := s.sqCmp t.val .fnf
def execSqTst (t : TileId) (s : State) : Ans := s.sqCmp t.val .tst

/-! ### Branches (R145-R147) -/

/-- Whether a branch condition holds (R145). -/
def condHolds (c : Cond) (v : Word) (p : Bool) : Bool :=
  match c with
  | .always => true
  | .pt => p
  | .pf => !p
  | .z => v == 0
  | .nz => v != 0
  | .lt => v.slt 0
  | .ge => !v.slt 0
  | .gt => (0 : Word).slt v
  | .le => !(0 : Word).slt v

/-- Whether a condition tests an s-register (R145). -/
def condOnReg : Cond → Bool
  | .always | .pt | .pf => false
  | .z | .nz | .lt | .ge | .gt | .le => true

/-- b and call (R146). -/
def State.sqBranch (s : State) (t : Nat) (link : Bool) : Ans :=
  s.sqRun t
    (fun b => match b with
      | .br l _ _ _ _ => l == link
      | _ => false)
    (fun _ => true)
    (fun b _ s => match b with
      | .br _ cond src psel off =>
        let (v, s) := if condOnReg cond then s.readS t src.val else (0, s)
        let x := s.tile t
        if condHolds cond v (x.preg psel.val) then
          let target := ((x.pc : Int) + 8 * off.toInt) % 2 ^ 48
          let s := if link then s.setTile t (x.setAreg 15 (x.pc + 8)) else s
          .ok ⟨s, some target.toNat, true, true⟩
        else .ok (.seq s)
      | _ => .ok (.seq s))

def execSqB (t : TileId) (s : State) : Ans := s.sqBranch t.val false
def execSqCall (t : TileId) (s : State) : Ans := s.sqBranch t.val true

/-- jr (R146). -/
def execSqJr (t : TileId) (s : State) : Ans :=
  s.sqRun t.val
    (fun b => match b with
      | .jr _ => true
      | _ => false)
    (fun _ => true)
    (fun b _ s => match b with
      | .jr a => .ok ⟨s, some (((s.tile t.val).areg a.val).toNat / 8 * 8), true, true⟩
      | _ => .ok (.seq s))

/-- ret (R146). -/
def execSqRet (t : TileId) (s : State) : Ans :=
  s.sqRun t.val (fun b => b == .ret) (fun _ => true)
    (fun _ _ s => .ok ⟨s, some (((s.tile t.val).areg 15).toNat / 8 * 8), true, true⟩)

/-! ### Tokens (R148, R149) -/

/-- tset: the set comes before the increments of its own SIGNAL (R149). -/
def execSqTset (t : TileId) (s : State) : Ans :=
  s.sqRun t.val
    (fun b => match b with
      | .tset _ _ => true
      | _ => false)
    (fun _ => true)
    (fun b _ s => match b with
      | .tset k n => .ok (.seq (s.setTile t.val ((s.tile t.val).setToken k.val n.val)))
      | _ => .ok (.seq s))

def execSqTadd (t : TileId) (s : State) : Ans :=
  s.sqRun t.val
    (fun b => match b with
      | .tadd _ _ => true
      | _ => false)
    (fun _ => true)
    (fun b _ s => match b with
      | .tadd k n => .ok (.seq (s.addToken t.val k.val n.val))
      | _ => .ok (.seq s))

/-- tget (R148). One whose own WAIT names the token reads the count that its granted wait leaves (DESIGN CHOICE, log 51). -/
def execSqTget (t : TileId) (s : State) : Ans :=
  s.sqRun t.val
    (fun b => match b with
      | .tget _ _ => true
      | _ => false)
    (fun _ => true)
    (fun b _ s => match b with
      | .tget dst k => .ok (.seq (s.writeS t.val dst.val (BitVec.ofNat 64 ((s.tile t.val).token k.val))))
      | _ => .ok (.seq s))

/-! ### System (R150) -/

def execSqNop (t : TileId) (s : State) : Ans :=
  s.sqRun t.val (fun b => b == .nop) (fun _ => true) (fun _ _ s => .ok (.seq s))

/-- halt: HALT_CODE, and no further fetch (R150, R151). -/
def execSqHalt (t : TileId) (s : State) : Ans :=
  s.sqRun t.val
    (fun b => match b with
      | .halt _ => true
      | _ => false)
    (fun _ => true)
    (fun b _ s => match b with
      | .halt a =>
        let (v, s) := s.readS t.val a.val
        let x := s.tile t.val
        .ok ⟨s.setTile t.val { x with seq := .draining, cause := .halt, haltCode := v.toNat % 2 ^ 32, icReq := [] }, none, true, false⟩
      | _ => .ok (.seq s))

/-- fence: issues when every named queue has completed what was dispatched to it (R150). -/
def execSqFence (t : TileId) (s : State) : Ans :=
  s.sqRun t.val
    (fun b => match b with
      | .fence _ => true
      | _ => false)
    (s.tile t.val).sqReady
    (fun _ _ s => .ok (.seq s))

/-- event: raises PROGRAM (R150). -/
def execSqEvent (t : TileId) (s : State) : Ans :=
  s.sqRun t.val
    (fun b => match b with
      | .event _ => true
      | _ => false)
    (fun _ => true)
    (fun b _ s => match b with
      | .event a =>
        let (v, s) := s.readS t.val a.val
        .ok (.seq (s.raiseTile t.val 0x0106 0 (v.toNat % 2 ^ 32)))
      | _ => .ok (.seq s))

/-- mode: issues when the VX queue is empty and every VX instruction has completed (R150, R161). -/
def execSqMode (t : TileId) (s : State) : Ans :=
  s.sqRun t.val
    (fun b => match b with
      | .mode _ => true
      | _ => false)
    (s.tile t.val).sqReady
    (fun b _ s => match b with
      | .mode m => .ok (.seq (s.setTile t.val { s.tile t.val with mode := m }))
      | _ => .ok (.seq s))

def execSqSetvl (t : TileId) (s : State) : Ans :=
  s.sqRun t.val
    (fun b => match b with
      | .setvl _ _ => true
      | _ => false)
    (fun _ => true)
    (fun b _ s => match b with
      | .setvl dst a =>
        let (v, s) := s.readS t.val a.val
        let n := min v.toNat 4096
        .ok (.seq ((s.setTile t.val { s.tile t.val with vl := n }).writeS t.val dst.val (BitVec.ofNat 64 n)))
      | _ => .ok (.seq s))

/-- Invalidates a tile's whole instruction cache, the lines on their way included (R150, R170). -/
def State.icInvalidate (s : State) (t : Nat) : State :=
  s.setTile t { s.tile t with icache := [], icGen := s.gen, icReq := [] }

def execSqIcinv (t : TileId) (s : State) : Ans :=
  s.sqRun t.val (fun b => b == .icinv) (fun _ => true) (fun _ _ s => .ok (.seq (s.icInvalidate t.val)))

/-- icpf: requests lines; it signals when every line has arrived or faulted, at once for none (R150). -/
def execSqIcpf (t : TileId) (s : State) : Ans :=
  s.sqRun t.val
    (fun b => match b with
      | .icpf _ _ => true
      | _ => false)
    (fun _ => true)
    (fun b i s => match b with
      | .icpf a n =>
        let (v, s) := s.readS t.val n.val
        let x := s.tile t.val
        let first := (x.areg a.val).toNat / 256
        let k := min v.toNat 256
        if k = 0 then .ok (.seq s)
        else
          let lines := (List.range k).map (fun j => (first + j) % 2 ^ 40)
          let f : Flight := ⟨.sq, i.signal.val, 0, 0, false, false, .icpf lines, Stake.none⟩
          .ok ⟨s.setTile t.val { x with flights := x.flights ++ [f] }, none, false, true⟩
      | _ => .ok (.seq s))

/-- The first flight that a predicate names, and the flights without it. -/
def takeFlight (p : Flight → Bool) : List Flight → Option (Flight × List Flight)
  | [] => none
  | f :: fs =>
    if p f then some (f, fs)
    else match takeFlight p fs with
      | some (g, r) => some (g, f :: r)
      | none => none

/-- A running tile whose line has left the cache asks for it again: that is a miss (R166). -/
def State.refetch (s : State) (t : Nat) : Ans :=
  let x := s.tile t
  if x.seq == .running && !x.cached (x.pc / 256) && !x.icReq.any (fun r => r.line == x.pc / 256 && r.exec) then s.seek t x.pc else .next s

/-- A line of an icpf arrives, or faults and is not filled (R150). -/
def State.icpfLine (t : Nat) (s : State) (l : Nat) : State :=
  match s.locate (.tile t) false (256 * l) with
  | .fault k => s.addrFault (.tile t) (256 * l) k
  | _ => s.fill t l

/-- Whether a line of an icpf cannot be read yet. -/
def State.lineHeld (s : State) (t l : Nat) : Bool :=
  match s.locate (.tile t) false (256 * l) with
  | .fault _ => false
  | _ => s.rdHeld (.tile t) (lineAddrs l)

/-- The lines of the oldest icpf arrive, each from whatever memory it lies in: each faulting line raises ADDR_FAULT, and the instruction signals
(R150). A line of the control range would be read other than in aligned words (UB-03, R53). Without an engine of its class on its die the tile's
fills do not run (R266). -/
def execIcpfComplete (t : TileId) (s : State) : Ans :=
  if s.gated t.val || (s.fillEngine t.val).isNone then .next s else
  let x := s.tile t.val
  match takeFlight (fun f => match f.work with
    | .icpf _ => true
    | _ => false) x.flights with
  | none => .next s
  | some (f, rest) =>
    let lines := match f.work with
      | .icpf l => l
      | _ => []
    if lines.any (s.lineHeld t.val) then .next s
    else if lines.any (fun l => match s.locate (.tile t.val) false (256 * l) with
      | .ctl _ => true
      | _ => false) then ub 3
    else
      let s := s.setTile t.val { x with flights := rest }
      let s := lines.foldl (State.icpfLine t.val) s
      (s.complete t.val f).refetch t.val

/-- A requested line arrives from a drover engine (R166, R266); where it meets an address fault, a fetch for execution stops the tile (R169), and a
next-line request fills nothing. -/
def execIcacheLineFill (t : TileId) (s : State) : Ans :=
  if s.gated t.val || (s.fillEngine t.val).isNone then .next s else
  let x := s.tile t.val
  match x.icReq with
  | [] => .next s
  | r :: rest =>
    if s.lineFaults t.val r.line then
      let s := s.setTile t.val { x with icReq := rest }
      .next (if r.exec && x.seq == .running then s.fetchFaultAt t.val r.line else s)
    else if s.rdHeld (.tile t.val) (lineAddrs r.line) then .next s
    else ((s.setTile t.val { x with icReq := rest }).fill t.val r.line).refetch t.val

/-! ### Moves (R152) -/

/-- A system register (R120). CYCLE has risen by a free amount since its last read, at most to its largest value (log 12). -/
def State.sysReg (s : State) (t code : Nat) : Word × State :=
  match code with
  | 0 => (BitVec.ofNat 64 (s.logical t), s)
  | 1 => (BitVec.ofNat 64 (t / 160 * 256 + t % 160), s)
  | 2 => (BitVec.ofNat 64 (s.slice t), s)
  | 3 => (BitVec.ofNat 64 (bit (s.tile t).mode), s)
  | 4 => (BitVec.ofNat 64 (s.tile t).vl, s)
  | 5 => (BitVec.ofNat 64 s.time, s)
  | _ =>
    let (w, s) := s.takeWord
    let c := min (2 ^ 64 - 1) ((s.tile t).cycle + w.toNat)
    (BitVec.ofNat 64 c, s.setTile t { s.tile t with cycle := c })

def execSqMov (t : TileId) (s : State) : Ans :=
  let t := t.val
  s.sqRun t
    (fun b => match b with
      | .mov _ _ _ _ => true
      | _ => false)
    (fun _ => true)
    (fun b _ s => match b with
      | .mov m dst src imm =>
        let x := s.tile t
        let add := imm.signExtend 64
        let a : Word := (x.areg src.val).zeroExtend 64
        match m with
        | .ss =>
          let (v, s) := s.readS t src.val
          .ok (.seq (s.writeS t dst.val (v + add)))
        | .sa => .ok (.seq (s.writeS t dst.val (a + add)))
        | .as =>
          let (v, s) := s.readS t src.val
          .ok (.seq (s.setTile t ((s.tile t).setAreg dst.val (v + add).toNat)))
        | .aa => .ok (.seq (s.setTile t (x.setAreg dst.val (a + add).toNat)))
        | .sp => .ok (.seq (s.writeS t dst.val (BitVec.ofNat 64 (bit (x.preg src.val)))))
        | .ps =>
          let (v, s) := s.readS t src.val
          .ok (.seq (s.setTile t ((s.tile t).setPreg dst.val (v.toNat.testBit 0))))
        | .pp => .ok (.seq (s.setTile t (x.setPreg dst.val (x.preg src.val))))
        | .ssys =>
          let (v, s) := s.sysReg t src.val
          .ok (.seq (s.writeS t dst.val v))
        | .dd => .ok (.seq (s.setTile t (x.setDreg dst.val (x.dreg src.val))))
      | _ => .ok (.seq s))

/-! ### Scalar memory and descriptors (R153-R160) -/

/-- The width in bytes of a scalar access, and whether a load sign-extends (R153). -/
def memWidth : MemOp → Nat × Bool
  | .ld8u | .st8 => (1, false)
  | .ld16u | .st16 => (2, false)
  | .ld32u | .st32 => (4, false)
  | .ld64 | .st64 | .lda => (8, false)
  | .ld8s => (1, true)
  | .ld16s => (2, true)
  | .ld32s => (4, true)

/-- Loads, stores and lda. -/
def memStores : MemOp → Bool
  | .st8 | .st16 | .st32 | .st64 => true
  | _ => false

/-- The address of a scalar access (R153). -/
def scalarAddr (x : Tile) (a : Fin 16) (imm : BitVec 28) : Nat := ((x.areg a.val) + imm.signExtend 48).toNat

/-- Whether a scalar access is aligned and lies in the tile's own tile store (R154). -/
def scalarOk (t da n : Nat) : Bool := da % n == 0 && inTileStore t da n

/-- The loaded value: zero- or sign-extended (R153). -/
def loadValue (op : MemOp) (v : Nat) : Word :=
  let (n, sg) := memWidth op
  if sg then BitVec.ofInt 64 (sext (8 * n) v) else BitVec.ofNat 64 v

/-- The addresses of a scalar access. -/
def scalarAddrs (da n : Nat) : List Nat := (List.range n).map (da + ·)

/-- Reads the tile store for the sequencer; of a line that an unordered access in flight has written, either the old or the new one (R68). -/
def State.scalarLoad (s : State) (t da n : Nat) : Nat × State :=
  let r := s.seen (.sq t) (scalarAddrs da n)
  (r.le da n, { s with free := r.free })

/-- Writes the tile store for the sequencer: undefined in the spill slot of a group or in a record in use (R199, R87); beside an unordered write in
flight one whole line remains (R68). -/
def State.scalarStore (s : State) (t da n v : Nat) : Except UB Done :=
  match s.storeBreach (scalarAddrs da n) with
  | some u => .error u
  | none => .ok (.seq (s.raceWrite (s.setLe da n v) (.sq t) (scalarAddrs da n)))

/-- Loads, stores and lda (R153). -/
def State.sqMem (s : State) (t : Nat) (want : MemOp → Bool) : Ans :=
  s.sqRun t
    (fun b => match b with
      | .mem o _ _ _ => want o
      | _ => false)
    (fun _ => true)
    (fun b _ s => match b with
      | .mem op dst a imm =>
        let da := scalarAddr (s.tile t) a imm
        let n := (memWidth op).1
        if scalarOk t da n = false then .error (.ub 17)
        else if memStores op then
          let (v, s) := s.readS t dst.val
          s.scalarStore t da n v.toNat
        else
          let (v, s) := s.scalarLoad t da n
          if op = MemOp.lda then .ok (.seq (s.setTile t ((s.tile t).setAreg dst.val v)))
          else .ok (.seq (s.writeS t dst.val (loadValue op v)))
      | _ => .ok (.seq s))

def execSqLoad (t : TileId) (s : State) : Ans := s.sqMem t.val (fun o => !memStores o && o != .lda)
def execSqStore (t : TileId) (s : State) : Ans := s.sqMem t.val memStores
def execSqLda (t : TileId) (s : State) : Ans := s.sqMem t.val (fun o => o == .lda)

/-- The address that dld and dst access (R157). -/
def descAddr (x : Tile) (a : Fin 16) (imm : BitVec 16) : Nat := ((x.areg a.val) + 32 * imm.signExtend 48).toNat

def execSqDld (t : TileId) (s : State) : Ans :=
  let t := t.val
  s.sqRun t
    (fun b => match b with
      | .dld _ _ _ => true
      | _ => false)
    (fun _ => true)
    (fun b _ s => match b with
      | .dld d a imm =>
        let da := descAddr (s.tile t) a imm
        if scalarOk t da 32 = false then .error (.ub 17)
        else
          let (v, s) := s.scalarLoad t da 32
          .ok (.seq (s.setTile t ((s.tile t).setDreg d.val (BitVec.ofNat 256 v))))
      | _ => .ok (.seq s))

def execSqDst (t : TileId) (s : State) : Ans :=
  let t := t.val
  s.sqRun t
    (fun b => match b with
      | .dst _ _ _ => true
      | _ => false)
    (fun _ => true)
    (fun b _ s => match b with
      | .dst d a imm =>
        let da := descAddr (s.tile t) a imm
        if scalarOk t da 32 = false then .error (.ub 17)
        else s.scalarStore t da 32 ((s.tile t).dreg d.val).toNat
      | _ => .ok (.seq s))

/-- A descriptor with one field replaced, the value truncated to the field's width (R157). -/
def setDescField (d : Desc) (f v : Nat) : Desc := BitVec.ofNat 256 (setBits d.toNat (descField f).1 (descField f).2 v)

def execSqDset (t : TileId) (s : State) : Ans :=
  let t := t.val
  s.sqRun t
    (fun b => match b with
      | .dset _ _ _ _ => true
      | _ => false)
    (fun _ => true)
    (fun b _ s => match b with
      | .dset d r f imm =>
        let (v, s) := s.readS t r.val
        let x := s.tile t
        .ok (.seq (s.setTile t (x.setDreg d.val (setDescField (x.dreg d.val) f.val (v + imm.signExtend 64).toNat))))
      | _ => .ok (.seq s))

/-- The value of a descriptor field as dget extends it (R158): STRIDE1 to STRIDE3 by sign. -/
def getDescField (d : Desc) (f : Nat) : Word :=
  let v := fld d.toNat (descField f).1 (descField f).2
  if 11 ≤ f then BitVec.ofInt 64 (sext 32 v) else BitVec.ofNat 64 v

def execSqDget (t : TileId) (s : State) : Ans :=
  let t := t.val
  s.sqRun t
    (fun b => match b with
      | .dget _ _ _ => true
      | _ => false)
    (fun _ => true)
    (fun b _ s => match b with
      | .dget r d f => .ok (.seq (s.writeS t r.val (getDescField ((s.tile t).dreg d.val) f.val)))
      | _ => .ok (.seq s))

def execSqDadd (t : TileId) (s : State) : Ans :=
  let t := t.val
  s.sqRun t
    (fun b => match b with
      | .dadd _ _ _ => true
      | _ => false)
    (fun _ => true)
    (fun b _ s => match b with
      | .dadd d r imm =>
        let (v, s) := s.readS t r.val
        let x := s.tile t
        let base := (descBase (x.dreg d.val) + (v + imm.signExtend 64).toNat) % 2 ^ 48
        .ok (.seq (s.setTile t (x.setDreg d.val (setDescField (x.dreg d.val) 0 base))))
      | _ => .ok (.seq s))

/-! ### Dispatch (R124-R127) -/

/-- The queue of an engine operation (R122). -/
def engQueue : EngOp → Queue
  | .mx _ => .mx
  | .vx _ => .vx
  | .vxl _ => .vx
  | .dv _ => .dv
  | .lk _ => .lk

/-- Puts an entry at a queue's end. -/
def Tile.enqueue (x : Tile) (q : Queue) (e : QEntry) : Tile :=
  match q with
  | .mx => { x with qMx := x.qMx ++ [e] }
  | .vx => { x with qVx := x.qVx ++ [e] }
  | .dv => { x with qDv := x.qDv ++ [e] }
  | .lk => { x with qLk := x.qLk ++ [e] }
  | .sq => x

/-- A queue without its head. -/
def Tile.dequeue (x : Tile) (q : Queue) : Tile :=
  match q with
  | .mx => { x with qMx := x.qMx.tail }
  | .vx => { x with qVx := x.qVx.tail }
  | .dv => { x with qDv := x.qDv.tail }
  | .lk => { x with qLk := x.qLk.tail }
  | .sq => x

/-- Whether an operation reads the s-register that OPD of CTRL names (R236, R254). -/
def engReadsS : EngOp → Bool
  | .vx .fill | .vxl .fill | .vx .drop => true
  | _ => false

/-- Whether an operation reads the s-register that MREG of CTRL names (R355). -/
def engReadsM : EngOp → Bool
  | .lk .put | .lk .get => true
  | _ => false

/-- The queue entry of an engine instruction: every register that it names, with the descriptor after each (R125, R355). -/
def State.entryOf (s : State) (t : Nat) (i : KInsn) (op : EngOp) (a b c : Nat) (ctrl : Nat) (pred : Bool) : QEntry × State :=
  let (sv, s) := if engReadsS op && pred then s.readS t (ctrlOpd ctrl) else if engReadsM op && pred then s.readS t (fld ctrl 18 5) else (0, s)
  let x := s.tile t
  let o := ctrlOpd ctrl
  ({ op := op, pred := pred, wait := i.wait.val, signal := i.signal.val, opa := a, opb := b, opc := c, ctrl := ctrl
     dA := x.dreg a, dB := x.dreg b, dC := x.dreg c, dD := x.dreg o
     eA := x.dreg ((a + 1) % 32), eB := x.dreg ((b + 1) % 32), eC := x.dreg ((c + 1) % 32), eD := x.dreg ((o + 1) % 32)
     sv := sv, mode := x.mode, vl := x.vl }, s)

/-- Dispatches the engine instruction before the sequencer into its queue; a full queue holds it (R126). Its tokens belong to its issue and
completion. A length-form instruction in descriptor mode is undefined (R162), but not one whose predicate is 0 (R113; DESIGN CHOICE, log 51). -/
def execEngineDispatch (t : TileId) (s : State) : Ans :=
  let t := t.val
  match s.fetch t with
  | .idle => .next s
  | .stop u => .fault (.undefined u)
  | .insn i =>
    match i.body with
    | .eng op a b c ctrl =>
      let x := s.tile t
      if 16 ≤ (x.queue (engQueue op)).length then .next s
      else
        let pred := x.preg i.pred.val
        if pred && !x.mode && (match op with
          | .vxl _ => true
          | _ => false) then ub 16
        else
          let s := s.setTile t (x.touch (x.pc / 256))
          let (e, s) := s.entryOf t i op a.val b.val c.val ctrl.toNat pred
          let s := s.setTile t ((s.tile t).enqueue (engQueue op) e)
          s.seek t (((s.tile t).pc + 8) % 2 ^ 48)
    | _ => .next s

/-! ### Issue from a queue (R127, R130, R113) -/

/-- Whether a tile's engines may issue: it runs or drains after a halt or a fetch fault; a stop has emptied its queues (R151, R175). -/
def Tile.engines (x : Tile) : Bool := x.seq != .stopped

/-- KEEPW of a pass (R220). -/
def ctrlKeepw (c : Nat) : Bool := fld c 19 1 == 1

/-- Whether a pass that loads weights has issued and not yet streamed: it holds the queue (R217). -/
def Tile.mxHeld (x : Tile) : Bool :=
  x.flights.any (fun f => match f.work with
    | .passLoaded _ q _ _ _ _ => !ctrlKeepw q.ctrl
    | _ => false)

/-- Whether an earlier vector instruction still runs (R235). -/
def Tile.vxBusy (x : Tile) : Bool := x.flights.any (fun f => f.queue == .vx)

/-- Whether no earlier instruction holds a queue. -/
def Tile.unitFree (x : Tile) (q : Queue) : Bool :=
  match q with
  | .mx => !x.mxHeld
  | .vx => !x.vxBusy
  | .dv | .lk | .sq => true

/-- Whether what an instruction needs beside its token is there: no step close holds an entry that it names (R324), and for a transfer an engine of its
class on its die has room (R264). -/
def State.headReady (s : State) (t : Nat) (e : QEntry) : Bool :=
  !s.ledgerWait e.named && (match e.op with
    | .dv _ => (s.drvEngine (t / 160) (s.isPaddock t)).isSome
    | .mx _ | .vx _ | .vxl _ | .lk _ => true)

/-- Whether the head of a queue waits for nothing but a given token. -/
def State.headWaits (s : State) (t : Nat) (q : Queue) (k : Nat) : Bool :=
  match ((s.tile t).queue q).head? with
  | some e => e.wait == k && (s.tile t).unitFree q && (!e.pred || s.headReady t e)
  | none => false

/-- Whether the sequencer waits for nothing but a given token. -/
def State.seqWaits (s : State) (t k : Nat) : Bool :=
  match s.fetch t with
  | .insn i => (match i.body with
    | .eng _ _ _ _ _ => false
    | b => i.wait.val == k && (!(s.tile t).preg i.pred.val || (s.tile t).sqReady b))
  | _ => false

/-- Whether another unit comes before a queue for a token: the order is sequencer, MX, VX, DV, LK (R132). -/
def State.outranked (s : State) (t : Nat) (q : Queue) (k : Nat) : Bool :=
  k != 0 && (s.seqWaits t k || (match q with
    | .mx | .sq => false
    | .vx => s.headWaits t .mx k
    | .dv => s.headWaits t .mx k || s.headWaits t .vx k
    | .lk => s.headWaits t .mx k || s.headWaits t .vx k || s.headWaits t .dv k))

/-- Issues the head of a queue where it is one that `want` names, its WAIT token is there and no unit comes before it for that token (R132), no
earlier instruction holds the queue and the instruction is ready; in every other case nothing happens. With a predicate of 0 only its tokens
act (R113). -/
def State.issue (s : State) (t : Nat) (q : Queue) (want : EngOp → Bool) (f : QEntry → State → Ans) : Ans :=
  let x := s.tile t
  match x.queue q with
  | [] => .next s
  | e :: _ =>
    if x.engines && !s.gated t && x.unitFree q && want e.op && x.tokenReady e.wait && !s.outranked t q e.wait then
      let s' := s.setTile t ((x.takeToken e.wait).dequeue q)
      if e.pred = false then .next (s'.signal t e.signal)
      else if s.headReady t e then f e s'
      else .next s
    else .next s

/-- Adds a flight to a tile. -/
def State.addFlight (s : State) (t : Nat) (f : Flight) : State :=
  s.setTile t { s.tile t with flights := (s.tile t).flights ++ [f] }

/-! ### Start, stop, halt (R172-R177) -/

/-- Whether R44 forbids a start: slice 0, or 63 while the paddock is disabled. -/
def State.startForbidden (s : State) (t : Nat) : Bool :=
  s.slice t == 0 || (s.slice t == 63 && !s.paddockOn)

/-- A start that is permitted: the registers, tables and groups of R174, R208 and R252, and the first fetch. -/
def State.startTile (s : State) (t : Nat) : Ans :=
  let x := s.tile t
  let s := s.setTile t
    { Tile.reset with
      tok := x.tok, seq := .running, cause := x.cause, watchdog := x.watchdog, tokenSat := x.tokenSat, fetchFault := x.fetchFault
      writeReject := x.writeReject, cfgReject := x.cfgReject, icGen := s.gen }
  s.seek t (s.reg .tileStartPc (tix t))

/-- A write of 1 to START (R44, R173). -/
def State.tryStart (s : State) (t : Nat) : Ans :=
  if s.tileRunning t || s.startForbidden t then .next (s.setTile t { s.tile t with writeReject := true })
  else s.startTile t

/-- A tile's drain has ended: nothing queued and nothing in flight. -/
def Tile.drained (x : Tile) : Bool :=
  x.qMx.isEmpty && x.qVx.isEmpty && x.qDv.isEmpty && x.qLk.isEmpty && x.flights.isEmpty

/-- The tile stops after a halt or a fetch fault (R151, R169): TILE_HALT with HALT_CODE after a halt only. -/
def execTileHalt (t : TileId) (s : State) : Ans :=
  let x := s.tile t.val
  if x.seq == .draining && !s.gated t.val && (x.cause == .halt || x.cause == .fetchFault) && x.drained then
    let s := s.setTile t.val { x with seq := .stopped }
    .next (if x.cause = .halt then s.raiseTile t.val 0x0104 0 x.haltCode else s)
  else .next s

/-- The last issued instruction of a stopped tile has completed or been abandoned (R175). -/
def execTileStopComplete (t : TileId) (s : State) : Ans :=
  let x := s.tile t.val
  if x.seq == .draining && !s.gated t.val && x.cause == .stop && x.drained then .next (s.setTile t.val { x with seq := .stopped })
  else .next s

/-- The stall watchdog reaches its limit (R177). The count of stalled cycles is the environment's (log 13). -/
def execTileStall (t : TileId) (s : State) : Ans :=
  let x := s.tile t.val
  if x.seq != .stopped && !s.gated t.val && s.rf .tileWatchdog (tix t.val) 0 32 != 0 then
    .next ((s.setTile t.val { x with watchdog := true }).raiseTile t.val 0x0105 0 0)
  else .next s

end Sys2Proof.Machine
end

