-- ==== Sys2Proof/Machine/Mx.lean ====
section
/-!
DEFINITION. The matrix engine (R178-R223): passes and their arithmetic, accumulation groups, captures and folds, closes and the tile queue.
-/
namespace Sys2Proof.Machine

/-! ### Format pairs and products (R179, R185, R190, R193, R194) -/

/-- Group size and reduction length of a pair of X and W formats (R179); none for a pair that is not listed. -/
def passPair (x w : Fmt) : Option (Nat × Nat) :=
  match x, w with
  | .e4m3, .e4m3 | .e4m3, .e5m2 | .e5m2, .e4m3 | .e5m2, .e5m2 | .int8, .int8 | .bf16, .bf16 | .fp16, .fp16 => some (4, 128)
  | .fp4, .fp4 | .int4, .int4 | .e4m3, .g4 | .e5m2, .g4 | .fp4, .g4 | .bf16, .g4 | .fp16, .g4 => some (8, 256)
  | _, _ => none

/-- The exact product of an activation and a weight (R185, R190, R194). -/
def passProduct (a : Val) : Weight → Val
  | .val v => a.mul v
  | .zeroCode =>
    match a with
    | .nan n => .nan n
    | .inf _ => .nan false
    | .fin _ _ _ => Val.zero
  | .nanScale => .nan false

/-- The binary exponent of a non-zero finite value: 2^E ≤ |v| < 2^(E+1). -/
def valExp : Val → Int
  | .fin _ m e => Nat.log2 m + e
  | _ => 0

/-- A product cut to a multiple of `2^q` toward zero, in those units, and whether something was lost (R186). -/
def truncAt (q : Int) : Val → Int × Bool
  | .fin n m e =>
    let k : Nat := if q ≤ e then m * 2 ^ (e - q).toNat else m / 2 ^ (q - e).toNat
    let lost : Bool := e < q && m % 2 ^ (q - e).toNat != 0
    (if n then -(k : Int) else k, lost)
  | _ => (0, false)

/-- The sum G and the sticky bit S of one group of products (R186, R190). -/
def groupSum (ps : List Val) : Val × Bool :=
  match ps.find? Val.isNan with
  | some v => (.nan v.sign, false)
  | none =>
    let infs := ps.filter Val.isInf
    if infs.any Val.sign && infs.any (fun v => !v.sign) then (.nan false, false)
    else
      match infs with
      | v :: _ => (.inf v.sign, false)
      | [] =>
        match ps.filter (fun v => !v.isZero) with
        | [] => (Val.zero, false)
        | v :: vs =>
          let q := vs.foldl (fun e v => max e (valExp v)) (valExp v) - 26
          let cut := ps.map (truncAt q)
          (Val.ofInt false (cut.map Prod.fst).sum q, cut.any Prod.snd)

/-- One cell-row: the partial sum plus G, rounded once; a tie with S = 1 goes to the larger magnitude (R187). The flag says that the rounding
saturated (R191). -/
def cellAdd (ps : F32) (g : Val × Bool) : F32 × Bool :=
  let (r, c) := f32RoundC (if g.2 then .rna else .rne) ((f32Val ps).add g.1).toRes
  (r, c == .sat)

/-- The partial sum at the bottom of a column, after the 32 cell-rows (R187). -/
def columnSum (g : Nat) (xs : List Val) (ws : List Weight) : F32 × Bool :=
  (List.range 32).foldl (fun (ps, sat) r =>
    let prods := List.zipWith passProduct ((xs.drop (g * r)).take g) ((ws.drop (g * r)).take g)
    let (v, c) := cellAdd ps (groupSum prods)
    (v, sat || c)) (0, false)

/-! ### The operands of a pass (R181-R183, R211-R214, R220) -/

/-- The fields of a pass's CTRL (R220). -/
def ctrlGroup (c : Nat) : Nat := fld c 20 3
def ctrlTra (c : Nat) : Bool := fld c 18 1 == 1
def ctrlTrw (c : Nat) : Bool := fld c 17 1 == 1
def ctrlRow0 (c : Nat) : Nat := fld c 10 7

/-- A pass's decoded operands: X and W with their scale tensors, M, N and the reduction length kx, and the group size and Kp of the pair. -/
structure PassOps where
  x : Tens
  xs : Option Tens
  w : Tens
  ws : Option Tens
  m : Nat
  n : Nat
  k : Nat
  g : Nat
  kp : Nat
  deriving DecidableEq, Repr

/-- Decodes a pass's operands, or names the undefined case that they are (R78, R180, R181). -/
def passOps (t : Nat) (q : QEntry) : Except UB PassOps :=
  match Tens.pair q.dA q.eA, Tens.pair q.dB q.eB with
  | .error e, _ => .error e
  | _, .error e => .error e
  | .ok (x, xs), .ok (w, ws) =>
    match passPair x.fmt w.fmt with
    | none => .error (.ub 20)
    | some (g, kp) =>
      let tra := ctrlTra q.ctrl
      let trw := ctrlTrw q.ctrl
      let kx := if tra then x.e1 else x.e0
      let m := if tra then x.e0 else x.e1
      let n := if trw then w.e1 else w.e0
      let kw := if trw then w.e0 else w.e1
      let as := x.ownBytes xs ++ w.ownBytes ws
      let inside := as.all (fun a => inTileStore t a 1)
      if x.rank ≤ 1 ∧ w.rank ≤ 1 ∧ kx ≤ kp ∧ m ≤ 128 ∧ n ≤ 128 ∧ kw = kx ∧ ctrlRow0 q.ctrl + m ≤ 128
          ∧ (tra && trw) = false ∧ inside = true then
        .ok ⟨x, xs, w, ws, m, n, kx, g, kp⟩
      else if as.all (fun a => inTileStore t a 1 || inAccStore t a 1) then .error (.ub 21)
      else .error (.ub 9)

/-- What a pass with KEEPW must share with the pass that loaded its weights (R220): FORMAT, SCALE_PLACE, extents and strides, as R74 gives them to
every dimension. -/
def keepFields (d : Desc) : Option Tens :=
  match Tens.ofDesc d with
  | .ok t => some { t with base := 0, rank := 0, ledgerEn := false, ledger := 0 }
  | .error _ => none

/-- Whether the front buffer holds the weights that a pass with KEEPW names (R220). -/
def Tile.kept (x : Tile) (q : QEntry) : Bool :=
  x.front.valid && keepFields x.front.desc == keepFields q.dB && x.front.trw == ctrlTrw q.ctrl

/-- The weights of a pass by column and reduction index (R178, R193). -/
def State.readWeights (s : State) (t : Nat) (p : PassOps) (trw : Bool) : Except UB (List (List Weight)) :=
  match s.readTens (.da (.tile t)) p.w p.ws with
  | .error e => .error e
  | .ok v =>
    let ws := v.elems.map (fun e =>
      if v.fmt = .g4 then
        if e.2 = 255 then Weight.nanScale else if e.1 = v.book.zero then Weight.zeroCode else Weight.val (v.val e)
      else Weight.val (v.val e))
    .ok ((List.range p.n).map (fun n => (List.range p.k).map (fun k =>
      ws.getD (if trw then n * p.k + k else k * p.n + n) (Weight.val Val.zero))))

/-- The activations of a pass by row and reduction index (R183), under the tensor scale `ts` (R299). -/
def State.readActs (s : State) (t : Nat) (p : PassOps) (tra : Bool) (ts : Int) : Except UB (List (List Val)) :=
  match s.readTens (.da (.tile t)) p.x p.xs with
  | .error e => .error e
  | .ok v =>
    let xs := { v with t := ts }.vals
    .ok ((List.range p.m).map (fun m => (List.range p.k).map (fun k =>
      xs.getD (if tra then k * p.m + m else m * p.k + k) Val.zero)))

/-- A mask's bits (R211). -/
def State.maskBits (s : State) (da n : Nat) : List Bool :=
  (List.range (8 * n)).map (fun j => (s.byte (da + j / 8)).testBit (j % 8))

/-- The addresses of a pass's mask (R211). -/
def maskAddrs (o : MxOp) (q : QEntry) : List Nat :=
  match o with
  | .passr => scalarAddrs (descBase q.dC) 16
  | .passb => scalarAddrs (descBase q.dC) 8
  | _ => []

/-- The row mask and block mask of a pass, or the undefined case (R211, R214). -/
def State.passMask (s : State) (t : Nat) (o : MxOp) (q : QEntry) : Except UB (Option (List Bool) × Option (List Bool)) :=
  let b := descBase q.dC
  match o with
  | .passr => if b % 16 = 0 ∧ inTileStore t b 16 then .ok (some (s.maskBits b 16), none) else .error (.ub 24)
  | .passb => if b % 8 = 0 ∧ inTileStore t b 8 then .ok (none, some (s.maskBits b 8)) else .error (.ub 24)
  | _ => .ok (none, none)

/-- Whether a mask keeps an element (R211). -/
def keeps (rows blocks : Option (List Bool)) (i j : Nat) : Bool :=
  (match rows with
    | some l => l.getD i false
    | none => true)
  && (match blocks with
    | some l => l.getD (8 * (i / 16) + j / 16) false
    | none => true)

/-- Whether a pass is skipped: nothing kept, or an empty operand (R212). -/
def passSkips (p : PassOps) (rows blocks : Option (List Bool)) (row0 : Nat) : Bool :=
  p.x.empty || p.w.empty
    || !((List.range p.m).any (fun m => (List.range p.n).any (fun n => keeps rows blocks (row0 + m) n)))

/-! ### Groups -/

/-- Replaces a group's record. -/
def Tile.setGroup (x : Tile) (g : Nat) (v : Group) : Tile := { x with groups := tblSet (fun _ => Group.reset) x.groups g v }

/-- Writes a word of a group's element. -/
def State.setAcc (s : State) (t g i j : Nat) (v : F32) : State := s.setLe (accKey t g i j) 4 v.toNat

/-- A word of a group's element. -/
def State.acc (s : State) (t g i j : Nat) : F32 := BitVec.ofNat 32 (s.le (accKey t g i j) 4)

/-- Every element of a group is +0. -/
def State.clearGroup (s : State) (t g : Nat) : State :=
  { s with mem := tblClear s.mem (accBase t + g * 0x10000) (accBase t + (g + 1) * 0x10000) }

/-- The spill slots of a tile's other open groups (R199). -/
def Tile.openSlots (x : Tile) (g : Nat) : List Nat :=
  (List.range 8).filterMap (fun h =>
    let r := x.group h
    if h ≠ g ∧ r.st = .opened ∧ r.interval ≠ 0 then some r.slot else none)

/-- mx.open (R195, R196, R199, R218). It completes on its own latency edge. -/
def execMxOpen (t : TileId) (s : State) : Ans :=
  let t := t.val
  s.issue t .mx (fun o => o == .mx .open) (fun q s =>
    let x := s.tile t
    let g := ctrlGroup q.ctrl
    let iv := fld q.ctrl 13 7
    let slot := descBase q.dA
    if (x.group g).st ≠ .free then ub 22
    else if iv ≠ 0 ∧ (slot % 512 ≠ 0 ∨ inTileStore t slot 0x20000 = false
        ∨ (x.openSlots g).any (fun o => o < slot + 0x20000 && slot < o + 0x20000)) then ub 23
    else
      let s := s.setTile t (x.setGroup g { Group.reset with st := .opened, interval := iv, slot := slot })
      .next ((s.clearGroup t g).signal t q.signal))

/-- A pass counts toward its group at its issue: the capture that it triggers, Kp and one pass (R196, R198, R210). The answer says whether
it triggers a capture. -/
def State.countPass (s : State) (t g kp : Nat) : Bool × State :=
  let x := s.tile t
  let r := x.group g
  let cap := r.interval != 0 && r.interval ≤ r.since
  let k := r.k + kp
  let first := !r.long && 2 ^ 20 < k
  let r := { r with k := k, passes := r.passes + 1, since := (if cap then 0 else r.since) + 1, long := r.long || first }
  let s := s.setTile t (x.setGroup g r)
  (cap, if first then s.tallyAdd (regOff .tileMxAccLong (tix t)) 1 else s)

/-- The issue of a pass, from which on its codebook records are in use until it completes (R87, R182, R196-R198, R211-R217, R220). -/
def State.mxPass (s : State) (t : Nat) (o : MxOp) : Ans :=
  s.issue t .mx (fun e => e == .mx o) (fun q s =>
    let g := ctrlGroup q.ctrl
    if ((s.tile t).group g).st ≠ .opened then ub 22
    else
      let (m, s) := s.look (.unit t .mx) (maskAddrs o q)
      match passOps t q, m.passMask t o q with
      | .error u, _ => .fault (.undefined u)
      | _, .error u => .fault (.undefined u)
      | .ok p, .ok (rows, blocks) =>
        let flight (recs : List Nat) (w : Work) : Flight := ⟨.mx, q.signal, 0, 0, false, false, w, { Stake.none with recs := recs, entries := namedEntries [q.dA, q.dB] }⟩
        let ts := s.tScale p.x
        let books := p.x.bookAddrs ++ (if ctrlKeepw q.ctrl then [] else p.w.bookAddrs)
        if ctrlKeepw q.ctrl && !(s.tile t).kept q then ub 25
        else if passSkips p rows blocks (ctrlRow0 q.ctrl) then
          let (cap, s) := s.countPass t g p.kp
          .next (s.addFlight t (flight [] (.passSkipped g cap)))
        else if s.recRaced (.unit t .mx) books then ub 13
        else if ctrlKeepw q.ctrl then
          let (cap, s) := s.countPass t g p.kp
          .next (s.addFlight t (flight books (.passLoaded g q rows blocks cap ts)))
        else
          let (r, s) := s.look (.unit t .mx) (p.w.readAddrs p.ws)
          match r.readWeights t p (ctrlTrw q.ctrl) with
          | .error u => .fault (.undefined u)
          | .ok cells =>
            let (cap, s) := s.countPass t g p.kp
            let s := s.setTile t { s.tile t with shadow := ⟨true, cells, q.dB, ctrlTrw q.ctrl⟩ }
            .next (s.addFlight t (flight books (.passLoaded g q rows blocks cap ts))))

def execMxPass (t : TileId) (s : State) : Ans := s.mxPass t.val .pass
def execMxPassr (t : TileId) (s : State) : Ans := s.mxPass t.val .passr
def execMxPassb (t : TileId) (s : State) : Ans := s.mxPass t.val .passb

/-- Replaces the first flight that `f` maps to another. -/
def mapFirst {α : Type} (f : α → Option α) : List α → List α
  | [] => []
  | a :: as => match f a with
    | some b => b :: as
    | none => a :: mapFirst f as

/-- The oldest issued pass that has not streamed. -/
def Tile.nextPass (x : Tile) : Option Flight :=
  x.flights.find? (fun f => match f.work with
    | .passLoaded _ _ _ _ _ _ => true
    | _ => false)

/-- The partial sums of a pass, by group element (R182, R187). -/
def passSums (p : PassOps) (row0 : Nat) (rows blocks : Option (List Bool)) (xs : List (List Val)) (ws : List (List Weight)) :
    List (Nat × Nat × Bool) :=
  (List.range p.m).flatMap (fun m => (List.range p.n).filterMap (fun n =>
    if keeps rows blocks (row0 + m) n then
      let (v, sat) := columnSum p.g (xs.getD m []) (ws.getD n [])
      some (128 * (row0 + m) + n, v.toNat, sat)
    else none))

/-- Whether a capture of a group, triggered by a skipped pass before this one, has still to begin. -/
def Tile.capAhead (x : Tile) (g : Nat) (f : Flight) : Bool :=
  x.capWait.contains g || (x.flights.takeWhile (fun h => h != f)).any (fun h => h.work == .passSkipped g true)

/-- The first activation row of the oldest waiting pass enters the array (R178, R216, R217): the weight buffers exchange roles unless the pass keeps
the weights, and the partial sums follow. A pass waits for the capture that it, or a skipped pass before it, triggered (R200, log 15). -/
def execPassStreamStart (t : TileId) (s : State) : Ans :=
  if s.gated t.val then .next s else
  let t := t.val
  let x := s.tile t
  match x.nextPass with
  | none => .next s
  | some f =>
    match f.work with
    | .passLoaded g q rows blocks false ts =>
      if x.capAhead g f then .next s else
      match passOps t q with
      | .error u => .fault (.undefined u)
      | .ok p =>
        let x := if ctrlKeepw q.ctrl then x else { x with front := x.shadow, shadow := WBuf.empty }
        let (r, s) := s.look (.unit t .mx) (p.x.readAddrs p.xs)
        match r.readActs t p (ctrlTra q.ctrl) ts with
        | .error u => .fault (.undefined u)
        | .ok xs =>
          let ps := passSums p (ctrlRow0 q.ctrl) rows blocks xs x.front.cells
          let fs := mapFirst (fun h => if h = f then some { h with work := .passStreamed g ps } else none) x.flights
          .next (s.setTile t { x with flights := fs })
    | _ => .next s

/-- The oldest issued matrix instruction: passes, closes and discards complete in issue order (R205). -/
def Tile.mxFirst (x : Tile) : Option (Flight × List Flight) := takeFlight (fun f => f.queue == .mx) x.flights

/-- Marks an element saturated (R191). -/
def State.markSat (s : State) (t g i : Nat) : State :=
  let x := s.tile t
  let r := x.group g
  s.setTile t (x.setGroup g { r with sat := tblSet (fun _ => false) r.sat i true })

/-- Adds a partial sum into an element: RNE(live + ps) (R188). -/
def State.addPartial (s : State) (t g : Nat) (e : Nat × Nat × Bool) : State :=
  let (v, c) := f32RoundC .rne ((f32Val (s.acc t g (e.1 / 128) (e.1 % 128))).add (f32Val (BitVec.ofNat 32 e.2.1))).toRes
  let s := s.setAcc t g (e.1 / 128) (e.1 % 128) v
  if e.2.2 || c == .sat then s.markSat t g e.1 else s

/-- The oldest issued pass completes: its partial sums enter the group, and its token rises (R188, R205). A skipped pass does
not wait for the capture that it triggered, which then begins by itself (R221). -/
def execPassComplete (t : TileId) (s : State) : Ans :=
  if s.gated t.val then .next s else
  let t := t.val
  let x := s.tile t
  match x.mxFirst with
  | some (f, rest) =>
    match f.work with
    | .passStreamed g ps =>
      let s := s.setTile t { x with flights := rest }
      .next ((ps.foldl (fun s e => s.addPartial t g e) s).complete t f)
    | .passSkipped g cap =>
      .next ((s.setTile t { x with flights := rest, capWait := if cap then x.capWait ++ [g] else x.capWait }).complete t f)
    | _ => .next s
  | none => .next s

/-! ### Captures and folds (R198-R201) -/

/-- The group of an issued pass. -/
def passGroup : Work → Option Nat
  | .passLoaded g _ _ _ _ _ => some g
  | .passStreamed g _ => some g
  | .passSkipped g _ => some g
  | _ => none

/-- Whether a flight's capture has still to begin. -/
def capPending : Work → Bool
  | .passLoaded _ _ _ _ c _ => c
  | .passSkipped _ c => c
  | _ => false

/-- The group of the first pass whose capture may begin: no earlier pass into its group is on its way (R200). `seen` lists the groups of
earlier passes. -/
def nextCapture : List Nat → List Flight → Option (Nat × Flight)
  | _, [] => none
  | seen, f :: fs =>
    match passGroup f.work with
    | some g => if capPending f.work && !seen.contains g then some (g, f) else nextCapture (g :: seen) fs
    | none => nextCapture seen fs

/-- A flight whose capture has begun. -/
def clearCap : Work → Work
  | .passLoaded g q r b _ t => .passLoaded g q r b false t
  | .passSkipped g _ => .passSkipped g false
  | w => w

/-- A group's words move to the staging buffer and become +0 (R200). -/
def State.capture (s : State) (t g : Nat) (x : Tile) : State :=
  let vals := (List.range 16384).filterMap (fun i =>
    let v := (s.acc t g (i / 128) (i % 128)).toNat
    if v = 0 then none else some (i, v))
  let r := x.group g
  (s.setTile t { x.setGroup g { r with captures := r.captures + 1 } with staging := some ⟨g, vals⟩ }).clearGroup t g

/-- The oldest capture begins once the staging buffer is empty (R200). -/
def execCapture (t : TileId) (s : State) : Ans :=
  if s.gated t.val then .next s else
  let t := t.val
  let x := s.tile t
  match x.staging, x.capWait, nextCapture [] x.flights with
  | none, g :: gs, _ => .next (s.capture t g { x with capWait := gs })
  | none, [], some (g, f) =>
    let fs := mapFirst (fun h => if h = f then some { h with work := clearCap h.work } else none) x.flights
    .next (s.capture t g { x with flights := fs })
  | _, _, _ => .next s

/-- Folds one captured value into its pair (R201); the flag says that a rounding saturated. -/
def foldPair (first : Bool) (x sum err : F32) : F32 × F32 × Bool :=
  if first then (x, 0, false)
  else
    let r (v : Val) : F32 × Bool := let (a, c) := f32RoundC .rne v.toRes; (a, c == .sat)
    let (y, c1) := r ((f32Val x).add (f32Val err))
    let (u, c2) := r ((f32Val sum).add (f32Val y))
    if (f32Val u).isFin then
      let (d, c3) := r ((f32Val sum).sub (f32Val u))
      let (e, c4) := r ((f32Val d).add (f32Val y))
      (u, e, c1 || c2 || c3 || c4)
    else (u, 0, c1 || c2)

/-- Folds element `i` of a captured group. -/
def State.foldElem (s : State) (t g : Nat) (first : Bool) (slot : Nat) (vals : List (Nat × Nat)) (i : Nat) : State :=
  let o := slot + 4 * i
  let x : F32 := BitVec.ofNat 32 ((vals.lookup i).getD 0)
  let (a, e, sat) := foldPair first x (BitVec.ofNat 32 (s.le o 4)) (BitVec.ofNat 32 (s.le (o + 0x10000) 4))
  let s := (s.setLe o 4 a.toNat).setLe (o + 0x10000) 4 e.toNat
  if sat then s.markSat t g i else s

/-- The fold unit folds the staged capture into the group's spill pair, and the staging buffer empties (R201). -/
def execSpillFold (t : TileId) (s : State) : Ans :=
  if s.gated t.val then .next s else
  let t := t.val
  match (s.tile t).staging with
  | none => .next s
  | some c =>
    let r := (s.tile t).group c.group
    let s := (List.range 16384).foldl (fun s i => s.foldElem t c.group (r.folds == 0) r.slot c.vals i) s
    let x := s.tile t
    let r := x.group c.group
    .next (s.setTile t { x.setGroup c.group { r with folds := r.folds + 1 } with staging := none })

/-! ### Close and discard (R195, R203, R205, R218, R219) -/

/-- The issue of a close or a discard: its group must be open (R197). -/
def State.mxEnd (s : State) (t : Nat) (o : MxOp) (sdst : Nat → Nat) (w : Nat → Work) : Ans :=
  s.issue t .mx (fun e => e == .mx o) (fun q s =>
    let x := s.tile t
    let g := ctrlGroup q.ctrl
    let r := x.group g
    if r.st ≠ .opened then ub 22
    else
      let s := s.setTile t (x.setGroup g { r with st := .closing })
      .next (s.addFlight t ⟨.mx, q.signal, sdst q.ctrl, 0, false, false, w g, Stake.none⟩))

def execMxClose (t : TileId) (s : State) : Ans := s.mxEnd t.val .close (fun c => fld c 8 5) .close
def execMxDiscard (t : TileId) (s : State) : Ans := s.mxEnd t.val .discard (fun _ => 0) .discard

/-- The close status word (R219). -/
def closeStatus (r : Group) (g sat nf : Nat) : Word :=
  BitVec.ofNat 64 (bit r.long * 2 ^ 63 + bit (r.captures != 0) * 2 ^ 62 + g * 2 ^ 56 + min r.passes 0xFFFF * 2 ^ 32 + sat * 2 ^ 16 + nf)

/-- Closes one element: its result overwrites it; the counts of R191 so far (R203). -/
def State.closeOne (t g : Nat) (a : State × Counts) (i : Nat) : State × Counts :=
  let (s, n) := a
  let (v, c) := s.closeElem t g (i / 128) (i % 128)
  let sat := c == .sat || tblGet (fun _ => false) ((s.tile t).group g).sat i
  let s := s.setAcc t g (i / 128) (i % 128) v
  if f32NonFinite v then (s, { n with nf := n.nf + 1 })
  else if sat then (s, { n with sat := n.sat + 1 })
  else (s, n)

/-- The oldest issued matrix instruction, a close, completes (R203, R205, R206, R219): after any fold, unless the group never spilled. -/
def execCloseComplete (t : TileId) (s : State) : Ans :=
  if s.gated t.val then .next s else
  let t := t.val
  let x := s.tile t
  match x.mxFirst with
  | some (f, rest) =>
    match f.work with
    | .close g =>
      if x.capWait.contains g || x.staging.isSome && (x.group g).captures != 0 then .next s
      else
        let (s, n) := (List.range 16384).foldl (State.closeOne t g) (s, Counts.zero)
        let x := s.tile t
        let r := x.group g
        let w := closeStatus r g n.sat n.nf
        let x := { x.setGroup g { r with st := .queued } with
          flights := rest, tileQueue := x.tileQueue ++ [g], lastClose := w }
        let s := (s.setTile t x).countUnattributed (.tile t) n
        .next (s.complete t { f with dep := w, hasDep := true })
    | _ => .next s
  | none => .next s

/-- The oldest issued matrix instruction, a discard, completes: the group is free and keeps its values (R195, R218). -/
def execDiscardComplete (t : TileId) (s : State) : Ans :=
  if s.gated t.val then .next s else
  let t := t.val
  let x := s.tile t
  match x.mxFirst with
  | some (f, rest) =>
    match f.work with
    | .discard g =>
      let folding := match x.staging with
        | some c => c.group == g
        | none => false
      if folding || x.capWait.contains g then .next s
      else
        let x := { x.setGroup g { x.group g with st := .free } with flights := rest }
        .next ((s.setTile t x).complete t f)
    | _ => .next s
  | none => .next s

end Sys2Proof.Machine
end

