-- ==== Sys2Proof/Machine/Vx.lean ====
section
/-!
DEFINITION. The vector engine (R224-R261, R552): operands and their rules, the element-wise instructions, reductions, movement, rescale and
drain, function tables, the drop-out generator, the length form.
-/
namespace Sys2Proof.Machine

/-! ### Operands (R224-R230, R258) -/

/-- A memory source: its tensor, its scale tensor, and whether it is a row operand (R228). -/
structure VSrc where
  t : Tens
  ed : Option Tens
  row : Bool
  deriving DecidableEq, Repr

/-- A source: the finished tile of a group, or a memory source. -/
inductive VIn where
  | tile (g : Nat)
  | mem (v : VSrc)
  deriving DecidableEq, Repr

/-- An operand of the length form: elements 0 to VL - 1 at BASE, without block scales (R258). -/
def Tens.flat (d : Desc) (vl : Nat) : Except UB Tens :=
  let n := d.toNat
  let place := fld n 65 3
  match Fmt.ofCode (fld n 48 4) with
  | none => .error (.ub 7)
  | some fmt =>
    if fld n 72 8 ≠ 0 then .error (.ub 1)
    else if 3 ≤ place then .error (.ub 7)
    else if place ≠ 0 then .error (.ub 30)
    else if fmt = .g4 then .error (.ub 12)
    else .ok ⟨fld n 0 48, fmt, 0, vl, 1, 1, 1, 0, 0, 0, 0, fld n 64 1 = 1, fld n 52 12⟩

/-- An operand in the instruction's form. -/
def vxOperand (len : Option Nat) (d ed : Desc) : Except UB (Tens × Option Tens) :=
  match len with
  | none => Tens.pair d ed
  | some vl =>
    match Tens.flat d vl with
    | .ok t => .ok (t, none)
    | .error e => .error e

/-- A memory source of an instruction. -/
def vxSource (len : Option Nat) (d ed : Desc) (row : Bool) : Except UB VIn :=
  match vxOperand len d ed with
  | .ok (t, e) => .ok (.mem ⟨t, e, row⟩)
  | .error e => .error e

/-- The extents of a tensor. -/
def Tens.exts (t : Tens) : List Nat := [t.e0, t.e1, t.e2, t.e3]

/-- Whether a source has the shape that R228 asks for: that of the iterated tensor, or of a row operand of it. -/
def VIn.shaped (it : Tens) : VIn → Bool
  | .tile _ => true
  | .mem v =>
    if v.row then v.t.rank == it.rank - 1 && v.t.exts == [it.e1, it.e2, it.e3, 1]
    else v.t.rank == it.rank && v.t.exts == it.exts

/-- Whether addresses lie in the tile's stores as R78 and R229 ask: all in its tile store, or all in one of its groups that `ok` names. -/
def vxPlace (t : Nat) (ok : Nat → Bool) (as : List Nat) : Option UB :=
  if as.all (fun a => inTileStore t a 1) then none
  else if as.all (fun a => inTileStore t a 1 || inAccStore t a 1) then
    let grp (a : Nat) : Nat := (a - accBase t) / 0x10000
    let g := grp (as.headD 0)
    if as.all (fun a => inAccStore t a 1 && grp a == g) && ok g then none else some (.ub 26)
  else some (.ub 9)

/-- The places of a tensor: its elements by `ok`, its codebook and every element of its scale tensor in the tile store (R78, R229). -/
def tensPlace (t : Nat) (ok : Nat → Bool) (x : Tens) (ed : Option Tens) : Option UB :=
  if x.empty then none
  else
    match vxPlace t ok x.dataAddrs with
    | some u => some u
    | none => if (x.scaleAddrs ed ++ x.bookAddrs ++ (match ed with
        | some e => e.readAddrs none
        | none => [])).all (fun a => inTileStore t a 1) then none else some (.ub 9)

/-- Whether a list has a repeated member. -/
def hasDup : List Nat → Bool
  | [] => false
  | a :: as => as.contains a || hasDup as

/-- Whether a write target maps two elements, or an element and a scale, to one byte, or its scale descriptor two of its elements; the nibbles of a byte
count apart (R79). -/
def Tens.writeDup (t : Tens) (ed : Option Tens) : Bool :=
  !t.empty && ((match ed with
    | some e => t.place == 1 && hasDup (e.indices.map (fun x => (e.addr x).1))
    | none => false) || hasDup (t.indices.flatMap (fun x =>
      let (a, hi) := t.addr x
      if t.fmt.bits = 4 then [2 * a + bit hi]
      else (List.range t.bytesPer).flatMap (fun k => [2 * ((a + k) % 2 ^ 48), 2 * ((a + k) % 2 ^ 48) + 1]))
    ++ (t.scaleAddrs ed).flatMap (fun a => [2 * a, 2 * a + 1])))

/-- Whether two lists share a member. -/
def meets (a b : List Nat) : Bool := a.any b.contains

/-- Whether D coincides with a source as R230 permits. -/
def agrees (d s : Tens) : Bool :=
  d.base == s.base && d.fmt == s.fmt && d.place == s.place && d.rank == s.rank && d.exts == s.exts
    && d.s1 == s.s1 && d.s2 == s.s2 && d.s3 == s.s3

/-- The codebook records that an instruction's operands use (R85). -/
def vxBooks (d : Tens) (ins : List VIn) : List Nat :=
  ins.flatMap (fun v => match v with
    | .mem v => if v.t.empty then [] else v.t.bookAddrs
    | .tile _ => []) ++ if d.empty then [] else d.bookAddrs

/-- The bytes of the tile's stores that an instruction's sources lie in. -/
def vxReads (ins : List VIn) : List Nat :=
  ins.flatMap (fun v => match v with
    | .mem v => v.t.readAddrs v.ed
    | .tile _ => [])

/-- The rules that D, the sources and the record bytes of an instruction must keep (R78, R79, R87, R199, R228-R230). `elem` says that the instruction is
element-wise, `it` is the iterated tensor, `loose` lists the sources whose shape the minor states itself. -/
def State.vxCheck (s : State) (t : Nat) (elem : Bool) (it d : Tens) (ded : Option Tens) (ins loose : List VIn) (rec : List Nat) : Option UB :=
  let queued (g : Nat) : Bool := ((s.tile t).group g).st == .queued
  let srcs := (ins ++ loose).filterMap (fun v => match v with
    | .mem v => some v
    | .tile _ => none)
  let places := srcs.filterMap (fun v => tensPlace t queued v.t v.ed)
  let out := d.writeAddrs ded
  if (ins.all (VIn.shaped it)) = false then some (.ub 28)
  else
    match places with
    | u :: _ => some u
    | [] =>
      match tensPlace t queued d ded with
      | some u => some u
      | none =>
        if d.writeDup ded then some (.ub 10)
        else if srcs.any (fun v => !(elem && agrees d v.t) && meets out (v.t.readAddrs v.ed)) || meets out rec || meets out d.bookAddrs
            || (!d.empty && 2 ≤ (srcs.filter (fun v => elem && agrees d v.t)).length) then some (.ub 27)
        else if s.recRaced (.unit t .vx) (vxBooks d (ins ++ loose)) || s.recRaced (.unit t .vx) rec then some (.ub 13)
        else s.slotBreach out

/-- The values of a source in the element order of the iterated tensor (R227, R228). -/
def State.vxValues (s : State) (t : Nat) (it : Tens) (v : VIn) : Except UB (List Val) :=
  match v with
  | .tile g => .ok (it.indices.map (fun x => f32Val (s.acc t g x.i1 x.i0)))
  | .mem v =>
    match s.readTens (.da (.tile t)) v.t v.ed with
    | .error e => .error e
    | .ok w => .ok (if v.row then w.vals.flatMap (List.replicate it.e0) else w.vals)

/-- The values of several sources. -/
def State.vxAll (s : State) (t : Nat) (it : Tens) : List VIn → Except UB (List (List Val))
  | [] => .ok []
  | v :: vs =>
    match s.vxValues t it v, s.vxAll t it vs with
    | .error e, _ => .error e
    | _, .error e => .error e
    | .ok a, .ok b => .ok (a :: b)

/-! ### Issue and completion (R206, R233-R235, R244, R552) -/

/-- The count of an element: `pre` says that its chain of roundings saturated before its final encoding (R552), `drowned` that its block became NaN
by another element, and then it counts nothing (R103). -/
def chainCount (c : Count) (pre drowned : Bool) : Count :=
  match c with
  | .nf => .nf
  | .sat => .sat
  | c => if pre && !drowned then .sat else c

/-- The head of the tile queue goes from QUEUED to HELD for a consuming instruction (R206). -/
def State.takeTileQ (s : State) (t : Nat) (cons : Bool) : Except UB (Option Nat × State) :=
  if cons then
    let x := s.tile t
    match x.tileQueue with
    | [] => .error (.ub 22)
    | g :: gs => .ok (some g, s.setTile t { x.setGroup g { x.group g with st := .held } with tileQueue := gs })
  else .ok (none, s)

/-- The instruction has issued: what its completion deposits, frees and loads, and what it has at stake until then. -/
def State.vxFlight (s : State) (t : Nat) (q : QEntry) (dep : Word) (frees : Option Nat) (table : Option (Bool × List Nat)) (k : Stake) : State :=
  s.addFlight t ⟨.vx, q.signal, ctrlSdst q.ctrl, dep, ctrlSumk q.ctrl ≠ 0, false, .vector frees table, { k with entries := namedEntries q.named }⟩

/-- Encodes and writes D, counts, updates the ledger and prepares the deposit (R233, R234, R244, R552). `rs` holds, in element order, the value that
enters each final encoding and whether an earlier rounding saturated, `recs` the records in use. Beside an unordered write in flight one whole line of
each remains (R68). -/
def State.vxWrite (s : State) (t : Nat) (q : QEntry) (d : Tens) (ded : Option Tens) (rtz : Bool) (frees : Option Nat) (recs : List Nat)
    (rs : List (Res × Bool)) : Ans :=
  let by_ := Issuer.tile t
  match s.book (.da by_) d with
  | .error u => .fault (.undefined u)
  | .ok book =>
    let vs := rs.map Prod.fst
    let td := s.tScale d
    let e := encode d td book.levels rtz vs
    let c := Counts.of (List.zipWith (fun c p => chainCount c p.1 p.2) e.counts ((rs.map Prod.snd).zip e.drowned))
    let dep := summary (ctrlSumk q.ctrl) (e.vals d td book) (vs.filter (fun r => !r.isFin)).length (c.sat + c.ftz)
    let out := d.writeAddrs ded
    let k : Stake := s.staked { Stake.none with recs := recs } out false
    let s := if rs.isEmpty then s
      else (((s.raceWrite (s.putTens (.da by_) d ded e.codes e.scales) (.unit t .vx) out).countTo by_ d c).ledgerUpdate by_ d [vs])
    .next (s.vxFlight t q dep frees none k)

/-- Issues a vector instruction: the engine runs one at a time (R235); a step close holds an instruction that names an active entry (R324); a consuming
instruction takes the head of the tile queue (R206). -/
def State.vxIssue (s : State) (t : Nat) (want : EngOp → Bool) (f : QEntry → Option Nat → State → Ans) : Ans :=
  s.issue t .vx want (fun q s =>
    match s.takeTileQ t (ctrlCons q.ctrl) with
    | .error u => .fault (.undefined u)
    | .ok (g, s) => f q g s)

/-- Whether D has the form that a finished tile's consumer needs (R227). -/
def tileShape (g : Option Nat) (d : Tens) : Bool := g.isNone || (d.rank ≤ 1 && d.e0 ≤ 128 && d.e1 ≤ 128)

/-- The first source: T, or the tensor that OPB names. -/
def vxFirst (len : Option Nat) (q : QEntry) (g : Option Nat) : Except UB VIn :=
  match g with
  | some g => .ok (.tile g)
  | none => vxSource len q.dB q.eB false

/-- The sources that an instruction reads, by their number (R224, R228). -/
def vxInputs (len : Option Nat) (q : QEntry) (g : Option Nat) (n : Nat) : Except UB (List VIn) :=
  match n with
  | 0 => .ok []
  | 1 =>
    match vxFirst len q g with
    | .error u => .error u
    | .ok a => .ok [a]
  | 2 =>
    match vxFirst len q g, vxSource len q.dC q.eC (ctrlRb q.ctrl) with
    | .error u, _ => .error u
    | _, .error u => .error u
    | .ok a, .ok b => .ok [a, b]
  | _ =>
    match vxFirst len q g, vxSource len q.dC q.eC (ctrlRb q.ctrl), vxSource len q.dD q.eD (ctrlRc q.ctrl) with
    | .error u, _, _ => .error u
    | _, .error u, _ => .error u
    | _, _, .error u => .error u
    | .ok a, .ok b, .ok c => .ok [a, b, c]

/-- Runs a vector instruction that writes one element of D from the values of its sources at the same place. -/
def State.vxMap (s : State) (t : Nat) (q : QEntry) (g : Option Nat) (len : Option Nat) (n : Nat) (rec : List Nat) (rtz : Bool)
    (f : Tens → List (List Val) → List (Res × Bool)) : Ans :=
  match vxOperand len q.dA q.eA, vxInputs len q g n with
  | .error u, _ => .fault (.undefined u)
  | _, .error u => .fault (.undefined u)
  | .ok (d, ded), .ok ins =>
    if tileShape g d = false then ub 28
    else
      match s.vxCheck t true d d ded ins [] rec with
      | some u => .fault (.undefined u)
      | none =>
        let (r, s) := s.look (.unit t .vx) (vxReads ins)
        match r.vxAll t d ins with
        | .error u => .fault (.undefined u)
        | .ok vs => s.vxWrite t q d ded rtz g (vxBooks d ins ++ rec) (f d vs)

/-! ### Element-wise instructions (R233, R236, R237) -/

/-- A result of several operands: the first NaN among them, in the order S1, S2, S3, is carried forward (R84); `r` is the result where none is. -/
def nanFirst (ops : List Val) (r : Val) : Val :=
  match ops.find? Val.isNan with
  | some v => v
  | none => r

/-- The exact value of an element-wise operation, before the multiplication by 2^EXP (R236, R237). -/
def elemRes (op : VxOp) (a b c : Val) : Res :=
  match op with
  | .add => (a.add b).toRes
  | .sub => (a.sub b).toRes
  | .mul => (a.mul b).toRes
  | .mul3 => (nanFirst [a, b, c] ((a.mul b).mul c)).toRes
  | .fma => (nanFirst [a, b, c] ((a.mul b).add c)).toRes
  | .fms => (nanFirst [a, b, c] ((a.mul b).sub c)).toRes
  | .fnma => (nanFirst [a, b, c] (c.sub (a.mul b))).toRes
  | .mas => (nanFirst [a, b, c] ((a.sub b).mul c)).toRes
  | .max => (a.max b).toRes
  | .min => (a.min b).toRes
  | .abs => a.abs.toRes
  | .rcp => a.rcp
  | .rsqrt => a.rsqrt
  | .gt => (if b.lt a then Val.fin false 1 0 else Val.zero).toRes
  | .sel => (if a.isZero then c else b).toRes
  | _ => a.toRes

/-- EXP: IMM6 as a signed exponent (R225). -/
def ctrlExp (c : Nat) : Int := sext 6 (ctrlImm c)

/-- An element-wise instruction in either form (R233, R236, R258). -/
def State.vxElem (s : State) (t : Nat) (q : QEntry) (g : Option Nat) (len : Option Nat) (op : VxOp) : Ans :=
  if op = .fill then
    s.vxMap t q g len 0 [] false (fun d _ => List.replicate d.size ((f32Val (q.sv.truncate 32)).toRes, false))
  else
    s.vxMap t q g len op.sources [] (ctrlRtz q.ctrl) (fun d vs =>
      let at_ (k i : Nat) : Val := (vs.getD k []).getD i Val.zero
      (List.range d.size).map (fun i => ((elemRes op (at_ 0 i) (at_ 1 i) (at_ 2 i)).shift (ctrlExp q.ctrl), false)))

/-- A row of major 0x20. -/
def State.vxElemRow (s : State) (t : Nat) (op : VxOp) : Ans :=
  s.vxIssue t (fun o => o == .vx op) (fun q g s => s.vxElem t q g none op)

def execVxAdd (t : TileId) (s : State) : Ans := s.vxElemRow t.val .add
def execVxSub (t : TileId) (s : State) : Ans := s.vxElemRow t.val .sub
def execVxMul (t : TileId) (s : State) : Ans := s.vxElemRow t.val .mul
def execVxMul3 (t : TileId) (s : State) : Ans := s.vxElemRow t.val .mul3
def execVxFma (t : TileId) (s : State) : Ans := s.vxElemRow t.val .fma
def execVxFms (t : TileId) (s : State) : Ans := s.vxElemRow t.val .fms
def execVxFnma (t : TileId) (s : State) : Ans := s.vxElemRow t.val .fnma
def execVxMas (t : TileId) (s : State) : Ans := s.vxElemRow t.val .mas
def execVxMax (t : TileId) (s : State) : Ans := s.vxElemRow t.val .max
def execVxMin (t : TileId) (s : State) : Ans := s.vxElemRow t.val .min
def execVxAbs (t : TileId) (s : State) : Ans := s.vxElemRow t.val .abs
def execVxCvt (t : TileId) (s : State) : Ans := s.vxElemRow t.val .cvt
def execVxRcp (t : TileId) (s : State) : Ans := s.vxElemRow t.val .rcp
def execVxRsqrt (t : TileId) (s : State) : Ans := s.vxElemRow t.val .rsqrt
def execVxGt (t : TileId) (s : State) : Ans := s.vxElemRow t.val .gt
def execVxSel (t : TileId) (s : State) : Ans := s.vxElemRow t.val .sel
def execVxFill (t : TileId) (s : State) : Ans := s.vxElemRow t.val .fill

/-! ### Reductions (R238-R241) -/

/-- The operation of a reduction (R240). -/
def redOp (imm : Nat) : RedOp :=
  match imm % 8 with
  | 0 => .sum
  | 1 => .max
  | 2 => .min
  | _ => .amax

/-- A leaf: the product that PROD selects, rounded once to FP32, with what that rounding counts; its magnitude under AMAX (R238). -/
def leafOf (imm : Nat) (a b c : Val) : F32 × Count :=
  let p := match imm / 8 % 4 with
    | 0 => a
    | 1 => a.mul b
    | 2 => nanFirst [a, b, c] ((a.mul b).mul c)
    | _ => a.mul a
  let (v, k) := f32RoundC .rne p.toRes
  if redOp imm = .amax then (f32Of (f32Val v).abs, k)
  else (v, k)

/-- The leaves of a reduction in element order. -/
def leaves (imm n : Nat) (vs : List (List Val)) : List (F32 × Count) :=
  let at_ (k i : Nat) : Val := (vs.getD k []).getD i Val.zero
  (List.range n).map (fun i => leafOf imm (at_ 0 i) (at_ 1 i) (at_ 2 i))

/-- Whether any leaf's rounding saturated. -/
def leafSat (l : List (F32 × Count)) : Bool := l.any (fun x => x.2 == .sat)

/-- A folded value entering D's encoding, with whether a rounding of its chain saturated. -/
def redEnd (r : F32 × Nat) (pre : Bool) : Res × Bool := ((f32Val r.1).toRes, pre || r.2 != 0)

/-- The result of one row, added into D's old value under ACC (R240, R241). -/
def rowResult (op : RedOp) (row : List (F32 × Count)) (old : Option F32) : Res × Bool :=
  let (r, n) := reduce op (row.map Prod.fst)
  match old with
  | none => redEnd (r, n) (leafSat row)
  | some o => let (v, k) := op.apply o r; redEnd (v, n + k) (leafSat row)

/-- The result of one column, in order and without a tree (R240, R241). -/
def colResult (op : RedOp) (col : List (F32 × Count)) (old : Option F32) : Res × Bool :=
  let run (a : F32) (l : List F32) : F32 × Nat :=
    l.foldl (fun (r, n) x => let (v, k) := op.apply r x; (v, n + k)) (a, 0)
  let l := col.map Prod.fst
  match old with
  | some o => redEnd (run o l) (leafSat col)
  | none =>
    match l with
    | [] => redEnd (op.ident, 0) false
    | a :: as => redEnd (run a as) (leafSat col)

/-- rrow and rcol (R240, R241). Where S1 has RANK 0, rrow's D has RANK 0 and one element: the spec gives no lower RANK. It states no RANK for rcol's D, so
any RANK whose extents are those of the rule is taken (DESIGN CHOICE, log 51). -/
def State.vxReduce (s : State) (t : Nat) (q : QEntry) (row : Bool) : Ans :=
  let imm := ctrlImm q.ctrl
  let acc := imm / 32 % 2 = 1
  match vxOperand none q.dA q.eA, vxOperand none q.dB q.eB, vxInputs none q none (redSources imm) with
  | .error u, _, _ => .fault (.undefined u)
  | _, .error u, _ => .fault (.undefined u)
  | _, _, .error u => .fault (.undefined u)
  | .ok (d, ded), .ok (x, _), .ok ins =>
    let shape := if row then d.rank == x.rank - 1 && d.exts == [x.e1, x.e2, x.e3, 1] else d.exts == [x.e0, x.e2, x.e3, 1]
    if shape = false ∨ (acc ∧ d.fmt ≠ .fp32) then ub 28
    else
      match s.vxCheck t false x d ded ins [] [] with
      | some u => .fault (.undefined u)
      | none =>
        let (r, s) := s.look (.unit t .vx) (vxReads ins ++ if acc then d.dataAddrs else [])
        match r.vxAll t x ins with
        | .error u => .fault (.undefined u)
        | .ok vs =>
          let l := leaves imm x.size vs
          let olds : List F32 := if acc then d.indices.map (fun i => BitVec.ofNat 32 (r.elemCode (.da (.tile t)) d i)) else []
          let rs := if x.empty then []
            else if row then
              ((chunks x.e0 l).zipIdx).map (fun (r, j) => rowResult (redOp imm) r (olds[j]?))
            else
              (List.range d.size).map (fun j =>
                let i0 := j % x.e0
                let hi := j / x.e0
                let col := (List.range x.e1).map (fun i1 => l.getD (i0 + x.e0 * (i1 + x.e1 * hi)) (0, Count.none))
                colResult (redOp imm) col (olds[j]?))
          s.vxWrite t q d ded false none (vxBooks d ins) rs

/-- scan: reduces all of S1 as one sequence and writes nothing; its counts go to the tile's unattributed tallies (R240, R552). -/
def State.vxScan (s : State) (t : Nat) (q : QEntry) (len : Option Nat) : Ans :=
  let imm := ctrlImm q.ctrl
  match vxOperand len q.dB q.eB, vxInputs len q none (redSources imm) with
  | .error u, _ => .fault (.undefined u)
  | _, .error u => .fault (.undefined u)
  | .ok (x, ed), .ok ins =>
    let none_ : Tens := { x with e0 := 0, place := 0 }
    match s.vxCheck t false x none_ ed ins [] [] with
    | some u => .fault (.undefined u)
    | none =>
      let (r, s) := s.look (.unit t .vx) (vxReads ins)
      match r.vxAll t x ins with
      | .error u => .fault (.undefined u)
      | .ok vs =>
        let l := leaves imm x.size vs
        let c := Counts.of (l.map Prod.snd)
        let c := { c with sat := c.sat + (reduce .sum (l.map Prod.fst)).2 }
        let ws := l.map (fun y => f32Val y.1)
        let dep := summary (ctrlSumk q.ctrl) ws c.nf (c.sat + c.ftz)
        .next ((s.countUnattributed (.tile t) c).vxFlight t q dep none none { Stake.none with recs := vxBooks none_ ins })

def execVxRrow (t : TileId) (s : State) : Ans :=
  s.vxIssue t.val (fun o => o == .vx .rrow) (fun q _ s => s.vxReduce t.val q true)
def execVxRcol (t : TileId) (s : State) : Ans :=
  s.vxIssue t.val (fun o => o == .vx .rcol) (fun q _ s => s.vxReduce t.val q false)
def execVxScan (t : TileId) (s : State) : Ans :=
  s.vxIssue t.val (fun o => o == .vx .scan) (fun q _ s => s.vxScan t.val q none)

/-! ### Data movement (R242) -/

/-- A movement instruction: `shape` gives the rule for its sources' extents, `pick` the value that an element of D takes from the values of the
sources in their own element order. -/
def State.vxMove (s : State) (t : Nat) (q : QEntry) (g : Option Nat) (n : Nat) (shape : Tens → List Tens → Bool)
    (pick : State → Tens → List Tens → List (List Val) → Ix → Val) : Ans :=
  match vxOperand none q.dA q.eA, vxInputs none q g n with
  | .error u, _ => .fault (.undefined u)
  | _, .error u => .fault (.undefined u)
  | .ok (d, ded), .ok ins =>
    let src (v : VIn) : Tens := match v with
      | .mem v => v.t
      | .tile _ => { d with e0 := d.e1, e1 := d.e0 }
    let ts := ins.map src
    if tileShape g d = false ∨ shape d ts = false then ub 28
    else
      match s.vxCheck t false d d ded [] ins [] with
      | some u => .fault (.undefined u)
      | none =>
        let (r, s) := s.look (.unit t .vx) (vxReads ins)
        let vals (v : VIn) : Except UB (List Val) := r.vxValues t (src v) v
        match ins.mapM vals with
        | .error u => .fault (.undefined u)
        | .ok vs => s.vxWrite t q d ded false g (vxBooks d ins) (d.indices.map (fun x => ((pick r d ts vs x).toRes, false)))

/-- The place of an index in a tensor's element order. -/
def Tens.pos (t : Tens) (x : Ix) : Nat := x.i0 + t.e0 * (x.i1 + t.e1 * (x.i2 + t.e2 * x.i3))

/-- The value of source `k` at an index. -/
def pickAt (ts : List Tens) (vs : List (List Val)) (k : Nat) (x : Ix) : Val :=
  match ts[k]? with
  | some t => (vs.getD k []).getD (t.pos x) Val.zero
  | none => Val.zero

def execVxPerm (t : TileId) (s : State) : Ans :=
  s.vxIssue t.val (fun o => o == .vx .perm) (fun q g s =>
    s.vxMove t.val q g 1
      (fun d ts => ts.all (fun x => x.rank == d.rank && x.exts == [d.e1, d.e0, d.e2, d.e3]))
      (fun _ _ ts vs x => pickAt ts vs 0 { x with i0 := x.i1, i1 := x.i0 }))

/-- The 16-bit index that a BF16 carrier holds, from its decoded value: read again from memory (R242). -/
def State.shufIndex (s : State) (t : Nat) (q : QEntry) (x : Ix) : Nat :=
  match vxOperand none q.dC q.eC with
  | .ok (c, _) => s.elemCode (.da (.tile t)) c x
  | .error _ => 0

/-- shuf (R242). An empty S1 has no index in range: every element of D is +0 (DESIGN CHOICE, log 51). -/
def execVxShuf (t : TileId) (s : State) : Ans :=
  s.vxIssue t.val (fun o => o == .vx .shuf) (fun q g s =>
    s.vxMove t.val q g 2
      (fun d ts => match ts with
        | [a, c] => a.rank == d.rank && [a.e1, a.e2, a.e3] == [d.e1, d.e2, d.e3] && c.rank == d.rank && c.exts == d.exts && c.fmt == .bf16
        | _ => false)
      (fun r _ ts vs x =>
        let j := r.shufIndex t.val q x
        match ts with
        | a :: _ => if a.e0 ≤ j then Val.zero else pickAt ts vs 0 { x with i0 := j }
        | [] => Val.zero))

def execVxPack (t : TileId) (s : State) : Ans :=
  s.vxIssue t.val (fun o => o == .vx .pack) (fun q g s =>
    s.vxMove t.val q g 2
      (fun d ts => ts.all (fun x => x.rank == d.rank && 2 * x.e0 == d.e0 && [x.e1, x.e2, x.e3] == [d.e1, d.e2, d.e3]))
      (fun _ _ ts vs x => pickAt ts vs (x.i0 % 2) { x with i0 := x.i0 / 2 }))

def execVxUnpack (t : TileId) (s : State) : Ans :=
  s.vxIssue t.val (fun o => o == .vx .unpack) (fun q g s =>
    s.vxMove t.val q g 1
      (fun d ts => ts.all (fun x => x.rank == d.rank && x.e0 == 2 * d.e0 && [x.e1, x.e2, x.e3] == [d.e1, d.e2, d.e3]))
      (fun _ _ ts vs x => pickAt ts vs 0 { x with i0 := 2 * x.i0 + ctrlImm q.ctrl % 2 }))

/-! ### Rescale and drain (R105-R107, R243) -/

/-- Whether an instruction's D is empty: then no record is read (R74). -/
def vxEmpty (q : QEntry) : Bool :=
  match vxOperand none q.dA q.eA with
  | .ok (d, _) => d.empty
  | .error _ => false

/-- The addresses of a record. -/
def recBytes (da n : Nat) : List Nat := (List.range n).map (fun k => (da + k) % 2 ^ 48)

/-- vx.rescale: v = a × M × 2^-S by the record that OPC describes, encoded once (R105-R107). -/
def execVxRescale (t : TileId) (s : State) : Ans :=
  let t := t.val
  s.vxIssue t (fun o => o == .vx .rescale) (fun q g s =>
    let r := descBase q.dC
    if descPlain q.dC = false then ub 1
    else if r % 16 ≠ 0 ∨ inTileStore t r 528 = false then ub 14
    else if vxEmpty q = false ∧ (64 ≤ s.byte (r + 0x200) ∨ 2 ≤ s.byte (r + 0x201) ∨ (s.bytes (r + 0x202) 14).any (· ≠ 0)) then ub 1
    else
      let sh : Int := s.byte (r + 0x200)
      let per := s.byte (r + 0x201) = 1
      s.vxMap t q g none 1 (if vxEmpty q then [] else recBytes r 528) false (fun d vs =>
        (d.indices.zip (vs.headD [])).map (fun (x, a) =>
          let m := sext 32 (s.le (r + 4 * (if per then 0 else x.i0)) 4)
          (((a.mul (.fin (m < 0) m.natAbs 0)).toRes).shift (-sh), false))))

/-- vx.drain: takes the head and frees it without reading it (R227, R243). -/
def execVxDrain (t : TileId) (s : State) : Ans :=
  s.vxIssue t.val (fun o => o == .vx .drain) (fun q g s =>
    .next (s.vxFlight t.val q (summary (ctrlSumk q.ctrl) [] 0 0) g none Stake.none))

/-! ### Function tables (R246-R252) -/

/-- Reads a table record, or names the undefined case that it is (R246, R247). -/
def tableOf (b : List Nat) : Except UB FTable :=
  let w (o : Nat) : Nat := leVal ((b.drop o).take 4)
  let fin (o : Nat) : Bool := !f32NonFinite (BitVec.ofNat 32 (w o))
  let wexp := sext 8 (b.getD 4 0)
  let m := b.getD 5 0
  let coef := (List.range 256).map (fun i => (w (64 + 12 * i), w (68 + 12 * i), w (72 + 12 * i)))
  if fin 0 && fin 8 && fin 12 && (List.range 768).all (fun i => fin (64 + 4 * i)) && -24 ≤ wexp && wexp ≤ 24 && m < 16
      && m % 4 != 3 && m / 4 != 3 && b.getD 6 0 == 1 && b.getD 7 0 == 0 && ((b.drop 20).take 44).all (· == 0) then
    .ok ⟨true, w 0, wexp, m % 4, m / 4, w 8, w 12, w 16, coef⟩
  else .error (.ub 29)

/-- vx.ftld: reads the record once; the table takes its content at completion (R248). -/
def execVxFtld (t : TileId) (s : State) : Ans :=
  let t := t.val
  s.vxIssue t (fun o => o == .vx .ftld) (fun q _ s =>
    let r := descBase q.dB
    if descPlain q.dB = false then ub 1
    else if r % 16 ≠ 0 ∨ inTileStore t r 3136 = false then ub 31
    else
      if s.recRaced (.unit t .vx) (recBytes r 3136) = true then ub 13 else
      let b := s.bytes r 3136
      match tableOf b with
      | .error u => .fault (.undefined u)
      | .ok _ => .next (s.vxFlight t q (summary (ctrlSumk q.ctrl) [] 0 0) none (some (ctrlImm q.ctrl % 2 = 1, b)) { Stake.none with recs := recBytes r 3136 }))

/-- The floor of a value that is not below zero. -/
def valFloor : Val → Nat
  | .fin _ m e => if 0 ≤ e then m * 2 ^ e.toNat else m / 2 ^ (-e).toNat
  | _ => 0

/-- The value of a segment at `f`: the rounding of f, the exact polynomial, one rounding; with whether one of them saturated (R249). -/
def tablePoly (T : FTable) (i : Nat) (f : Val) : F32 × Bool :=
  let (c0, c1, c2) := T.coef.getD i (0, 0, 0)
  let v (c : Nat) : Val := f32Val (BitVec.ofNat 32 c)
  let (fr, k1) := f32RoundC .rne f.toRes
  let x := f32Val fr
  let (y, k2) := f32RoundC .rne (((v c0).add ((v c1).mul x)).add (((v c2).mul x).mul x)).toRes
  (y, k1 == .sat || k2 == .sat)

/-- A table at the exact input `x` (R249), with whether a rounding saturated. -/
def tableAt (T : FTable) (x : Val) : F32 × Bool :=
  let outside (mode const i : Nat) (f : Val) : F32 × Bool :=
    if mode = 1 then (BitVec.ofNat 32 const, false)
    else if mode = 2 then
      let (y, k) := f32RoundC .rne x.toRes
      (y, k == .sat)
    else if x.isInf then (f32Nan false, false)
    else tablePoly T i f
  match x with
  | .nan n => (f32Nan n, false)
  | x =>
    let u := (x.sub (f32Val (BitVec.ofNat 32 T.lo))).shift (-T.wexp)
    if u.lt Val.zero then outside T.below T.vbelow 0 u
    else if u.lt (.fin false 256 0) then
      let i := valFloor u
      tablePoly T i (u.sub (.fin false i 0))
    else outside T.above T.vabove 255 (u.sub (.fin false 255 0))

/-- vx.fn: the value table at S1, or at S1 - S2 (R250). -/
def execVxFn (t : TileId) (s : State) : Ans :=
  s.vxIssue t.val (fun o => o == .vx .fn) (fun q g s =>
    let two := ctrlImm q.ctrl / 32 = 1
    let T := (s.tile t.val).vt
    s.vxMap t.val q g none (if two then 2 else 1) [] false (fun d vs =>
      (List.range d.size).map (fun i =>
        let a := (vs.getD 0 []).getD i Val.zero
        let b := (vs.getD 1 []).getD i Val.zero
        let (y, k) := tableAt T (if two then a.sub b else a)
        ((f32Val y).toRes, k))))

/-- vx.fnd: S2 times the derivative table at S1 (R251). -/
def execVxFnd (t : TileId) (s : State) : Ans :=
  s.vxIssue t.val (fun o => o == .vx .fnd) (fun q g s =>
    let T := (s.tile t.val).dt
    s.vxMap t.val q g none 2 [] false (fun d vs =>
      (List.range d.size).map (fun i =>
        let a := (vs.getD 0 []).getD i Val.zero
        let b := (vs.getD 1 []).getD i Val.zero
        let (y, k) := tableAt T a
        ((nanFirst [a, b] (b.mul (f32Val y))).toRes, k))))

/-! ### Drop-out (R254-R257) -/

/-- One round of the generator (R256). -/
def dropRound (r : Nat) (x : BitVec 32 × BitVec 32 × BitVec 32 × BitVec 32) : BitVec 32 × BitVec 32 × BitVec 32 × BitVec 32 :=
  let (x0, x1, x2, x3) := x
  let a := [16, 12, 8, 7].getD (r % 4) 0
  let b := [12, 8, 7, 16].getD (r % 4) 0
  let x0 := x0 + x1
  let x1 := x1.rotateLeft a ^^^ x0
  let x2 := x2 + x3
  let x3 := x3.rotateLeft b ^^^ x2
  (x0, x3, x2, x1)

/-- The generator of R256 on counter and key words. -/
def dropGen (c k : List Nat) : List Nat :=
  let w (l : List Nat) (i : Nat) : BitVec 32 := BitVec.ofNat 32 (l.getD i 0)
  let (x0, x1, x2, x3) := (List.range 10).foldl (fun x r => dropRound r x) (w c 0 + w k 0, w c 1 + w k 1, w c 2 + w k 2, w c 3 + w k 3)
  [(x0 + w k 0).toNat, (x1 + w k 1).toNat, (x2 + w k 2).toNat, (x3 + w k 3).toNat]

/-- The random word of element index `n` (R255). -/
def dropWord (seed layer step n : Nat) : Nat :=
  let g := n / 4
  (dropGen [g % 2 ^ 32, g / 2 ^ 32 % 2 ^ 14, step % 2 ^ 32, step / 2 ^ 32] [seed % 2 ^ 32, seed / 2 ^ 32, layer, 0x9E3779B9]).getD (n % 4) 0

/-- The index of an element of D (R255). -/
def dropIndex (d : Tens) (base rowstep : Nat) (x : Ix) : Nat :=
  let r := if rowstep = 0 then d.e0 else rowstep
  (base + x.i0 + r * (x.i1 + d.e1 * (x.i2 + d.e2 * x.i3))) % 2 ^ 48

/-- vx.drop (R254-R257). -/
def execVxDrop (t : TileId) (s : State) : Ans :=
  let t := t.val
  s.vxIssue t (fun o => o == .vx .drop) (fun q g s =>
    let r := descBase q.dC
    if descPlain q.dC = false then ub 1
    else if r % 32 ≠ 0 ∨ inTileStore t r 32 = false then ub 31
    else if vxEmpty q = false ∧ s.le (r + 22) 2 ≠ 0 then ub 1
    else
      let seed := s.le r 8
      let layer := s.le (r + 8) 4
      let thresh := s.le (r + 12) 4
      let step := s.le (r + 16) 6
      let keep := f32Val (BitVec.ofNat 32 (s.le (r + 24) 4))
      let rs := s.le (r + 28) 4
      s.vxMap t q g none 1 (if vxEmpty q then [] else recBytes r 32) false (fun d vs =>
        (d.indices.zip (vs.headD [])).map (fun (x, a) =>
          let kept := decide (thresh ≤ dropWord seed layer step (dropIndex d q.sv.toNat rs x))
          (((a.mul (if kept then keep else Val.zero)).toRes).shift (ctrlExp q.ctrl), false))))

/-! ### The length form and completion (R206, R258) -/

/-- A length-form instruction (R258): an element-wise minor, or scan. -/
def execVxLengthForm (t : TileId) (s : State) : Ans :=
  s.vxIssue t.val (fun o => match o with
    | .vxl _ => true
    | _ => false) (fun q g s =>
    match q.op with
    | .vxl .scan => s.vxScan t.val q (some q.vl)
    | .vxl op => s.vxElem t.val q g (some q.vl) op
    | _ => .next s)

/-- The running vector instruction completes: a consumed tile becomes FREE, a loaded table takes its content, the summary is deposited and the token
rises (R206, R235, R245, R248). -/
def execVectorCompletion (t : TileId) (s : State) : Ans :=
  if s.gated t.val then .next s else
  let t := t.val
  let x := s.tile t
  match takeFlight (fun f => f.queue == .vx) x.flights with
  | none => .next s
  | some (f, rest) =>
    let x := { x with flights := rest }
    let x := match f.work with
      | .vector (some g) _ => x.setGroup g { x.group g with st := .free }
      | _ => x
    let x := match f.work with
      | .vector _ (some (der, b)) =>
        match tableOf b with
        | .ok T => if der then { x with dt := T } else { x with vt := T }
        | .error _ => x
      | _ => x
    .next ((s.setTile t x).complete t f)

end Sys2Proof.Machine
end

