-- ==== Sys2Proof/Machine/Ledger.lean ====
section
/-!
DEFINITION. The layer ledger (R313-R332), the global norm check (R309, R310), the run record (R330) and the arithmetic of the replica digests
(R333).
-/
namespace Sys2Proof.Machine

/-! ### The global norm check -/

/-- An FP32 word of a register or record. -/
def f32w (n : Nat) : F32 := BitVec.ofNat 32 n

/-- The number of the current inner step. -/
def State.stepNo (s : State) : Nat := s.rf .ledStep [] 0 48

/-- Verdict code, norm N and factor F of a sum of squares (R309). -/
def normVerdict (sumsq absurd clip : F32) : Nat × F32 × F32 :=
  let v := f32Val sumsq
  if !v.isFin || v.lt Val.zero then (2, f32Nan false, 0)
  else
    let n := f32Round v.abs.sqrt
    if !(f32Val absurd).isZero && f32Lt absurd n then (3, n, 0)
    else if !(f32Val clip).isZero && f32Lt clip n then (1, n, f32Round ((f32Val clip).div (f32Val n)))
    else (0, n, 0x3F800000)

/-- A write of LED.NORM.SUMSQ evaluates the norm verdict (R309, R310, R331). -/
def State.normCheck (s : State) (sumsq : Nat) : State :=
  let (k, n, f) := normVerdict (f32w sumsq) (f32w (s.rf .ledNormTh [] 32 32)) (f32w (s.rf .ledNormTh [] 0 32))
  let skip := 2 ≤ k
  let old := s.flag .ledNorm [] 62
  let s := s.setReg .ledNorm [] (2 ^ 63 + bit (old || skip) * 2 ^ 62 + k * 2 ^ 60)
  let s := s.setReg .ledNormOut [] (f.toNat * 2 ^ 32 + n.toNat)
  if skip then s.raise 0x0308 k 0 0 s.stepNo sumsq else s

/-! ### The run record -/

/-- The z-score of a loss (R330). -/
def lossZ (d var : Val) : Res :=
  if d.isZero then .fin false ⟨0, 1, false⟩
  else if var.isZero then .inf d.sign
  else
    match d, var.sqrt with
    | .fin n m e, .fin _ r =>
      let x := Mag.dyadic (m * m) (2 * e)
      .fin n ⟨x.num * r.den, x.den * r.num, true⟩
    | _, _ => .nan false

/-- Whether an exact result lies above an FP32 threshold. -/
def resAbove (r : Res) (th : Val) : Bool :=
  match r, th with
  | .inf n, .fin _ _ _ => !n
  | .inf n, .inf k => !n && k
  | .fin n x, .fin k m e =>
    if x.num = 0 then k && m != 0
    else if m = 0 then !n
    else if n != k then k
    else if n then x.cmp m e == .lt else x.cmp m e == .gt
  | .fin _ _, .inf k => k
  | _, _ => false

/-- A write of the loss (R330). -/
def State.runLoss (s : State) (x : Nat) : State :=
  let v := f32Val (f32w x)
  let count := s.rf .ledRunStatus [] 0 32
  if !v.isFin then s.raise 0x0307 0 0 0 s.stepNo 0
  else if count = 0 then (s.setReg .ledRunStats [] x).setRf .ledRunStatus [] 0 32 1
  else
    let mean := f32Val (f32w (s.rf .ledRunStats [] 0 32))
    let var := f32Val (f32w (s.rf .ledRunStats [] 32 32))
    let sh : Int := s.rf .ledRunCtrl [] 0 4
    let d := v.sub mean
    let z := lossZ d var
    let z32 := f32Round z
    let zth := f32w (s.rf .ledRunCtrl [] 32 32)
    let spike := !(f32Val zth).isZero && s.rf .ledRunCtrl [] 16 16 ≤ count && resAbove z (f32Val zth)
    let mean' := f32Of (mean.add (d.shift (-sh)))
    let grow := var.add ((d.mul d).shift (-sh))
    let var' := f32Of (grow.sub (grow.shift (-sh)))
    let s := if spike then s.raise 0x0306 0 0 0 s.stepNo (x + z32.toNat * 2 ^ 32) else s
    let s := s.setReg .ledRunStats [] (var'.toNat * 2 ^ 32 + mean'.toNat)
    s.setReg .ledRunStatus [] (z32.toNat * 2 ^ 32 + min 0xFFFFFFFF (count + 1))

/-- A write of 1 to RUN_CTRL.CLEAR (R330). -/
def State.runClear (s : State) : State := (s.setReg .ledRunStats [] 0).setReg .ledRunStatus [] 0

/-! ### Initialisation (R318) -/

/-- The first word of an entry after initialisation: DELAYED 1, DFMT E4M3, ALPHA_SH 4, ZSTREAK_TH 64 (R318). -/
def initWord : Nat := 64 * 2 ^ 44 + 4 * 2 ^ 40 + 3 * 2 ^ 32 + 2

/-- Writes one entry as R318 says. -/
def State.initEntry (s : State) (n : Nat) : State := s.pokes .unit (s.entryAddr n) (leBytes 8 initWord ++ List.replicate 248 0)

/-- A write of LED.INIT with START, the register already holding the FIRST and COUNT of the same write (R318). -/
def State.ledgerInit (s : State) : Ans :=
  let first := s.rf .ledInit [] 0 12
  let count := s.rf .ledInit [] 12 13
  if count = 0 ∨ 4096 < first + count ∨ s.flag .ledInit [] 62 = true then .next (s.setRf .ledInit [] 61 1 1)
  else
    let ns := (List.range count).map (first + ·)
    if ns.any (fun n => fld (s.entryLe n 0 8) 0 1 == 1) then ub 41
    else if s.wrHeld .unit (ns.map s.entryAddr) then .next ({ s with initHeld := some (first, count) }.setRf .ledInit [] 62 1 1)
    else .next ((ns.foldl State.initEntry s).setRf .ledInit [] 62 1 1)

/-- Initialisation ends (R318); one that was held begins first, once nothing holds it (R509, R519). -/
def execLedgerInitComplete (s : State) : Ans :=
  match s.initHeld with
  | none => .next (s.setRf .ledInit [] 62 1 0)
  | some (first, count) =>
    let ns := (List.range count).map (first + ·)
    if s.wrHeld .unit (ns.map s.entryAddr) then .next s
    else .next ((ns.foldl State.initEntry { s with initHeld := none }).setRf .ledInit [] 62 1 0)

/-! ### The step close (R323-R329) -/

/-- The values of an entry at the end of a step, that its close works on (R323). -/
structure Closing where
  cfg : Nat
  st : Nat
  amax : Nat
  sat : Nat
  ftz : Nat
  nf : Nat
  wcount : Nat
  nz : Nat
  sq : Nat
  hist : List Nat
  deriving DecidableEq, Repr

/-- Reads an entry for its close. -/
def State.closing (s : State) (n : Nat) : Closing :=
  { cfg := s.entryLe n 0 8, st := s.entryLe n 0xC0 8, amax := s.entryLe n 0x40 4, sat := s.entryLe n 0x44 4
    ftz := s.entryLe n 0x48 4, nf := s.entryLe n 0x4C 4, wcount := s.entryLe n 0x50 8, nz := s.entryLe n 0x58 8
    sq := s.entryLe n 0x60 16, hist := (List.range 16).map (fun h => s.entryLe n (0x80 + 4 * h) 4) }

/-- ROLE of an entry. -/
def Closing.role (c : Closing) : Nat := fld c.cfg 28 4

/-- LR_EXP and HIST_CNT in a state word. -/
def lrExp (st : Nat) : Int := sext 8 (fld st 8 8)
def histCnt (st : Nat) : Nat := fld st 16 5

/-- A signed value clamped into a range. -/
def clampInt (lo hi x : Int) : Int := max lo (min hi x)

/-- A signed value as a field of 8 bits. -/
def byteOf (x : Int) : Nat := (x % 256).toNat

/-- Step 1: one tally takes its step count; the flag says that it saturated (R323). -/
def addTally (old step : Nat) : Nat × Bool := (min 0xFFFFFFFF (old + step), 0xFFFFFFFF < old + step || step == 0xFFFFFFFF)

/-- Step 1 of a close: the tallies, TSAT and the scale-miss flag (R323). -/
def State.closeTallies (s : State) (n step : Nat) (c : Closing) : State :=
  let one (s : State) (k : Nat × Nat) : State :=
    let (v, sat) := addTally (s.entryLe n (0xD0 + 4 * k.1) 4) k.2
    let s := s.setEntry n (0xD0 + 4 * k.1) 4 v
    if sat then (s.setEntry n 0xDC 4 (s.entryLe n 0xDC 4 ||| 2 ^ k.1)).raise 0x0302 k.1 9 n 0 0 else s
  let s := [(0, c.sat), (1, c.ftz), (2, c.nf)].foldl one s
  let th := s.entryLe n 0x10 4
  let miss := th != 0 && th ≤ c.sat + c.ftz
  let s := s.setEntry n 0xC0 8 (setBits (s.entryLe n 0xC0 8) 26 1 (bit miss))
  if miss then s.raise 0x0301 0 9 n step (c.sat + c.ftz * 2 ^ 32) else s

/-- Step 2: the history after a close, and the state word with HIST_CNT and HVALID (R323). -/
def closeHist (c : Closing) (st : Nat) : List Nat × Nat :=
  if c.wcount = 0 then (c.hist, st)
  else
    let a := if c.role = 3 then (f32Up ((f32Mag (f32w c.amax)).shift (-(lrExp c.st)))).toNat else c.amax
    let cnt := min 16 (histCnt st + 1)
    (a :: c.hist.take 15, setBits (setBits st 16 5 cnt) 21 1 (bit (cnt == 16)))

/-- The largest of the first `n` history values. -/
def histMax (h : List Nat) (n : Nat) : Nat := (h.take n).foldl max 0

/-- Step 3: CUR_T under delayed scaling (R326). -/
def closeScale (c : Closing) (h : List Nat) (st : Nat) : Nat :=
  match Fmt.ofCode (fld c.cfg 32 4) with
  | some f =>
    let ah := histMax h 16
    if fld c.cfg 1 1 = 1 ∧ fld st 21 1 = 1 ∧ c.role ≠ 3 ∧ f.tensorScaled = true ∧ 0 < ah then
      let k := ((f32Mag (f32w ah)).divDy (fitMax f [])).ceilLog2 + fld c.cfg 36 4
      setBits st 0 8 (byteOf (clampInt (-127) 127 k))
    else st
  | none => st

/-- Step 4: the new LR_EXP (R323). -/
def closeLr (c : Closing) (h : List Nat) (st : Nat) : Nat :=
  let ah := histMax h (histCnt st)
  if c.role ≠ 3 ∨ histCnt st = 0 ∨ ah = 0 then st
  else setBits st 8 8 (byteOf (clampInt (-32) 31 (-(f32Mag (f32w ah)).ceilLog2)))

/-- The update-to-weight ratio (R328). -/
def updateRatio (u w : Closing) : F32 :=
  f32Round ((Res.fin false ⟨u.sq * w.wcount, u.wcount * w.sq, true⟩).shift (-(lrExp u.st)))

/-- The ratio part of step 4 (R328, R329): RATIO_LAST, RATIO_EMA, RATIO_LOW and RATIO_HIGH. -/
def State.closeRatio (s s0 : State) (n step : Nat) (c : Closing) : State :=
  let pair := fld c.cfg 52 12
  let w := s0.closing pair
  if c.role = 3 ∧ fld w.cfg 0 1 = 1 ∧ 0 < c.wcount ∧ 0 < w.wcount ∧ 0 < w.sq then
    let r := updateRatio c w
    let st := s.entryLe n 0xC0 8
    let old := f32w (s.entryLe n 0xC8 4)
    let ema := if fld st 22 1 = 0 then r
      else f32Of ((f32Val old).add (((f32Val r).sub (f32Val old)).shift (-(fld c.cfg 40 4 : Nat))))
    let lo := f32w (s.entryLe n 0x08 4)
    let hi := f32w (s.entryLe n 0x0C 4)
    let below := !(f32Val lo).isZero && f32Lt ema lo
    let above := !(f32Val hi).isZero && f32Lt hi ema
    let lowOn := fld st 23 1 == 1
    let highOn := fld st 24 1 == 1
    let low := below || (lowOn && !f32Ge ema lo)
    let high := above || (highOn && !f32Ge hi ema)
    let st := setBits (setBits (setBits st 22 1 1) 23 1 (bit low)) 24 1 (bit high)
    let s := ((s.setEntry n 0xC0 8 st).setEntry n 0xC8 4 ema.toNat).setEntry n 0xCC 4 r.toNat
    let s := if below && !lowOn then s.raise 0x0304 0 9 n step ema.toNat else s
    if above && !highOn then s.raise 0x0305 0 9 n step ema.toNat else s
  else s

/-- Step 5: the zero-gradient streak (R327). -/
def State.closeStreak (s : State) (n step : Nat) (c : Closing) : State :=
  if c.role = 2 ∧ 0 < c.wcount then
    let st := s.entryLe n 0xC0 8
    let z := if c.nz = 0 then min 65535 (fld st 32 16 + 1) else 0
    let on := c.nz = 0 && fld st 25 1 == 1
    let th := fld c.cfg 44 8
    let fire := th != 0 && th ≤ z && !on
    let s := s.setEntry n 0xC0 8 (setBits (setBits st 32 16 z) 25 1 (bit (on || fire)))
    if fire then s.raise 0x0303 0 9 n step z else s
  else s

/-- Closes one entry, its values and its pair's taken from `s0`, the state at the step's end (R323). -/
def State.closeEntry (s0 : State) (step : Nat) (s : State) (n : Nat) : State :=
  let c := s0.closing n
  if fld c.cfg 0 1 = 0 then s
  else
    let s := s.closeTallies n step c
    let (h, st) := closeHist c (s.entryLe n 0xC0 8)
    let s := (h.zipIdx).foldl (fun s (v, k) => s.setEntry n (0x80 + 4 * k) 4 v) s
    let s := s.setEntry n 0xC0 8 (closeScale c h st)
    let s := s.closeRatio s0 n step c
    let s := s.setEntry n 0xC0 8 (closeLr c h (s.entryLe n 0xC0 8))
    let s := s.closeStreak n step c
    let s := s.pokes .unit (s.entryAddr n + 0x40) (List.replicate 64 0)
    s.setEntry n 0xE0 6 step

/-- The numbers of the ledger's entries. -/
def allEntries : List Nat := List.range 4096

/-- The step close of every active entry at an inner-step resolution (R323); BUSY holds until it ends (R324). While the ledger's stacks cannot be reached
it waits (R509, R519). -/
def State.stepClose (s : State) (step : Nat) : State :=
  if s.flag .ledBase [] 63 then
    if s.entriesHeld allEntries then { s.setRf .ledClose [] 63 1 1 with closeStep := step, closeHeld := true }
    else { (allEntries.foldl (State.closeEntry s step) s).setRf .ledClose [] 63 1 1 with closeStep := step }
  else s

/-- The step close ends (R324): LAST is the step that it closed. -/
def execStepCloseComplete (s : State) : Ans :=
  if s.flag .ledClose [] 63 then
    if s.closeHeld && s.entriesHeld allEntries then .next s
    else
      let s := if s.closeHeld then allEntries.foldl (State.closeEntry s s.closeStep) { s with closeHeld := false } else s
      .next ((s.setRf .ledClose [] 63 1 0).setRf .ledClose [] 0 48 s.closeStep)
  else .next s

/-! ### Digests (R333, R369) -/

/-- The prime of the digests. -/
def digestP : Nat := 2 ^ 127 - 1

/-- Modular power by squaring; the fuel bounds the exponent's bits. -/
def powModGo (p : Nat) : Nat → Nat → Nat → Nat → Nat
  | 0, _, _, acc => acc
  | k + 1, b, e, acc => powModGo p k (b * b % p) (e / 2) (if e % 2 = 1 then acc * b % p else acc)

def powMod (b e p : Nat) : Nat := powModGo p 64 (b % p) e (1 % p)

/-- The digest key K. -/
def State.digestKey (s : State) : Nat := s.reg .ledDigestKeyHi [] * 2 ^ 64 + s.reg .ledDigestKeyLo []

/-- Whether the digest key lies outside 2 to p - 2 (R334). -/
def State.keyBad (s : State) : Bool := s.digestKey < 2 || digestP - 2 < s.digestKey

/-- The term of a 64-byte chunk at a chunk index (R333). -/
def digestTerm (key j : Nat) (bytes : List Nat) : Nat :=
  ((List.range 8).map (fun i =>
    (leVal ((bytes.drop (8 * i)).take 8) + 1) * powMod key (8 * j + i + 1) digestP)).sum % digestP

/-- The value of a digest slot. -/
def State.digestSlot (s : State) (n : Nat) : Nat := s.reg .drvDigestHi [n] * 2 ^ 64 + s.reg .drvDigestLo [n]

/-- Replaces the value of a digest slot. -/
def State.setDigestSlot (s : State) (n v : Nat) : State :=
  (s.setReg .drvDigestLo [n] (v % 2 ^ 64)).setReg .drvDigestHi [n] (v / 2 ^ 64)

/-- Adds a term to a digest slot (R278). -/
def State.digestAdd (s : State) (n term : Nat) : State := s.setDigestSlot n ((s.digestSlot n + term) % digestP)

end Sys2Proof.Machine
end

