-- ==== Sys2Proof/Machine/Fold.lean ====
section
/-!
DEFINITION. The fold area and its arithmetic (R393-R406): segments and blocks, shearing and block records, the fold apply, the rounds open for
input.
-/
namespace Sys2Proof.Machine

/-! ### Registers -/

/-- L, SHEAR, SITE and the current round. -/
def State.farLag (s : State) : Nat := s.rf .farCfg [] 53 3
def State.farShear (s : State) : Nat := s.rf .farCfg [] 49 4
def State.farSite (s : State) : Nat := s.rf .farCfg [] 56 6
def State.farRoundNo (s : State) : Nat := s.rf .farRound [] 0 32
def State.farFirst (s : State) : Nat := s.rf .farRound [] 32 32
def State.fpar (s : State) : Nat := s.rf .farStatus [] 6 1
def State.joining (s : State) : Bool := s.flag .farStatus [] 7
def State.setPhase (s : State) (p : Nat) : State := s.setRf .farStatus [] 0 2 p

/-- Round numbers are compared serially (R387). -/
def roundBefore (a b : Nat) : Bool := serialBefore 32 a b
def roundSub (a b : Nat) : Nat := (a + 2 ^ 32 - b % 2 ^ 32) % 2 ^ 32

/-- A far tally (R431). -/
def State.farCount (s : State) (t n : Nat) : State := s.tallyAdd (regOff .farTally [t]) n

/-! ### Geometry (R393, R394, R399, R302) -/

/-- A segment record. -/
structure Seg where
  ledger : Nat
  master : Nat
  comp : Option Nat
  elems : Nat
  deriving DecidableEq, Repr

/-- The segment table. -/
def State.segs (s : State) : List Seg :=
  (List.range (s.rf .farSeg [] 51 13)).map (fun i =>
    let a := s.rf .farSeg [] 6 42 * 64 + 32 * i
    let c := s.peekLe .unit (a + 8) 4
    ⟨s.peekLe .unit a 2, s.peekLe .unit (a + 4) 4, if c = 0xFFFFFFFF then none else some c, s.peekLe .unit (a + 12) 4⟩)

/-- Whether a reserved byte of the segment table is not 0 (R8). -/
def State.segsReserved (s : State) : Bool :=
  (List.range (s.rf .farSeg [] 51 13)).any (fun i =>
    let a := s.rf .farSeg [] 6 42 * 64 + 32 * i
    s.peekLe .unit (a + 2) 2 != 0 || s.peekLe .unit (a + 16) 16 != 0)

/-- A block: its segment, its first element in the segment and in the shard, its length, and its record's offset and kept count. -/
structure Blk where
  seg : Seg
  first : Nat
  pos : Nat
  n : Nat
  off : Nat
  k : Nat
  deriving DecidableEq, Repr

/-- Bytes of a record with `k` kept elements (R399). -/
def recSize (k : Nat) : Nat := (8 + 3 * ((k + 1) / 2) + k + 15) / 16 * 16

/-- The kept count of a block of `n` elements (R397). -/
def keepCount (shear n : Nat) : Nat := (n + 2 ^ shear - 1) / 2 ^ shear

/-- The blocks of a shard, in order (R393). -/
def blocksOf (shear : Nat) (segs : List Seg) : List Blk :=
  (segs.foldl (fun (acc : List Blk × Nat × Nat) g =>
    (List.range ((g.elems + 4095) / 4096)).foldl (fun (acc : List Blk × Nat × Nat) j =>
      let n := min 4096 (g.elems - 4096 * j)
      let k := keepCount shear n
      (acc.1 ++ [⟨g, 4096 * j, acc.2.1, n, acc.2.2, k⟩], acc.2.1 + n, acc.2.2 + recSize k)) acc) ([], 0, 0)).1

def State.blocks (s : State) : List Blk := blocksOf s.farShear s.segs

/-- The fold area's measures. -/
structure Area where
  base : Nat
  e : Nat
  rs : Nat
  nb : Nat
  lag : Nat
  npart : Nat
  slots : Nat
  deriving DecidableEq, Repr

/-- A size rounded up to 4 KiB. -/
def up4k (x : Nat) : Nat := (x + 4095) / 4096 * 4096

def State.area (s : State) : Area :=
  let bl := s.blocks
  { base := s.rf .farArea [] 12 36 * 4096, e := (s.segs.map (·.elems)).sum, rs := (bl.map (fun b => recSize b.k)).sum, nb := bl.length
    lag := s.farLag, npart := s.rf .farCfg [] 37 6, slots := s.rf .farCfg [] 43 6 }

/-- The parts of the area, one after the other (R394). -/
def Area.ve (a : Area) : Nat := up4k (4 * a.e)
def Area.g (a : Area) (p : Nat) : Nat := a.base + p * a.ve
def Area.mom (a : Area) (p : Nat) : Nat := a.base + (2 + p) * a.ve
def Area.bas (a : Area) : Nat := a.base + 4 * a.ve
def Area.resid (a : Area) : Nat := a.base + 5 * a.ve
def Area.dlt (a : Area) (r : Nat) : Nat := a.base + (6 + r % (a.lag + 1)) * a.ve
def Area.own (a : Area) (r : Nat) : Nat := a.base + (7 + a.lag) * a.ve + r % (a.lag + 1) * up4k a.rs
def Area.recvSize (a : Area) : Nat := 2 * up4k a.rs + up4k (2 * a.nb)
def Area.recv (a : Area) (r p : Nat) : Nat :=
  a.base + (7 + a.lag) * a.ve + (a.lag + 1) * up4k a.rs + (r % (a.lag + 1) * a.npart + p) * a.recvSize
def Area.late (a : Area) (r p : Nat) : Nat := a.recv r p + up4k a.rs
def Area.map (a : Area) (r p : Nat) : Nat := a.recv r p + 2 * up4k a.rs
def Area.span (a : Area) (i : Nat) : Nat :=
  a.base + (7 + a.lag) * a.ve + (a.lag + 1) * up4k a.rs + (a.lag + 1) * a.npart * a.recvSize + i * a.ve
def Area.size (a : Area) : Nat := a.span a.slots - a.base

/-- The masters and the compensation words of a segment within a ring slot, each as its first address and length. -/
def State.segRanges (s : State) (g : Seg) : List (Nat × Nat) :=
  ([g.master] ++ g.comp.toList).map (fun o => (s.ringSlot g.ledger 0 + o, 4 * g.elems))

/-- Whether the fold area or the segment table lies outside mapped HBM or overlaps an area of the ledger or the far buffer, or the segments overlap one
another (R395). Segments are held to one another by their masters and compensation words in ring slot 0 (DEDUCED: log 23). -/
def State.foldBad (s : State) : Bool :=
  let own := [(s.area.base, s.area.size), (s.rf .farSeg [] 6 42 * 64, 32 * s.rf .farSeg [] 51 13)]
  own.any (fun r => !s.rangeMapped r.1 r.2 || overlaps r s.fbufRange)
    || (s.flag .ledBase [] 63 && own.any (fun r => overlaps r (s.rf .ledBase [] 20 28 * 2 ^ 20, 2 ^ 20) || (s.activeEntries.flatMap s.entryAreas).any (overlaps r)))
    || anyOverlap (s.segs.flatMap s.segRanges)

/-- FAR.AREA_SIZE is computed anew (R394). -/
def State.setAreaSize (s : State) : State := s.setReg .farAreaSize [] s.area.size

/-- An FP32 word of memory. -/
def State.word (s : State) (a : Nat) : F32 := BitVec.ofNat 32 (s.peekLe .unit a 4)
def State.setWord (s : State) (a : Nat) (v : F32) : State := s.pokes .unit a (leBytes 4 v.toNat)

/-- The words of a block in a part of the area. -/
def State.blkWords (s : State) (part : Nat) (b : Blk) : List F32 := (List.range b.n).map (fun i => s.word (part + 4 * (b.pos + i)))
def State.setBlkWords (s : State) (part : Nat) (b : Blk) (l : List F32) : State :=
  l.zipIdx.foldl (fun s (v, i) => s.setWord (part + 4 * (b.pos + i)) v) s

/-- Masters and compensation words of a block in a version's slots (R393). -/
def State.masters (s : State) (v : Nat) (b : Blk) : List F32 :=
  (List.range b.n).map (fun i => s.word (s.ringSlot b.seg.ledger v + b.seg.master + 4 * (b.first + i)))
def State.comps (s : State) (v : Nat) (b : Blk) : List F32 :=
  match b.seg.comp with
  | some c => (List.range b.n).map (fun i => s.word (s.ringSlot b.seg.ledger v + c + 4 * (b.first + i)))
  | none => List.replicate b.n 0

/-- Copies the committed masters into a part of the area, each as RNE_FP32(master + compensation) (R389, R396). -/
def State.copyMasters (s : State) (part : Nat) : State :=
  s.blocks.foldl (fun s b =>
    s.setBlkWords part b (List.zipWith f32Add (s.masters s.cv b) (s.comps s.cv b))) s

/-- Zeroes bytes of the area. -/
def State.zeroes (s : State) (a n : Nat) : State := s.pokes .unit a (List.replicate n 0)

/-- Zeroes the RECV maps of a round's slot (R401). -/
def State.zeroMaps (s : State) (r : Nat) : State :=
  let a := s.area
  (List.range a.npart).foldl (fun s p => s.zeroes (a.map r p) (2 * a.nb)) s
def State.zeroAllMaps (s : State) : State := (List.range (s.farLag + 1)).foldl State.zeroMaps s

/-- Zeroes every span slot. -/
def State.zeroSpans (s : State) : State :=
  let a := s.area
  (List.range a.slots).foldl (fun s i => s.zeroes (a.span i) (4 * a.e)) s

/-! ### Shearing (R397-R399) -/

/-- A sheared block: scale, the kept indices with their codes, and how many codes flushed to zero. -/
structure Sheared where
  scale : Nat
  kept : List (Nat × Nat)
  ftz : Nat
  deriving DecidableEq, Repr

/-- The value of a code under a record's scale. -/
def recVal (scale q : Nat) : Val := (codeVal .e4m3 [] q).shift ((scale : Int) - 127)

/-- The bins of a block's finite values. -/
def shearBins (d : List F32) : List Nat :=
  let logs := d.map (fun x => if (f32Val x).isZero then none else some (f32Mag x).floorLog2)
  let emax := logs.foldl (fun (m : Option Int) l => match m, l with
    | none, l => l
    | some a, some b => some (max a b)
    | some a, none => some a) none
  logs.map (fun l => match emax, l with
    | some e, some x => min 63 (e - x).toNat
    | _, _ => 63)

/-- Takes the indices of the kept elements, in order: every bin below `jt`, and the first `more` of bin `jt`. -/
def keepGo (jt : Nat) : List Nat → Nat → Nat → List Nat
  | [], _, _ => []
  | b :: bs, i, more =>
    if b < jt then i :: keepGo jt bs (i + 1) more
    else if b = jt then
      match more with
      | 0 => keepGo jt bs (i + 1) 0
      | m + 1 => i :: keepGo jt bs (i + 1) m
    else keepGo jt bs (i + 1) more

/-- The kept indices of R397. -/
def shearKeep (k : Nat) (bins : List Nat) : List Nat :=
  let jt := ((List.range 64).find? (fun j => k ≤ (bins.filter (· ≤ j)).length)).getD 63
  keepGo jt bins 0 (k - (bins.filter (· < jt)).length)

/-- Shears a block of finite values (R397). -/
def shear (k : Nat) (d : List F32) : Sheared :=
  let idx := shearKeep k (shearBins d)
  let rs := idx.map (fun i => (f32Val (d.getD i 0)).toRes)
  let e := fitScale .e4m3 [] rs
  let qs := rs.map (fun r => encodeElem .e4m3 [] false (Res.shift r (127 - (e : Int))))
  ⟨e, idx.zip (qs.map Prod.fst), (qs.filter (fun q => q.2 == .ftz)).length⟩

/-- What shearing leaves of a block (R397). -/
def shearRest (d : List F32) (h : Sheared) : List F32 :=
  d.zipIdx.map (fun (x, i) => match h.kept.find? (fun p => p.1 == i) with
    | some p => f32Of ((f32Val x).sub (recVal h.scale p.2))
    | none => x)

/-- The packed indices of a record, twelve bits each (R399). -/
def packIdx : List Nat → List Nat
  | a :: b :: r => a / 16 :: (a % 16 * 16 + b / 256) :: b % 256 :: packIdx r
  | [a] => [a / 16, a % 16 * 16, 0]
  | [] => []

/-- The unpacked indices. -/
def unpackIdx : List Nat → List Nat
  | x :: y :: z :: r => (x * 16 + y / 16) :: (y % 16 * 256 + z) :: unpackIdx r
  | _ => []

/-- A block's record (R399). -/
def recordOf (block : Nat) (h : Sheared) : List Nat :=
  let body := beBytes 4 block ++ [h.scale, 0] ++ beBytes 2 h.kept.length ++ packIdx (h.kept.map Prod.fst) ++ h.kept.map Prod.snd
  body ++ List.replicate (recSize h.kept.length - body.length) 0

/-- The values that a record holds, by index. -/
def recValues (r : List Nat) : List (Nat × Val) :=
  let k := beVal ((r.drop 6).take 2)
  let n := 3 * ((k + 1) / 2)
  ((unpackIdx ((r.drop 8).take n)).take k).zip (((r.drop (8 + n)).take k).map (recVal (r.getD 4 0)))

/-- The value that a record adds to element `i`. -/
def recAt (vs : List (Nat × Val)) (i : Nat) : Val :=
  match vs.find? (fun p => p.1 == i) with
  | some p => p.2
  | none => Val.zero

/-- What the shearing of block `j` counts (R398): flushes and non-finite elements, with FAR_NONFINITE. -/
def State.countShear (s : State) (r j bad ftz : Nat) : State :=
  let s := s.tallyAdd (regOff .ledQFtz []) ftz
  if bad = 0 then s else (s.farCount 7 bad).raise 0x0505 0 0 0 j r

/-- Shears block `b`, number `j`, of round `r`: DLT, the record in OWN, RESID (R397-R399). -/
def State.shearBlock (s : State) (r : Nat) (j : Nat) (b : Blk) : State :=
  let a := s.area
  let ms := List.zipWith (fun m c => (f32Val m).add (f32Val c)) (s.masters s.cv b) (s.comps s.cv b)
  let delta := List.zipWith (fun mc x => f32Of (mc.sub (f32Val x))) ms (s.blkWords a.bas b)
  let d0 := List.zipWith f32Add delta (s.blkWords a.resid b)
  let bad := (d0.filter f32NonFinite).length
  let d := d0.map (fun x => if f32NonFinite x then 0 else x)
  let h := shear b.k d
  let s := s.setBlkWords (a.dlt r) b delta
  let s := s.pokes .unit (a.own r + b.off) (recordOf j h)
  let s := s.setBlkWords a.resid b (shearRest d h)
  s.countShear r j bad h.ftz

/-- Shears the whole shard. -/
def State.shearAll (s : State) (r : Nat) : State := s.blocks.zipIdx.foldl (fun s (b, j) => s.shearBlock r j b) s

/-- The records of a span or catch-up slot, sheared as R397 says with the residual discarded (R426, R430), under round `r`: a non-finite element
counts as +0, and it and the flushes are counted (R398). -/
def State.shearSlot (s : State) (slot r : Nat) : List (List Nat) × State :=
  let a := s.area
  s.blocks.zipIdx.foldl (fun (l, s) (b, j) =>
    let d := s.blkWords (a.span slot) b
    let h := shear b.k (d.map (fun x => if f32NonFinite x then 0 else x))
    (l ++ [recordOf j h], s.countShear r j (d.filter f32NonFinite).length h.ftz)) ([], s)

/-- Adds a block's record into a span slot (R424). -/
def State.addRecord (s : State) (slot : Nat) (b : Blk) (r : List Nat) : State :=
  let a := s.area
  let vs := recValues r
  s.setBlkWords (a.span slot) b ((s.blkWords (a.span slot) b).zipIdx.map (fun (x, i) => f32Of ((f32Val x).add (recAt vs i))))

/-- The own record of a block of a round. -/
def State.ownRecord (s : State) (r : Nat) (b : Blk) : List Nat := s.peeks .unit (s.area.own r + b.off) (recSize b.k)

/-! ### Fold apply (R405, R406) -/

/-- The enabled channels. -/
def State.channels (s : State) : List Nat := (List.range 4096).filter (fun c => 4 ≤ c && s.flag .farChanCfg [c] 63)

/-- PIDX of a channel; as what one that is not below NPART acts the spec does not state (log 52). -/
def State.chanPidx (s : State) (c : Nat) : Nat :=
  let p := s.rf .farChanCfg [c] 28 6
  if p < s.rf .farCfg [] 37 6 then p else Config.fieldAs 5 p

/-- The partner slot of a site, if an enabled channel has that PEER_SITE. -/
def State.partnerOf (s : State) (site : Nat) : Option Nat :=
  match s.channels.find? (fun c => s.rf .farChanCfg [c] 50 6 == site) with
  | some c => some (s.chanPidx c)
  | none => none

/-- A staleness weight. -/
def State.staleW (s : State) (a : Nat) : F32 := BitVec.ofNat 32 (s.rf .farStaleW [a] 0 32)

/-- The inputs of the fold apply of round `k` as they stand. -/
def State.foldInputs (s : State) (k : Nat) : FoldIn :=
  { round := k, outer := s.reg .farOuter [], weights := (List.range 64).map (fun a => (s.staleW a).toNat)
    partners := (List.range 64).filterMap (fun site => (s.partnerOf site).map (fun p => (site, p))) }

/-- The inputs of the fold apply of round `k`: those fixed when APPLY first began for it (R390). -/
def State.foldIn (s : State) (k : Nat) : FoldIn :=
  match s.far.fixed with
  | some i => if i.round = k then i else s.foldInputs k
  | none => s.foldInputs k

/-- A weight of fixed inputs. -/
def FoldIn.weight (i : FoldIn) (a : Nat) : F32 := BitVec.ofNat 32 (i.weights.getD a 0)

/-- The records of round `k` present for block number `j`, in the order of R405, each with its weight. -/
def State.contributions (s : State) (i : FoldIn) (k j : Nat) (b : Blk) : List (F32 × List (Nat × Val)) :=
  let a := s.area
  (List.range 64).flatMap (fun site =>
    if site = s.farSite then [((0x3F800000 : F32), recValues (s.ownRecord k b))]
    else
      match i.partners.lookup site with
      | none => []
      | some p =>
        let m := a.map k p + 2 * j
        let present := s.peek .unit m
        let normal := if present.testBit 0 then [(i.weight 0, recValues (s.peeks .unit (a.recv k p + b.off) (recSize b.k)))] else []
        let late := if present.testBit 1 then
          [(i.weight (s.peek .unit (m + 1)), recValues (s.peeks .unit (a.late k p + b.off) (recSize b.k)))] else []
        normal ++ late)

/-- The new values of one element (R405). -/
structure Outer where
  u : F32
  m : F32
  g : F32
  w : F32
  c : F32
  b : F32
  exact : Val
  exactC : Val
  deriving DecidableEq, Repr

/-- One element of the fold apply. -/
def outerStep (lr mu : F32) (nest comp : Bool) (sum w mom g dlt m c : F32) : Outer :=
  let f := f32Round ((f32Val sum).div (f32Val w))
  let m' := f32Of (((f32Val mu).mul (f32Val mom)).add (f32Val f))
  let u := if nest then f32Of ((f32Val lr).mul ((f32Val f).add ((f32Val mu).mul (f32Val m')))) else f32Mul lr m'
  let g' := f32Add g u
  let y := if comp then f32Of (((f32Val u).sub (f32Val dlt)).add (f32Val c)) else 0
  let exact := if comp then (f32Val m).add (f32Val y) else ((f32Val m).add (f32Val u)).sub (f32Val dlt)
  let w' := f32Of exact
  let exactC := (f32Val (f32Sub m w')).add (f32Val y)
  let c' := if comp then f32Of exactC else 0
  ⟨u, m', g', w', c', f32Add w' c', exact, exactC⟩

/-- Digest terms of whole 64-byte chunks written at an address, by the slot's origin (R278); the key must lie between 2 and p - 2, and the slot's value
below p (R334). -/
def State.digestWrite (s : State) (slot a : Nat) (bytes : List Nat) : State :=
  let o := s.reg .drvDigestOrigin [slot]
  let s := if s.keyBad || digestP ≤ s.digestSlot slot then s.broke (.ub 43) else s
  let key := s.digestKey
  (chunks 64 bytes).zipIdx.foldl (fun s (c, i) => s.digestAdd slot (digestTerm key ((a - o) / 64 + i) c)) s

/-- Values written as FP32 words from an address on, in the groups of their 4 KiB granules (R320). -/
def granules (a : Nat) (vs : List Val) : List (List Res) :=
  let gs := (vs.zipIdx.map (fun (_, i) => (a + 4 * i) / 4096)).eraseDups
  gs.map (fun g => vs.zipIdx.filterMap (fun (v, i) => if (a + 4 * i) / 4096 = g then some v.toRes else none))

/-- The memory queue in which ROUNDEND and APPLY run (R400). -/
def State.applyQueue (s : State) : Nat := s.rf .farApplyCfg [] 48 8

/-- Writes FP32 words of exact values into a slot through an entry (R319, R320, R406): one contribution to SQ for each granule of a block's words. It is
work of the memory queue of APPLY_CFG, whose counts go where that queue's go (R314, R332, R398). -/
def State.writeWords (s : State) (n a : Nat) (ws : List F32) (exact : List Val) : State :=
  let s := s.pokes .unit a (ws.flatMap (fun (w : F32) => leBytes 4 w.toNat))
  let t : Tens := ⟨0, .fp32, 0, ws.length, 1, 1, 1, 0, 0, 0, 0, true, n⟩
  let by_ : Issuer := .queue s.applyQueue
  let s := s.ledgerUpdate by_ t (granules a exact)
  s.countTo by_ t (Counts.of (exact.map (fun (x : Val) => (f32RoundC .rne x.toRes).2)))

/-- Writes masters and compensation words of a block into the slot of version `v`, through the entry (R406); under DIG each write of masters
adds its digest terms. -/
def State.writeMasters (s : State) (v : Nat) (b : Blk) (ws cs : List F32) (exact exactC : List Val) : State :=
  let n := b.seg.ledger
  let at_ := s.ringSlot n v + b.seg.master + 4 * b.first
  let s := s.writeWords n at_ ws exact
  let s := if s.flag .farApplyCfg [] 41 then
      s.digestWrite (s.rf .farApplyCfg [] 33 8) at_ (ws.flatMap (fun (w : F32) => leBytes 4 w.toNat)) else s
  match b.seg.comp with
  | some c => s.writeWords n (s.ringSlot n v + c + 4 * b.first) cs exactC
  | none => s

/-- The fold apply of one block of round `k` on fixed inputs (R390, R405). -/
def State.applyBlock (s : State) (i : FoldIn) (k j : Nat) (b : Blk) : State :=
  let a := s.area
  let cons := s.contributions i k j b
  let w := cons.foldl (fun w c => f32Add w c.1) (0 : F32)
  let sums := (List.range b.n).map (fun i =>
    cons.foldl (fun x c => f32Of ((f32Val x).add ((f32Val c.1).mul (recAt c.2 i)))) (0 : F32))
  let mom := s.blkWords (a.mom s.fpar) b
  let g := s.blkWords (a.g s.fpar) b
  let dlt := s.blkWords (a.dlt k) b
  let ms := s.masters s.cv b
  let cs := s.comps s.cv b
  let lr : F32 := BitVec.ofNat 32 (fld i.outer 0 32)
  let mu : F32 := BitVec.ofNat 32 (fld i.outer 32 32)
  let nest := s.flag .farCfg [] 62
  let os := (List.range b.n).map (fun i =>
    outerStep lr mu nest b.seg.comp.isSome (sums.getD i 0) w (mom.getD i 0) (g.getD i 0) (dlt.getD i 0) (ms.getD i 0) (cs.getD i 0))
  let s := s.setBlkWords (a.mom (1 - s.fpar)) b (os.map (·.m))
  let s := s.setBlkWords (a.g (1 - s.fpar)) b (os.map (·.g))
  let s := s.setBlkWords a.bas b (os.map (·.b))
  let s := s.writeMasters (s.cv + 1) b (os.map (·.w)) (os.map (·.c)) (os.map (·.exact)) (os.map (·.exactC))
  { s with far := { s.far with
      applyU := s.far.applyU ++ os.map (fun o => o.u.toNat)
      applyCount := if j = 0 then cons.length else s.far.applyCount } }

/-- Copies SLOT_BYTES of each segment's entry from the committed slot to the next one (R406). -/
def State.copySlots (s : State) : State :=
  s.segs.foldl (fun s g =>
    s.pokes .unit (s.ringSlot g.ledger (s.cv + 1)) (s.peeks .unit (s.ringSlot g.ledger s.cv) (s.slotBytes g.ledger))) s

/-- Bytes of slot that a fold apply writes, its progress's total (R400). -/
def State.applyTotal (s : State) : Nat := (s.segs.map (fun g => s.slotBytes g.ledger)).sum

/-- The fold apply claims its progress slot (R400, R484). -/
def State.applyClaim (s : State) : State :=
  let p := s.rf .farApplyCfg [] 42 6
  let s := s.progClaim p 2 0 s.applyTotal
  { s with far := { s.far with applyU := [], applyCount := 0, applySlot := p } }

/-- A fold apply of round `k` begins: its inputs are fixed now or were at an earlier beginning (R390). -/
def State.foldBegin (s : State) (k : Nat) : State := { s.applyClaim with far := { s.applyClaim.far with fixed := some (s.foldIn k) } }

/-- Fold apply of round `k` (R405, R406), on inputs fixed at its beginning (R390), reporting its progress (R400): the slots' bytes are written. -/
def State.foldApply (s : State) (k : Nat) : State :=
  let i := s.foldIn k
  let s := State.copySlots { s with far := { s.far with applyU := [], applyCount := 0 } }
  let s := s.blocks.zipIdx.foldl (fun s (b, j) => s.applyBlock i k j b) s
  s.progPos s.far.applySlot 2 s.applyTotal

/-- The writes of an admission apply (R430): the next slots and BASE take G of the other parity. -/
def State.admitApply (s : State) : State :=
  let s := State.copySlots { s with far := { s.far with applyU := [], applyCount := 0 } }
  let a := s.area
  let s := s.blocks.foldl (fun s b =>
    let g := s.blkWords (a.g (1 - s.fpar)) b
    let s := s.setBlkWords a.bas b g
    s.writeMasters (s.cv + 1) b g (List.replicate b.n 0) (g.map f32Val) (List.replicate b.n Val.zero)) s
  s.progPos s.far.applySlot 2 s.applyTotal

/-- A fold apply's writes are done: the slot that it claimed ends (R400, R484). -/
def State.applyDone (s : State) : State :=
  let p := s.far.applySlot
  (s.progPos p 2 s.applyTotal).progEnd p 2 true

end Sys2Proof.Machine
end

