-- ==== Sys2Proof/Machine/Chan.lean ====
section
/-!
DEFINITION. The far channels (R403, R408-R431): frames, receiving, acknowledging, sending, contact, admission, and the boundary of a round
(R388-R392, R401, R402).
-/
namespace Sys2Proof.Machine

/-! ### Channels -/

def State.setChan (s : State) (c : Nat) (x : Chan) : State :=
  { s with far := { s.far with chans := tblSet (fun _ => Chan.reset) s.far.chans c x } }

/-- STATE of a channel: 0 OFF, 1 OPEN, 2 LIVE, 3 DARK, 4 RESYNC, 5 STALE, 6 JOIN. -/
def State.chanSt (s : State) (c : Nat) : Nat := s.rf .farChanState [c] 61 3
def State.setChanSt (s : State) (c v : Nat) : State := s.setRf .farChanState [c] 61 3 v

/-- Fields of a channel's configuration. -/
def State.chanOn (s : State) (c : Nat) : Bool := s.flag .farChanCfg [c] 63
def State.chanPort (s : State) (c : Nat) : Nat := s.rf .farChanCfg [c] 56 2
def State.peerSite (s : State) (c : Nat) : Nat := s.rf .farChanCfg [c] 50 6
def State.peerModule (s : State) (c : Nat) : Nat := s.rf .farChanCfg [c] 34 14
def State.farLink (s : State) (f : Nat) : Bool := s.flag .farPortCfg [f] 63

/-- The module's own number and a channel's event. -/
def State.moduleId (s : State) : Nat := s.rf .denModule [] 0 14
def State.raiseChan (s : State) (c code detail arg0 arg1 : Nat) : State := s.raise code detail 5 c arg0 arg1

/-! ### Frames on the wire (R409, R411) -/

/-- A header (R411). -/
def State.farHeader (s : State) (c typ flags len round span cls seq : Nat) : List Nat :=
  [0x10 + typ, flags] ++ beBytes 2 c ++ [s.farSite, s.peerSite c] ++ beBytes 2 s.moduleId ++ beBytes 2 (s.peerModule c)
    ++ beBytes 2 len ++ beBytes 4 (seq % 2 ^ 32) ++ beBytes 4 round ++ [span, cls, 0, 0] ++ beBytes 8 (s.reg .farJob [])

/-- Sends a UDP payload of a channel through its port (R409), unless an emergency quiesce holds the transmitter idle (R509). -/
def State.sendDatagram (s : State) (c : Nat) (bytes : List Nat) : State :=
  let f := s.chanPort c
  let g : Datagram :=
    { mac := s.rf .farPortMac [f] 0 48, srcMac := s.fuses.macs.getD f 0
      srcAddr := s.reg .farPortAddrHi [f] * 2 ^ 64 + s.reg .farPortAddrLo [f]
      dstAddr := s.reg .farChanPeerHi [c] * 2 ^ 64 + s.reg .farChanPeerLo [c]
      tclass := s.rf .farPortCfg [f] 18 6 * 4, flow := s.moduleId % 256 * 2 ^ 12 + c, hops := s.rf .farPortCfg [f] 24 8
      srcPort := s.rf .farPortCfg [f] 0 16, dstPort := s.rf .farPortCfg [f] 0 16, ok := true, room := true
      payload := bytes.map (BitVec.ofNat 8) }
  if s.isl.quiesced.contains (2 * f + 1) then s else { s with out := s.out ++ [.far f g] }

/-- Seals and sends a control frame at once (R434), and whether it went: nothing goes out while the link is down or the engine does not run. -/
def State.trySend (s : State) (c typ : Nat) (pt : List Nat) : Bool × State :=
  let f := s.chanPort c
  if s.farLink f = false then (false, s)
  else
    let hdr := s.farHeader c typ 0 pt.length s.farRoundNo 0 0
    match s.cipSeal f c hdr pt with
    | (some z, s) => (true, s.sendDatagram c (hdr z.seq ++ z.text ++ z.tag))
    | (none, s) => (false, s)

def State.sendControl (s : State) (c typ : Nat) (pt : List Nat) : State := (s.trySend c typ pt).2

/-- Microseconds between two readings of the timebase, which counts 100 a microsecond. -/
def usSince (now t : Nat) : Nat := (now + 2 ^ 64 - t % 2 ^ 64) % 2 ^ 64 / 100

/-- The first sequence from `n` on that is not among the received ones; the fuel bounds the search. -/
def firstGap (seen : List Nat) : Nat → Nat → Nat
  | 0, n => n
  | k + 1, n => if seen.contains n then firstGap seen k (n + 1) else n

/-- The runs of received sequences from `n` up to `top`, as (start, end); the fuel bounds their number. -/
def runsFrom (seen : List Nat) (top : Nat) : Nat → Nat → List (Nat × Nat)
  | 0, _ => []
  | k + 1, n =>
    match (seen.filter (n ≤ ·)).min? with
    | none => []
    | some a =>
      let b := firstGap seen (seen.length + 1) a
      if a < top then (a, b) :: runsFrom seen top k b else []

/-- The payload of an ACK (R411): CUM is the first sequence of the tracked window that has not been received; of more than sixteen ranges a
window of sixteen is reported, which one is open. -/
def State.ackPayload (s : State) (c echo hold : Nat) : List Nat × State :=
  let x := s.chan c
  let cum := firstGap x.seen (x.seen.length + 1) (x.rxTop - 65536)
  let runs := runsFrom x.seen x.rxTop (x.seen.length + 1) cum
  let (w, s) := if runs.length ≤ 16 then ((0 : Word), s) else s.takeWord
  let rs := (runs.drop (if runs.length ≤ 16 then 0 else w.toNat % (runs.length - 15))).take 16
  let body := beBytes 4 (cum % 2 ^ 32) ++ beBytes 4 (echo % 2 ^ 32) ++ beBytes 4 hold ++ [rs.length, 0, 0, 0]
    ++ rs.flatMap (fun r => beBytes 4 (r.1 % 2 ^ 32) ++ beBytes 4 (r.2 % 2 ^ 32))
  (body ++ List.replicate ((16 - body.length % 16) % 16) 0, s)

/-- Sends an ACK for a frame that arrived at a time; nothing is left to acknowledge (R420). -/
def State.sendAck (s : State) (c echo at_ : Nat) : State :=
  let (p, s) := s.ackPayload c echo (usSince s.time at_)
  let s := s.setChan c { s.chan c with pend := [] }
  s.sendControl c 2 p

/-- The span that a HELLO reports: SPAN, 0xFFFF for NOSPAN. -/
def State.helloSpan (s : State) (c : Nat) : Nat := if s.flag .farChanState [c] 60 then 0xFFFF else s.rf .farChanState [c] 46 8

/-- Sends a HELLO (R411), whose CONTRIB a verdict compares later (R428). -/
def State.sendHello (s : State) (c : Nat) (admitting reply : Bool) : State :=
  let own := s.reg .farContrib []
  let (sent, s) := s.trySend c 5 (beBytes 4 s.farRoundNo ++ beBytes 2 (s.helloSpan c)
    ++ [bit admitting + 2 * bit s.joining + 4 * bit reply, 0] ++ beBytes 8 own ++ List.replicate 16 0)
  if sent then s.setChan c { s.chan c with sentContrib := some own } else s

/-- Sends a PROBE (R421). -/
def State.sendProbe (s : State) (c : Nat) : State := s.sendControl c 3 (beBytes 8 s.time ++ List.replicate 8 0)

/-! ### Span slots (R424) -/

/-- Span slots that channels hold. -/
def State.slotsHeld (s : State) : List Nat :=
  s.far.chans.flatMap (fun c => c.2.slot.toList ++ c.2.catchSlot.toList)

/-- The lowest free span slot. -/
def State.freeSlot (s : State) : Option Nat := (List.range (s.rf .farCfg [] 43 6)).find? (fun i => !s.slotsHeld.contains i)

/-- SPAN of a channel after rounds joined its slot: one for each round that was not yet in it, saturating at 255. -/
def State.spanRound (s : State) (c r : Nat) : State :=
  let x := s.chan c
  if x.rounds.contains r then s
  else (s.setChan c { x with rounds := x.rounds ++ [r] }).setRf .farChanState [c] 46 8 (min 255 (s.rf .farChanState [c] 46 8 + 1))

/-- Adds records of a round, by block number, into a channel's span slot, if it holds one. -/
def State.spanAdd (s : State) (c r : Nat) (recs : List (Nat × List Nat)) : State :=
  let s := match (s.chan c).slot with
    | some i =>
      let bl := s.blocks
      recs.foldl (fun (s : State) (q : Nat × List Nat) => match bl[q.1]? with
        | some k => s.addRecord i k q.2
        | none => s) s
    | none => s
  s.spanRound c r

/-- The own records of a round from a block on, by number. -/
def State.ownFrom (s : State) (r next : Nat) : List (Nat × List Nat) :=
  (s.blocks.zipIdx.drop next).map (fun (b, j) => (j, s.ownRecord r b))

/-- Puts what a job has not framed into the span slot (R424): the records of a round, of a combined delta or of a catch-up; an admission image has
none. -/
def State.spanJob (s : State) (c : Nat) (j : TxJob) : State :=
  if j.cls = 0 then s.spanAdd c j.round (s.ownFrom j.round j.next)
  else if j.cls = 1 then
    let s := s.spanAdd c j.round (j.recs.zipIdx.drop j.next |>.map (fun (r, i) => (i, r)))
    j.rounds.foldl (fun s r => s.spanRound c r) s
  else s

/-- A released span slot holds no round: SPAN reads 0 (R424, R426). -/
def State.spanFree (s : State) (c : Nat) : State :=
  (s.setChan c { s.chan c with slot := none, rounds := [] }).setRf .farChanState [c] 46 8 0

/-- The encryption of a channel's frame is abandoned, where its job is one of those named (R424, R435): the context holds no frame in progress. -/
def State.abandon (s : State) (c : Nat) (p : TxJob → Bool) : State :=
  let x := s.chan c
  match x.sealing with
  | none => s
  | some z =>
    if p z.job then
      let s := s.setChan c { x with sealing := none }
      match s.cip.cache.find? (fun r => r.isFor (s.chanPort c) c 0) with
      | some r => s.ctxUpdate (s.chanPort c) c 0 (ctxIdle r.bytes)
      | none => s
    else s

/-- An admission fails (R430): JOINING stays, RESULT reads failed, no boundary is then an admission apply, nor is the one in progress. -/
def State.admitFails (s : State) : State :=
  let begun := s.phase != 0 && s.flag .farApplyWait [] 62
  let s := { s with far := { s.far with admitting := false, caught := [], failed := s.far.failed || begun } }
  let s := if begun then s.setRf .farApplyWait [] 62 1 0 else s
  (s.setRf .farAdmit [] 62 1 0).setRf .farAdmit [] 60 2 2

/-- A channel's contact is lost (R424): it takes and zeroes the lowest free span slot; what it has not framed goes into it; its unacknowledged
frames stay as limbo frames. From LIVE alone it raises FAR_DARK (R423). An admission of which it is the donor's channel fails (R430). -/
def State.enterDark (s : State) (c : Nat) : State :=
  let live := s.chanSt c == 2
  let s := s.abandon c (fun _ => true)
  let s := s.setChan c { s.chan c with slot := none, rounds := [] }
  let slot := s.freeSlot
  let s := match slot with
    | some i => s.zeroes (s.area.span i) (4 * s.area.e)
    | none => s
  let jobs := (s.chan c).jobs
  let s := s.setChan c { s.chan c with
    slot := slot, jobs := [], catchSlot := none, donor := 0, resumed := false, gotAck := false, gotHello := false }
  let w := setBits (setBits (setBits (s.reg .farChanState [c]) 60 1 (bit slot.isNone)) 54 6 (slot.getD 0)) 46 8 0
  let s := s.setReg .farChanState [c] (setBits w 61 3 3)
  let s := jobs.foldl (fun s j => s.spanJob c j) s
  let s := if live then s.raiseChan c 0x0502 (bit slot.isNone) s.farRoundNo 0 else s
  if s.joining && s.flag .farAdmit [] 62 && s.rf .farAdmit [] 0 12 == c then
    s.admitFails.progEnd (s.rf .farAdmit [] 54 6) 3 false
  else s

/-- The contact timeout of a channel passes (R423, R424). -/
def execFarDark (c : Fin 4096) (s : State) : Ans :=
  let c := c.val
  let st := s.chanSt c
  if st = 2 ∨ st = 4 ∨ st = 6 then .next (s.enterDark c)
  else if st = 3 then .next (s.setChan c { s.chan c with resumed := false, gotAck := false, gotHello := false })
  else .next s

/-- A channel becomes LIVE (R423). -/
def State.goLive (s : State) (c : Nat) : State := (s.setChanSt c 2).raiseChan c 0x0501 0 s.farRoundNo 0

/-- The CONTRIB of the last HELLO that the channel has sent (R428); the module's own while none has gone out. -/
def State.ownContrib (s : State) (c : Nat) : Nat := (s.chan c).sentContrib.getD (s.reg .farContrib [])

/-- The verdict of a STALE channel (R428), by the CONTRIB values of the two HELLOs: 1 JOIN, 2 DONOR. -/
def State.verdict (s : State) (c : Nat) : Nat :=
  let own := s.ownContrib c
  let peer := (s.chan c).peerContrib
  if own < peer then 1 else if peer < own then 2 else if s.farSite < s.peerSite c then 1 else 2

/-- A channel becomes STALE (R428): it holds no round to frame, its span slot is free, and its verdict is raised. -/
def State.goStale (s : State) (c : Nat) : State :=
  let v := s.verdict c
  let s := s.abandon c (fun j => j.cls != 2 && !j.catchup)
  let s := (s.setChan c { s.chan c with jobs := (s.chan c).jobs.filter (fun j => j.cls == 2 || j.catchup) }).spanFree c
  let s := (s.setChanSt c 5).setRf .farChanState [c] 44 2 v
  s.raiseChan c 0x0503 v (s.ownContrib c) (s.chan c).peerContrib

/-! ### Resumption (R426) -/

/-- The records of a frame's text, by block number; none where it is malformed (R399, R411). The fuel counts the records. -/
def splitRecords (bl : List Blk) : Nat → List Nat → Option (List (Nat × List Nat))
  | _, [] => some []
  | 0, _ => none
  | k + 1, l =>
    let j := beVal (l.take 4)
    match bl[j]? with
    | none => none
    | some b =>
      let n := recSize b.k
      if l.length < n ∨ beVal ((l.drop 6).take 2) ≠ b.k then none
      else match splitRecords bl k (l.drop n) with
        | some r => some ((j, l.take n) :: r)
        | none => none

/-- The plaintext of a stored frame under the channel's transmit context (R426). -/
def State.storedText (s : State) (c : Nat) (f : FarFrame) : List Nat :=
  let b := match s.cip.cache.find? (fun r => r.isFor (s.chanPort c) c 0) with
    | some r => some r.bytes
    | none => s.ctxStored c 0
  match b with
  | some b => gcmText (ctxKey b) (cipIv c f.seq) (f.body.take (f.body.length - 16))
  | none => []

/-- The records of a limbo frame go into the span slot (R426): of a combined delta with those of every round of its span, from ROUND back. STATE frames hold
no records. -/
def State.limboFrame (s : State) (c : Nat) (f : FarFrame) : State :=
  let t := s.storedText c f
  if f.cls = 2 then s
  else
    match splitRecords s.blocks (t.length + 1) t with
    | none => s
    | some rs =>
      let r := beVal ((f.hdr.drop 16).take 4)
      let s := s.spanAdd c r rs
      if f.cls = 1 ∧ (f.hdr.getD 1 0).testBit 6 = false then
        (List.range (f.hdr.getD 20 0)).foldl (fun s k => s.spanRound c (roundSub r k)) s
      else s

/-- The remaining limbo frames go into the span slot and are released (R426). -/
def State.limbo (s : State) (c : Nat) : State :=
  let s := (s.chan c).frames.foldl (fun s f => s.limboFrame c f) s
  s.setChan c { s.chan c with frames := [] }

/-- The newest of some rounds (R426). -/
def newestRound (rs : List Nat) : Nat := rs.foldl (fun a r => if roundBefore a r then r else a) (rs.headD 0)

/-- Ends the wait of R426 when the peer's ACK and HELLO have come. -/
def State.tryResume (s : State) (c : Nat) : State :=
  let x := s.chan c
  if s.chanSt c = 3 && x.gotAck && x.gotHello then
    let s := s.limbo c
    let x := s.chan c
    let own := s.helloSpan c
    let span := max own x.peerSpan
    if own = 0xFFFF ∨ x.peerSpan = 0xFFFF ∨ 64 < span then s.goStale c
    else
      match x.slot, x.rounds with
      | some i, _ :: _ =>
        let r := newestRound x.rounds
        let (recs, s) := s.shearSlot i r
        (s.setChan c { x with jobs := ⟨1, r, span, false, x.rounds, 0, recs, []⟩ :: x.jobs }).setChanSt c 4
      | _, _ => (s.spanFree c).goLive c
  else s

/-- What every accepted frame does (R413, R423, R426): its sequence is tracked, and the first one in DARK is answered by an ACK and a HELLO. -/
def State.track (s : State) (c v : Nat) : State :=
  let x := s.chan c
  let top := max x.rxTop (v + 1)
  let seen := (if x.seen.contains v then x.seen else x.seen ++ [v]).filter (top - 65536 ≤ ·)
  s.setChan c { x with seen := seen, rxTop := top }

def State.contact (s : State) (c v : Nat) : State :=
  if s.chanSt c = 3 && !(s.chan c).resumed then
    let s := s.setChan c { s.chan c with resumed := true }
    (s.sendAck c v s.time).sendHello c false false
  else s

/-! ### Receiving (R408, R411-R413, R439-R444) -/

/-- A big-endian header field. -/
def hdrF (h : List Nat) (off len : Nat) : Nat := beVal ((h.drop off).take len)

/-- The bytes of a datagram. -/
def dgBytes (g : Datagram) : List Nat := g.payload.map BitVec.toNat

/-- The checks of R412 before the tag. -/
def State.frameOk (s : State) (f : Nat) (g : Datagram) : Bool :=
  let h := (dgBytes g).take 32
  let c := hdrF h 2 2
  let typ := h.getD 0 0 % 16
  let flags := h.getD 1 0
  g.ok && g.dstAddr == s.reg .farPortAddrHi [f] * 2 ^ 64 + s.reg .farPortAddrLo [f] && g.dstPort == s.rf .farPortCfg [f] 0 16
    && 48 ≤ (dgBytes g).length && h.getD 0 0 / 16 == 1 && 1 ≤ typ && typ ≤ 6 && flags % 64 == 0 && hdrF h 22 2 == 0
    && h.getD 4 0 < 64 && hdrF h 6 2 < 2 ^ 14
    && h.getD 5 0 == s.farSite && hdrF h 8 2 == s.moduleId && 4 ≤ c && c < 4096 && s.chanOn c && s.chanPort c == f
    && h.getD 4 0 == s.peerSite c && hdrF h 6 2 == s.peerModule c
    && g.srcAddr == s.reg .farChanPeerHi [c] * 2 ^ 64 + s.reg .farChanPeerLo [c]
    && hdrF h 24 8 == s.reg .farJob [] && hdrF h 10 2 == (dgBytes g).length - 48

/-- Whether a record's reserved byte, the last index of an odd count and the padding are 0 (R399). -/
def recordClean (r : List Nat) : Bool :=
  let k := beVal ((r.drop 6).take 2)
  let n := 3 * ((k + 1) / 2)
  r.getD 5 0 == 0 && (k % 2 == 0 || (r.getD (7 + n) 0 == 0 && r.getD (6 + n) 0 % 16 == 0)) && (r.drop (8 + n + k)).all (· == 0)

/-- The checks of a payload's form after its tag (R411): whole blocks of 16 bytes, the length of its type, and every field that is marked 0. What a
frame that fails them does the spec leaves open: it is discarded uncounted (DESIGN CHOICE, log 38). -/
def State.payloadOk (s : State) (typ : Nat) (pt : List Nat) : Bool :=
  let zero (a b : Nat) : Bool := ((pt.take b).drop a).all (· == 0)
  pt.length % 16 == 0 && (match typ with
    | 1 => match splitRecords s.blocks (pt.length + 1) pt with
      | some rs => rs.all (fun q => recordClean q.2)
      | none => true
    | 2 => 16 ≤ pt.length && pt.getD 12 0 ≤ 16 && 16 + 8 * pt.getD 12 0 ≤ pt.length && zero 13 16 && zero (16 + 8 * pt.getD 12 0) pt.length
    | 3 => pt.length == 16 && zero 8 16
    | 4 => pt.length == 16 && zero 12 16
    | 5 => pt.length == 32 && pt.getD 6 0 < 8 && zero 7 8 && zero 16 32
    | _ => 16 ≤ pt.length && zero 8 16)

/-- Whether memory that the far exchange reaches is held (R509, R519): the far buffer, the context area, the fold area. -/
def State.farHeld (s : State) : Bool :=
  s.rangeHeld .unit s.fbufRange.1 s.fbufRange.2 || s.rangeHeld .unit s.ctxRange.1 s.ctxRange.2
    || (s.farOn && s.rangeHeld .unit (s.rf .farArea [] 12 36 * 4096) (s.reg .farAreaSize []))

/-- A frame arrives at a far port: the checks, the engine, then what its type does. A frame of another type is not this command's. One that arrives while a
die that holds the exchange's memory is being reset or quiesced is lost (DESIGN CHOICE, log 38). -/
def State.receive (s : State) (f typ : Nat) (g : Datagram) (k : Nat → Nat → List Nat → List Nat → State → Ans) : Ans :=
  let b := (dgBytes g)
  let h := b.take 32
  let t := h.getD 0 0 % 16
  if s.farLink f = false ∨ s.farHeld = true ∨ (48 ≤ b.length ∧ 1 ≤ t ∧ t ≤ 6 ∧ t ≠ typ) then .next s
  else if s.frameOk f g = false then .next (s.farCount 6 1)
  else
    let c := hdrF h 2 2
    let n := b.length - 48
    match s.cipOpen g.room f c h (hdrF h 12 4) ((b.drop 32).take n) (b.drop (32 + n)) with
    | (.ok v pt, s) =>
      if s.payloadOk typ pt = false then .next s
      else (k c v h pt s).andThen (fun s => .next ((s.contact c v).tryResume c))
    | (_, s) => .next s

/-- Counts a DATA or STATE frame to acknowledge; every fourth is acknowledged at once (R420). -/
def State.toAck (s : State) (c v : Nat) : State :=
  let p := (s.chan c).pend ++ [(v, s.time)]
  let s := s.setChan c { s.chan c with pend := p }
  if 4 ≤ p.length then s.sendAck c v s.time else s

/-- Whether a frame's sequence was already received or lies below the tracked window (R413). -/
def Chan.duplicate (x : Chan) (v : Nat) : Bool := x.seen.contains v || v + 65536 < x.rxTop

/-- Places one record of a round from FIRST to NEW (R403): its round, span, the partner slot, the block. -/
def State.placeRecord (s : State) (r span p j : Nat) (bytes : List Nat) : State :=
  let a := s.area
  match s.blocks[j]? with
  | none => s
  | some b =>
    if span = 0 ∧ roundBefore r s.far.old = false then
      if (f32Val (s.staleW 0)).isZero then s.farCount 3 1
      else
      let s := s.pokes .unit (a.recv r p + b.off) bytes
      let m := a.map r p + 2 * j
      s.pokes .unit m [s.peek .unit m ||| 1]
    else
      let t := if roundBefore r s.far.old then s.far.old else r
      let age := if span = 0 then roundSub s.far.old r else roundSub t (r + 2 ^ 32 + 1 - span)
      let m := a.map t p + 2 * j
      if 64 ≤ age ∨ (f32Val (s.staleW (age % 64))).isZero = true ∨ (s.peek .unit m).testBit 1 = true then s.farCount 3 1
      else
        let s := s.pokes .unit (a.late t p + b.off) bytes
        let s := s.pokes .unit m [s.peek .unit m ||| 2, age]
        if span = 0 then s.farCount 2 1 else s

/-- The catch-up's records are whole (R430): they are added into G of the other parity, and the next boundary is an admission apply. -/
def State.caughtUp (s : State) (c rc : Nat) : State :=
  let bl := s.blocks
  if s.far.caught.length < bl.length then s
  else
    let g := s.area.g (1 - s.fpar)
    let s := s.far.caught.foldl (fun (s : State) (j, r) => match bl[j]? with
      | some b =>
        let vs := recValues r
        s.setBlkWords g b ((s.blkWords g b).zipIdx.map (fun (x, i) => f32Of ((f32Val x).add (recAt vs i))))
      | none => s) s
    let s := s.setRf .farRound [] 0 32 rc
    let s := s.setReg .farContrib [] (s.chan c).peerContrib
    { s with far := { s.far with admitting := true, caught := [] } }

/-- A DATA frame (R402, R403, R413, R430): rounds below FIRST are dropped before the table of R403 is read. -/
def execData (f : Fin 4) (g : Datagram) (s : State) : Ans :=
  s.receive f.val 1 g (fun c v h pt s =>
    let r := hdrF h 16 4
    let span := h.getD 20 0
    let catchup := (h.getD 1 0).testBit 6
    if (s.chan c).duplicate v then .next ((s.farCount 1 1).toAck c v)
    else
      match splitRecords s.blocks (pt.length + 1) pt with
      | none => ub 51
      | some rs =>
        let donor := s.joining && s.flag .farAdmit [] 62 && catchup && s.rf .farAdmit [] 0 12 == c && !s.far.admitting
        if s.joining ∨ catchup ∨ s.farOn = false then
          let s := (s.track c v).toAck c v
          if donor then
            let fresh := rs.filter (fun q => !s.far.caught.any (fun o => o.1 == q.1))
            .next ({ s with far := { s.far with caught := s.far.caught ++ fresh } }.caughtUp c r)
          else .next (s.farCount 3 rs.length)
        else if roundBefore r s.farFirst then .next (((s.track c v).toAck c v).farCount 3 rs.length)
        else if roundBefore s.far.newest r then .next (s.farCount 4 1)
        else
          let s := (s.track c v).toAck c v
          let p := s.chanPidx c
          .next (rs.foldl (fun s q => s.placeRecord r span p q.1 q.2) s))

/-- A STATE frame (R413, R430). -/
def execState (f : Fin 4) (g : Datagram) (s : State) : Ans :=
  s.receive f.val 6 g (fun c v _ pt s =>
    if (s.chan c).duplicate v then .next ((s.farCount 1 1).toAck c v)
    else
      let s := (s.track c v).toAck c v
      if s.joining && s.flag .farAdmit [] 62 && s.rf .farAdmit [] 0 12 == c then
        let a := s.area
        let off := beVal (pt.take 8)
        let s := (pt.drop 16).zipIdx.foldl (fun s (b, i) =>
          let o := off + i
          if o < 4 * a.e then s.pokes .unit (a.g (1 - s.fpar) + o) [b]
          else if o < 8 * a.e then s.pokes .unit (a.mom (1 - s.fpar) + (o - 4 * a.e)) [b]
          else s) s
        let n := s.far.stateBytes + min (pt.drop 16).length (8 * a.e - off)
        .next ({ s with far := { s.far with stateBytes := n } }.progPos (s.rf .farAdmit [] 54 6) 3 n)
      else .next s)

/-- An RTT sample in microseconds (R418); samples above one second are discarded. -/
def State.rttSample (s : State) (c : Nat) (x : Int) : State :=
  if x < 0 ∨ 1000000 < x then s
  else if (s.chan c).rtt then
    let srtt : Int := s.rf .farChanRtt [c] 32 32
    let var : Int := s.rf .farChanRtt [c] 0 32
    let var' := var + (((x - srtt).natAbs : Int) - var).tdiv 4
    let srtt' := srtt + (x - srtt).tdiv 8
    s.setReg .farChanRtt [c] (srtt'.toNat * 2 ^ 32 + var'.toNat)
  else
    (s.setReg .farChanRtt [c] (x.toNat * 2 ^ 32 + x.toNat / 2)).setChan c { s.chan c with rtt := true }

/-- The ranges of an ACK. -/
def ackRanges (pt : List Nat) : List (Nat × Nat) :=
  (List.range (min 16 (pt.getD 12 0))).map (fun u => (beVal ((pt.drop (16 + 8 * u)).take 4), beVal ((pt.drop (20 + 8 * u)).take 4)))

/-- Whether a sequence lies in a range. -/
def inRange (q : Nat) (r : Nat × Nat) : Bool := !serialBefore 32 q r.1 && serialBefore 32 q r.2

/-- How many sequences of the ranges lie above one (R420). -/
def reportedAbove (rs : List (Nat × Nat)) (q : Nat) : Nat :=
  (rs.map (fun r => if serialBefore 32 q r.1 then roundSub r.2 r.1 else if serialBefore 32 q r.2 then roundSub r.2 q - 1 else 0)).sum

/-- An ACK frame (R418, R420). -/
def execAckFrame (f : Fin 4) (g : Datagram) (s : State) : Ans :=
  s.receive f.val 2 g (fun c v _ pt s =>
    let s := s.track c v
    let cum := beVal (pt.take 4)
    let echo := beVal ((pt.drop 4).take 4)
    let hold := beVal ((pt.drop 8).take 4)
    let rs := ackRanges pt
    let x := s.chan c
    let s := match x.frames.find? (fun q => q.seq % 2 ^ 32 == echo) with
      | some q => if q.sends = 1 then s.rttSample c ((usSince s.time q.sentAt : Int) - hold) else s
      | none => s
    let acked (q : FarFrame) : Bool := serialBefore 32 (q.seq % 2 ^ 32) cum || rs.any (inRange (q.seq % 2 ^ 32))
    let left := x.frames.filter (fun q => !acked q)
    let lost (q : FarFrame) : Bool := q.sends == 1 && !q.lost && 3 ≤ reportedAbove rs (q.seq % 2 ^ 32)
    let dark := s.chanSt c == 3
    let x := s.chan c
    .next (s.setChan c { x with
      frames := if dark then left else left.map (fun q => if lost q then { q with lost := true } else q)
      lossSeen := x.lossSeen || (!dark && left.any lost)
      gotAck := x.gotAck || dark }))

/-- A PROBE is answered by an ECHO (R421). -/
def execProbe (f : Fin 4) (g : Datagram) (s : State) : Ans :=
  s.receive f.val 3 g (fun c v _ pt s =>
    .next ((s.track c v).sendControl c 4 (pt.take 8 ++ List.replicate 8 0)))

/-- An ECHO (R418). -/
def execEcho (f : Fin 4) (g : Datagram) (s : State) : Ans :=
  s.receive f.val 4 g (fun c v _ pt s =>
    .next ((s.track c v).rttSample c ((usSince s.time (beVal (pt.take 8)) : Int) - beVal ((pt.drop 8).take 4))))

/-- A HELLO (R423, R426, R428, R430). Each request for admission begins anew with the next committed boundary, in whatever state the channel is. -/
def execHello (f : Fin 4) (g : Datagram) (s : State) : Ans :=
  s.receive f.val 5 g (fun c v _ pt s =>
    let s := s.track c v
    let round := beVal (pt.take 4)
    let admitting := (pt.getD 6 0).testBit 0
    let s := if admitting then s.abandon c (fun j => j.cls == 2 || j.catchup) else s
    let x := s.chan c
    let s := s.setChan c { x with
      peerSpan := beVal ((pt.drop 4).take 2), peerContrib := beVal ((pt.drop 8).take 8)
      gotHello := x.gotHello || s.chanSt c == 3
      donor := if admitting then 1 else x.donor
      catchSlot := if admitting then none else x.catchSlot
      jobs := if admitting then x.jobs.filter (fun j => j.cls != 2 && !j.catchup) else x.jobs }
    if s.chanSt c = 1 then
      let d := min (roundSub round s.farRoundNo) (roundSub s.farRoundNo round)
      if d ≤ s.farLag then .next ((s.goLive c).sendHello c false true) else .next (s.goStale c)
    else .next s)

/-! ### Sending (R415, R419-R421) -/

/-- MTU of a channel; as what one outside 1,280 to 9,216 acts the spec does not state (log 52). -/
def State.chanMtu (s : State) (c : Nat) : Nat :=
  let m := s.rf .farChanCfg [c] 0 14
  if 1280 ≤ m ∧ m ≤ 9216 then m else Config.fieldAs 4 m

/-- The size in bytes of the text that a channel's frames may have (R411, R442). -/
def State.textLimit (s : State) (c : Nat) : Nat :=
  let m := s.chanMtu c - 96
  match s.cipLimit (s.chanPort c) c with
  | some k => min m k / 16 * 16
  | none => m / 16 * 16

/-- Takes whole records up to a size: their number and bytes. -/
def takeRecords (limit : Nat) : List (List Nat) → Nat × List Nat
  | [] => (0, [])
  | r :: rs =>
    if r.length ≤ limit then
      let (n, b) := takeRecords (limit - r.length) rs
      (n + 1, r ++ b)
    else (0, [])

/-- The next text of a job, how far the job moves, and whether it is then framed whole. -/
def State.jobText (s : State) (c : Nat) (j : TxJob) : List Nat × Nat × Bool :=
  let lim := s.textLimit c
  if j.cls = 2 then
    let n := min (lim - 16) (j.img.length - j.next)
    (beBytes 8 j.next ++ List.replicate 8 0 ++ (j.img.drop j.next).take n ++ List.replicate ((16 - n % 16) % 16) 0, n, j.img.length ≤ j.next + n)
  else
    let recs := if j.cls = 0 then (s.ownFrom j.round j.next).map Prod.snd else j.recs.drop j.next
    let (n, b) := takeRecords lim recs
    (b, n, recs.length ≤ n)

/-- Whether a channel may frame a job's class now (R415, R424, R426, R428, R430). -/
def State.mayFrame (s : State) (c : Nat) (jobs : List TxJob) (j : TxJob) : Bool :=
  let st := s.chanSt c
  if j.cls = 0 then st == 2 && !jobs.any (fun k => k.cls == 1 && !k.catchup)
  else if j.cls = 1 && !j.catchup then st == 4
  else st == 2 || st == 5

/-- The limits of R415 for a frame of a size. -/
def State.quotaOk (s : State) (c x size : Nat) : Bool :=
  s.chanUse c + size ≤ s.rf .farChanQuota [c] 12 36 * 4096 && s.classUse x + size ≤ s.rf .farClassQ [x] 12 36 * 4096
    && s.fbufUse + size ≤ s.rf .farFbuf [] 0 8 * 2 ^ 30

/-- The job whose next frame is admitted: the first of its class, where the channel may frame that class and the limits admit the frame; a frame that
waits holds up its own class alone (R415). Of several classes the combined delta goes first, then the round, then the image (DESIGN CHOICE, log 38). -/
def State.nextJob (s : State) (c : Nat) : Option TxJob :=
  let jobs := (s.chan c).jobs
  [1, 0, 2].findSome? (fun x => match jobs.find? (fun j => j.cls == x) with
    | some j =>
      let t := s.jobText c j
      if s.mayFrame c jobs j && t.2.1 != 0 && s.quotaOk c x (48 + t.1.length) then some j else none
    | none => none)

/-- A job is framed whole: a combined delta releases its slot and the channel is LIVE (R423, R426); a catch-up releases its slot (R430). -/
def State.jobDone (s : State) (c : Nat) (j : TxJob) : State :=
  let x := s.chan c
  if j.cls = 1 && j.catchup then (s.setChan c { x with catchSlot := none, donor := 0 }).setChanSt c 2
  else if j.cls = 1 then (s.spanFree c).goLive c
  else s

/-- A frame is encrypted whole: it stands in the far buffer, and its job moves. -/
def State.frameSealed (s : State) (c : Nat) (z : Sealing) : State :=
  let x := s.chan c
  let jobs := if z.whole then x.jobs.erase z.job else x.jobs.map (fun k => if k = z.job then { k with next := k.next + z.n } else k)
  let s := s.setChan c { x with frames := x.frames ++ [z.frame], jobs := jobs, sealing := none }
  if z.whole then s.jobDone c z.job else s

/-- The engine encrypts the next segment of 512 bytes of a channel's frame (R435), or its last: its state stands in the context until then (R445). -/
def State.nextSegment (s : State) (c : Nat) (z : Sealing) : State :=
  let f := s.chanPort c
  match s.ctxGet f c 0 with
  | (none, s) => s
  | (some b, s) =>
    let done := z.done + 512
    if z.frame.body.length ≤ done + 16 then (s.ctxUpdate f c 0 (ctxIdle b)).frameSealed c z
    else (s.ctxUpdate f c 0 (ctxInFrame b c (aadOf z.frame.hdr) z.frame done)).setChan c { s.chan c with sealing := some { z with done := done } }

/-- Encrypts a segment of the channel's next frame into the far buffer, when the limits and the engine allow it (R415, R434, R435); a frame of more than one
segment is sealed by as many of these commands, between which control frames and operations of the engine may go. -/
def execFrameAdmit (c : Fin 4096) (s : State) : Ans :=
  let c := c.val
  if s.farHeld then .next s
  else
    match (s.chan c).sealing with
    | some z => .next (if s.cipReady (s.chanPort c) then s.nextSegment c z else s)
    | none =>
      match s.nextJob c with
      | none => .next s
      | some j =>
        let (text, n, whole) := s.jobText c j
        let typ := if j.cls = 2 then 6 else 1
        let hdr := s.farHeader c typ (64 * bit j.catchup) text.length j.round j.span j.cls
        match s.cipSeal (s.chanPort c) c hdr text with
        | (none, s) => .next s
        | (some z, s) =>
          let z : Sealing := ⟨⟨z.seq, j.cls, hdr z.seq, z.text ++ z.tag, 0, 0, false⟩, 0, j, n, whole⟩
          .next (if text.length ≤ 512 then s.frameSealed c z else s.nextSegment c z)

/-- A health test of an engine fails (R464): the frames that it was encrypting are abandoned; one whose sequence is the last that was taken gives it back
(R438). -/
def execCipEntropyFail (f : Fin 4) (test : Fin 3) (s : State) : Ans :=
  let f := f.val
  let mine := s.far.chans.filter (fun e => s.chanPort e.1 == f)
  .next ((mine.foldl (fun (s : State) (e : Nat × Chan) =>
    match e.2.sealing, s.cip.cache.find? (fun r => r.isFor f e.1 0) with
    | some z, some r =>
      let s := s.abandon e.1 (fun _ => true)
      if ctxSeq r.bytes = z.frame.seq + 1 then s.ctxUpdate f e.1 0 (ctxSet (ctxIdle r.bytes) 80 8 z.frame.seq) else s
    | _, _ => s.abandon e.1 (fun _ => true)) s).entropyFails f test.val)

/-- The window in bytes (R419): CUR in kB/s times a time in microseconds. -/
def State.farWindow (s : State) (c : Nat) : Nat :=
  s.rf .farChanRate [c] 32 32 * (s.rf .farChanRtt [c] 32 32 + 4 * s.rf .farChanRtt [c] 0 32) / 1000

/-- Bytes in flight (R419). -/
def Chan.inFlight (x : Chan) : Nat := ((x.frames.filter (fun f => 0 < f.sends)).map FarFrame.size).sum

/-- Whether a channel sends its stored frames now (R423, R424). -/
def State.mayTransmit (s : State) (c : Nat) : Bool :=
  let st := s.chanSt c
  (st == 2 || st == 4 || st == 5) && s.farLink (s.chanPort c) && s.rf .farChanRate [c] 0 32 != 0

/-- Sends a stored frame; a retransmission has RETX set and counts (R420). -/
def State.transmit (s : State) (c : Nat) (f : FarFrame) : State :=
  let again := 0 < f.sends
  let hdr := if again then f.hdr.zipIdx.map (fun (b, i) => if i = 1 then b ||| 0x80 else b) else f.hdr
  let x := s.chan c
  let s := s.setChan c { x with
    frames := x.frames.map (fun q => if q.seq = f.seq then { q with sends := q.sends + 1, sentAt := s.time, lost := false } else q) }
  (if again then s.farCount 0 1 else s).sendDatagram c (hdr ++ f.body)

/-- The channel sends its next frame: a lost one first, then the oldest that was never sent, within the window (R419). -/
def execFrameSend (c : Fin 4096) (s : State) : Ans :=
  let c := c.val
  let x := s.chan c
  if s.mayTransmit c = false then .next s
  else
    match x.frames.find? (·.lost) with
    | some f => .next (s.transmit c f)
    | none =>
      match x.frames.find? (fun f => f.sends == 0) with
      | some f => .next (if x.inFlight + f.size ≤ s.farWindow c then s.transmit c f else s)
      | none => .next s

/-- A frame's RTO expires: it is lost and sent again (R420). -/
def execRetransmit (c : Fin 4096) (seq : Nat) (s : State) : Ans :=
  let c := c.val
  let x := s.chan c
  match x.frames.find? (fun f => f.seq == seq && 0 < f.sends) with
  | some f =>
    if s.mayTransmit c then .next ((s.setChan c { x with lossSeen := true }).transmit c f) else .next s
  | none => .next s

/-- ACK_DELAY expires (R420): the ACK answers the oldest frame not yet acknowledged. -/
def execAckDelay (c : Fin 4096) (s : State) : Ans :=
  match (s.chan c.val).pend with
  | (v, t) :: _ => .next (s.sendAck c.val v t)
  | [] => .next s

/-- PROBE_INT passes (R421, R423, R425, R428). -/
def execProbeInt (c : Fin 4096) (s : State) : Ans :=
  let c := c.val
  match s.chanSt c with
  | 1 => .next (s.sendHello c false false)
  | 2 | 4 => .next (s.sendProbe c)
  | 3 | 5 => .next ((s.sendProbe c).sendHello c false false)
  | _ => .next s

/-- An SRTT interval ends (R419). -/
def execRateAdjust (c : Fin 4096) (s : State) : Ans :=
  let c := c.val
  let x := s.chan c
  let rate := s.rf .farChanRate [c] 0 32
  let cur := s.rf .farChanRate [c] 32 32
  if s.chanSt c = 0 then .next s
  else
    let new := if x.lossSeen then max (cur * 7 / 8) (rate / 16) else min rate (cur + rate / 32)
    .next ((s.setChan c { x with lossSeen := false }).setRf .farChanRate [c] 32 32 new)

/-! ### Enabling channels and the exchange -/

/-- A channel goes OFF (R423, R446): its frames, work and span slot are freed. -/
def State.chanOff (s : State) (c : Nat) : State := (((s.abandon c (fun _ => true)).ctxDrop c).setChan c Chan.reset).setReg .farChanState [c] 0

/-- Whether an enabled channel breaks R410 (UB-53). -/
def State.chanBad (s : State) (c : Nat) : Bool :=
  let others := s.channels.filter (· != c)
  s.peerSite c == s.farSite
    || others.any (fun o => s.peerSite o == s.peerSite c || s.rf .farChanCfg [o] 28 6 == s.rf .farChanCfg [c] 28 6)

/-- The plug-in module's low-power mode follows the port's link and its channels (R540); a module of a class above the cage's 25 W stays in it
(R541). -/
def State.cageLook (s : State) (f : Nat) : State :=
  let x := tblGet (fun _ => Cage.reset) s.isl.cages f
  let used := s.farLink f || s.channels.any (fun c => s.chanPort c == f)
  let x := { x with lowPower := !used || 25 < x.watts.getD 0 }
  { s with isl := { s.isl with cages := tblSet (fun _ => Cage.reset) s.isl.cages f x } }

/-- Whether a far port's plug-in module can raise its link: present, out of reset, out of low-power mode (R540, R541). -/
def State.cageLinks (s : State) (f : Nat) : Bool :=
  let x := tblGet (fun _ => Cage.reset) s.isl.cages f
  x.watts.isSome && !x.inReset && !x.lowPower

/-- A write of FAR.CHAN_CFG (R410, R414, R423, R446, R450); the first channel of a port releases its plug-in module (R540). -/
def State.chanCfgWrite (s : State) (c : Nat) (acc : Acc) (v : Nat) : Ans :=
  let old := s.reg .farChanCfg [c]
  let s' := s.ctlApply .farChanCfg [c] acc v
  let new := s'.reg .farChanCfg [c]
  let was := fld old 63 1 == 1
  let now := fld new 63 1 == 1
  if was && now then (if old = new then .next s' else ub 53)
  else if was then (if old = setBits new 63 1 1 then .next ((s'.chanOff c).cageLook (s'.chanPort c)) else ub 53)
  else if now then
    if s'.ctxSpoilt c then ub 1
    else if s'.ctxEnableOk c = false then .next ((s'.setRf .farChanCfg [c] 63 1 0).raiseChan c 0x0603 0 0 0)
    else if s'.chanBad c then ub 53
    else if s'.fbufBad then ub 54
    else
      let s' := (s'.setChan c Chan.reset).setReg .farChanState [c] (2 ^ 61)
      .next (((s'.setRf .farChanRate [c] 32 32 (s'.rf .farChanRate [c] 0 32)).setReg .farChanRtt [c] 0).cageLook (s'.chanPort c))
  else .next s'

/-- A quota that lies below its use raises FAR_QUOTA (R416). -/
def State.quotaEvent (s : State) (kind idx use quota : Nat) : State :=
  if quota < use then s.raise 0x0507 0 kind idx use quota else s

/-- ENABLE of FAR.CFG becomes 1 (R396, R402). -/
def State.farEnable (s : State) : State :=
  let a := s.area
  let s := (s.copyMasters (a.g 0)).copyMasters a.bas
  let s := (s.zeroes (a.mom 0) (4 * a.e)).zeroes a.resid (4 * a.e)
  let s := s.zeroAllMaps.zeroSpans
  let r := s.farRoundNo
  let s := (s.setRf .farStatus [] 6 1 0).setRf .farRound [] 32 32 r
  { s with far := { s.far with old := r, newest := r, admitting := false, fixed := none } }

/-! ### The boundary of a round (R388-R392, R401, R402, R417) -/

/-- A channel's part of a round end (R389, R424, R426, R428). -/
def State.stageRound (s : State) (n c : Nat) : State :=
  let x := s.chan c
  match s.chanSt c with
  | 1 | 2 | 4 => s.setChan c { x with jobs := x.jobs ++ [⟨0, n, 0, false, [], 0, [], []⟩] }
  | 3 =>
    match x.slot with
    | some _ => s.spanAdd c n (s.ownFrom n 0)
    | none => s.spanRound c n
  | _ => s

/-- The device posts the entries of its boundary's next part into its queue (R399): how many the spec does not say (log 38). -/
def State.postWork (s : State) : State :=
  let q := s.applyQueue
  let (w, s) := s.takeWord
  let n := 1 + w.toNat % 64
  { s with far := { s.far with posted := s.far.posted + n } }.setRf .drvQueueTail [q] 0 32 (s.rf .drvQueueTail [q] 0 32 + n)

/-- Those entries have run: HEAD has passed them (R281). After a reset, which empties the queue, the device has posted them anew (R521). -/
def State.workDone (s : State) : State :=
  let q := s.applyQueue
  let s := if s.far.posted = 0 then s.postWork else s
  { s with far := { s.far with posted := 0 } }.setRf .drvQueueHead [q] 0 32 (s.rf .drvQueueTail [q] 0 32)

/-- A round ends (R388, R389): NEXT_END advances and ROUNDEND begins. -/
def State.roundEnd (s : State) : State :=
  let n := s.farRoundNo
  let s := s.setReg .farNextEnd [] ((s.rf .farNextEnd [] 0 48 + s.rf .farCfg [] 17 17) % 2 ^ 48)
  let due := s.far.admitting || (!s.joining && !roundBefore (roundSub n s.farLag) s.farFirst)
  let s := s.setReg .farApplyWait [] (bit due * 2 ^ 63 + bit s.far.admitting * 2 ^ 62 + n)
  let s := { s with far := { s.far with failed := false } }
  (s.setPhase 1).postWork

/-- The work of ROUNDEND (R389): the round is sheared and staged; a joining module makes no records (R430). -/
def State.roundWork (s : State) : State :=
  let n := s.farRoundNo
  if s.joining then s else s.channels.foldl (fun s c => s.stageRound n c) (s.shearAll n)

/-- What a LIVE channel has not framed of the applied round is discarded and counted (R417); other channels drop theirs. -/
def State.unsent (s : State) (k : Nat) : State :=
  let nb := s.blocks.length
  s.channels.foldl (fun s c =>
    let old (j : TxJob) : Bool := j.cls == 0 && !roundBefore k j.round
    let s := s.abandon c old
    let x := s.chan c
    let n := (((s.chan c).jobs.filter old).map (fun j => nb - j.next)).sum
    let s := s.setChan c { x with jobs := x.jobs.filter (fun j => !old j) }
    if s.chanSt c = 2 then s.farCount 5 n else s) s

/-- Whether a fold apply under DIG would write a partial chunk (R279, UB-37). -/
def State.digestPartial (s : State) : Bool :=
  s.flag .farApplyCfg [] 41 && s.blocks.any (fun b =>
    let a := s.ringSlot b.seg.ledger (s.cv + 1) + b.seg.master + 4 * b.first
    let o := s.reg .drvDigestOrigin [s.rf .farApplyCfg [] 33 8]
    a < o || (a - o) % 64 != 0 || 4 * b.n % 64 != 0)

/-- The writes of APPLY (R389, R405, R430). -/
def State.applyWrites (s : State) : State :=
  if s.flag .farApplyWait [] 62 then s.admitApply else s.foldApply (roundSub s.farRoundNo s.farLag)

/-- The boundary ends: ROUND becomes the next round (R388). -/
def State.boundaryEnd (s : State) : State :=
  (s.setRf .farRound [] 0 32 ((s.farRoundNo + 1) % 2 ^ 32)).setPhase 0

/-- Whether memory that the boundary's work reaches is held (R509, R519): the fold area, slots of the segments' entries, the entries. -/
def State.boundaryHeld (s : State) : Bool :=
  let by_ : Issuer := .queue s.applyQueue
  s.rangeHeld by_ (s.rf .farArea [] 12 36 * 4096) (s.reg .farAreaSize [])
    || s.segs.any (fun g => [s.cv, s.cv + 1].any (fun v => s.rangeHeld by_ (s.ringSlot g.ledger v) (s.slotBytes g.ledger)))
    || s.entriesHeld (s.segs.map (fun g => g.ledger))

/-- Whether the queue runs the boundary's entries (R264, R281, R399, R400): it is enabled, has come to them, and a main engine of its die has room. After a
reset the boundary resumes when the queue is enabled again (R521). -/
def State.boundaryOn (s : State) : Bool :=
  let q := s.applyQueue
  let d := s.rf .drvQueueCtrl [q] 27 3
  s.flag .drvQueueCtrl [q] 0 && (s.rf .drvQueueTail [q] 0 32 + 2 ^ 32 - s.rf .drvQueueHead [q] 0 32) % 2 ^ 32 == s.far.posted
    && (s.drvEngine d false).isSome && !s.dieDown d && !s.boundaryHeld

/-- Whether that queue, enabled, is not as R400 says it must be: a main-class queue, LOG2N at least 6. -/
def State.queueUnfit (s : State) : Bool :=
  let q := s.applyQueue
  s.flag .drvQueueCtrl [q] 0 && (s.flag .drvQueueCtrl [q] 30 || s.rf .drvQueueCtrl [q] 16 5 < 6)

/-- Whether the apply that the boundary needs may run: no fold apply runs while the module joins, an admission apply does (R430). -/
def State.applyMay (s : State) : Bool := s.flag .farApplyWait [] 62 || !s.joining

/-- A boundary without an apply ends (R389, R402): the committed masters are in BASE, and outside an admission NEW advances. -/
def State.boundaryPlain (s : State) : State :=
  let n := s.farRoundNo
  let s := (s.setRf .farApplyWait [] 63 1 0).copyMasters s.area.bas
  let s := if s.joining then s else ({ s with far := { s.far with newest := (n + 1) % 2 ^ 32 } }).zeroMaps (n + 1)
  s.boundaryEnd

/-- APPLY begins (R389, R390), for the first time or again after an abort. -/
def State.applyBegins (s : State) : State :=
  let s := (s.setPhase 2).postWork
  if s.flag .farApplyWait [] 62 then s.applyClaim else s.foldBegin (roundSub s.farRoundNo s.farLag)

/-- ROUNDEND finishes, its work done (R389, R401, R402): APPLY begins, or the boundary ends. -/
def State.roundendDone (s : State) : Ans :=
  if s.phase ≠ 1 then .next s
  else if s.queueUnfit then ubR4
  else if s.boundaryOn = false then .next s
  else
    let s := s.workDone.roundWork
    if s.flag .farApplyWait [] 63 && s.applyMay then
      if s.digestPartial then ub 37
      else if s.flag .farApplyWait [] 62 then s.applyBegins.done
      else
        let k := roundSub s.farRoundNo s.farLag
        let s := { s with far := { s.far with old := (k + 1) % 2 ^ 32 } }
        (s.unsent k).applyBegins.done
    else s.boundaryPlain.done

/-- APPLY finishes, its writes done (R389); a fold apply that an admission has overtaken, or an admission apply whose admission has failed, is dropped
(R430). -/
def State.applyEnds (s : State) : Ans :=
  if s.phase ≠ 2 then .next s
  else if s.queueUnfit then ubR4
  else if s.boundaryOn = false then .next s
  else
    let s := s.workDone
    if s.applyMay then (s.applyWrites.applyDone.setPhase 3).done
    else ((s.progEnd s.far.applySlot 2 false).boundaryPlain).done

/-- The image of an admission (R430): G, then MOM, of the committed parity. -/
def State.admitImage (s : State) : List Nat :=
  let a := s.area
  s.peeks .unit (a.g s.fpar) (4 * a.e) ++ s.peeks .unit (a.mom s.fpar) (4 * a.e)

/-- A donor channel's part of a committed boundary of round `n` (R430). -/
def State.donorStep (s : State) (n c : Nat) : State :=
  let x := s.chan c
  let a := s.area
  match x.donor with
  | 1 =>
    match s.freeSlot with
    | some i =>
      let s := s.zeroes (a.span i) (4 * a.e)
      s.setChan c { x with catchSlot := some i, donor := 2, jobs := x.jobs ++ [⟨2, n, 0, false, [], 0, [], s.admitImage⟩] }
    | none => s
  | 2 =>
    match x.catchSlot with
    | some i =>
      let s := s.far.applyU.zipIdx.foldl (fun s (u, k) => s.setWord (a.span i + 4 * k) (f32Add (s.word (a.span i + 4 * k)) (f32w u))) s
      if x.jobs.any (fun j => j.cls == 2) || x.frames.any (fun f => f.cls == 2) then s
      else
        let (recs, s) := s.shearSlot i n
        s.setChan c { x with donor := 3, jobs := x.jobs ++ [⟨1, n, 0, true, [], 0, recs, []⟩] }
    | none => s
  | _ => s

/-- The admission apply commits (R402, R430). -/
def State.admitCommitted (s : State) : State :=
  let n := s.farRoundNo
  let r := (n + 1) % 2 ^ 32
  let s := (s.setRf .farStatus [] 6 1 (1 - s.fpar)).setRf .farStatus [] 7 1 0
  let s := (s.setRf .farAdmit [] 60 2 1).setRf .farAdmit [] 62 1 0
  let s := s.channels.foldl (fun s c => if s.chanSt c = 6 then s.setChanSt c 2 else s) s
  let s := s.progEnd (s.rf .farAdmit [] 54 6) 3 true
  let s := s.channels.foldl (fun s c => s.donorStep n c) s
  let s := s.boundaryEnd.setRf .farRound [] 32 32 r
  let s := { s with far := { s.far with old := r, newest := r, admitting := false } }
  s.zeroAllMaps.raiseChan (s.rf .farAdmit [] 0 12) 0x0504 0 r 0

/-- The fold apply of round `n - L` commits (R401, R406). -/
def State.foldCommitted (s : State) : State :=
  let n := s.farRoundNo
  let k := roundSub n s.farLag
  let s := s.setRf .farStatus [] 6 1 (1 - s.fpar)
  let s := s.setReg .farContrib [] ((s.reg .farContrib [] + s.far.applyCount) % 2 ^ 64)
  let s := { s with far := { s.far with newest := (n + 1) % 2 ^ 32, fixed := none } }
  let s := s.zeroMaps k
  let s := s.raise 0x0506 0 0 0 k s.far.applyCount
  let s := s.channels.foldl (fun s c => s.donorStep n c) s
  s.boundaryEnd

/-- What a resolution of a fold-apply wave does to the boundary (R389, R402, R406, R430): an apply that aborted runs again, but for one that an
admission has overtaken; nothing of an admission that has failed meanwhile is applied. -/
def State.boundaryResolved (s : State) (committed : Bool) : State :=
  if s.phase ≠ 3 then s
  else if s.far.failed then s.boundaryPlain
  else if committed then (if s.flag .farApplyWait [] 62 then s.admitCommitted else s.foldCommitted)
  else if s.applyMay then s.applyBegins
  else s.boundaryPlain

/-! ### Admission (R430) -/

/-- A write of 1 to FAR.ADMIT.START. -/
def State.admitStart (s : State) : State :=
  if s.flag .farAdmit [] 62 then s
  else
    let a := s.area
    let c := s.rf .farAdmit [] 0 12
    let s := ((s.setRf .farStatus [] 7 1 1).setRf .farAdmit [] 62 1 1).setRf .farAdmit [] 60 2 0
    let s := (s.zeroes a.resid (4 * a.e)).zeroSpans.zeroAllMaps
    let s := s.channels.foldl (fun s c =>
      let s := s.abandon c (fun _ => true)
      let x := s.chan c
      let s := s.setChan c { x with jobs := [], frames := [], rounds := [], catchSlot := none, donor := 0 }
      let st := s.chanSt c
      if st = 2 ∨ st = 4 ∨ st = 5 then (s.setChan c { s.chan c with slot := none }).setChanSt c 6
      else s.setRf .farChanState [c] 46 8 0) s
    let s := { s with far := { s.far with admitting := false, caught := [], stateBytes := 0, fixed := none } }
    let s := s.progClaim (s.rf .farAdmit [] 54 6) 3 0 (8 * a.e)
    if s.chanOn c then s.sendHello c true false else s

end Sys2Proof.Machine
end

