-- ==== Sys2Proof/Machine/Net.lean ====
section
/-!
DEFINITION. The near fabric: ports (R341-R343), routing and sending (R344-R353), remote copies (R355, R356) and shard transfers (R385).
-/
namespace Sys2Proof.Machine

/-! ### Ports -/

/-- The module's number. -/
def State.selfId (s : State) : Nat := s.rf .denModule [] 0 14

/-- STATE of a port: 0 DOWN, 1 TRAINING, 2 UP, 3 UP_HALF, 4 FAILED. -/
def State.portSt (s : State) (n : Nat) : Nat := s.rf .denPortStatus [n] 0 3
def State.setPortSt (s : State) (n v : Nat) : State := s.setRf .denPortStatus [n] 0 3 v
def State.portOn (s : State) (n : Nat) : Bool := s.flag .denPortCtrl [n] 0

/-- Whether a port carries messages. -/
def State.portUsable (s : State) (n : Nat) : Bool := s.portSt n == 2 || s.portSt n == 3

/-- A port's event with its peer (R342, R343). -/
def State.raisePort (s : State) (n code : Nat) : State := s.raise code 0 4 n (s.rf .denPortStatus [n] 50 14) 0

/-- No lane of a port holds lock: LOCK reads 0, the margins stay as training measured them. -/
def State.lockLost (s : State) (n : Nat) : State := s.setReg .denLaneStatus [n] (s.reg .denLaneStatus [n] &&& 0x7F7F7F7F7F7F7F7F)

/-- A port enters DOWN, its lanes without lock; from UP or UP_HALF it sets WENT_DOWN and raises LINK_DOWN (R343). -/
def State.portDown (s : State) (n : Nat) : State :=
  let s := s.lockLost n
  if s.portUsable n then ((s.setPortSt n 0).setRf .denPortStatus [n] 8 1 1).raisePort n 0x0402 else s.setPortSt n 0

/-- A write of PORT_CTRL (R342): ENABLE becoming 1 starts training, ENABLE 0 holds the port DOWN, RETRAIN takes it DOWN and trains again. -/
def State.portCtrlWrite (s : State) (n : Nat) (acc : Acc) (v : Nat) : State :=
  let was := s.portOn n
  let s := s.ctlApply .denPortCtrl [n] acc v
  if s.portOn n = false then (if was then s.portDown n else s)
  else if was = false then s.setPortSt n 1
  else if (accBits acc v).testBit 1 then (s.portDown n).setPortSt n 1
  else s

/-- A peer's training reaches an enabled port that is DOWN or FAILED (R342). -/
def execPeerTraining (n : Fin 32) (s : State) : Ans :=
  if s.portOn n.val && (s.portSt n.val == 0 || s.portSt n.val == 4) then .next (s.setPortSt n.val 1) else .next s

/-- Training ends (R341, R342). Four good lanes do only under HALF_OK. A peer with this module's ID that is not another port of this module breaks
R344. -/
def execLinkUp (n : Fin 32) (e : TrainEnd) (peer peerPort lanes : Nat) (s : State) : Ans :=
  let n := n.val
  if s.portSt n ≠ 1 then .next s
  else if e ≠ .failed ∧ peer = s.selfId ∧ (peerPort = n ∨ s.portSt peerPort = 0 ∨ s.portSt peerPort = 4) then ub 45
  else
    let s := s.setReg .denLaneStatus [n] lanes
    let half := s.flag .denPortCtrl [n] 2
    match e with
    | .failed => .next (s.setPortSt n 4)
    | .upHalf =>
      if half then
        .next (((((s.setPortSt n 3).setRf .denPortStatus [n] 50 14 peer).setRf .denPortStatus [n] 45 5 peerPort)).raisePort n 0x0401)
      else .next (s.setPortSt n 4)
    | .up => .next (((((s.setPortSt n 2).setRf .denPortStatus [n] 50 14 peer).setRf .denPortStatus [n] 45 5 peerPort)).raisePort n 0x0401)

/-- A flit is retransmitted (R343). -/
def execFlitRetransmit (n : Fin 32) (s : State) : Ans :=
  if s.portUsable n.val then .next (s.tallyAdd (regOff .denRetry []) 1) else .next s

/-- Retransmission fails or the lanes lose lock (R343). -/
def execLinkDown (n : Fin 32) (s : State) : Ans :=
  if s.portUsable n.val then .next (s.portDown n.val) else .next s

/-- A 1 µs window of a port ends with more than 4,288 DAWN bytes (R353). -/
def execDawnOver (n : Fin 32) (bytes : Nat) (s : State) : Ans :=
  if 4288 < bytes then .next ((s.setRf .denPortStatus [n.val] 9 1 1).raise 0x0403 0 4 n.val bytes 0) else .next s

/-! ### Routing (R345, R346, R348) -/

/-- The active bank's entry for a module. -/
def State.route (s : State) (m : Nat) : Nat := if s.flag .denRouteCtrl [] 0 then s.reg .denRouteB [m] else s.reg .denRouteA [m]

/-- Whether a message for a module is delivered here. -/
def State.isLocal (s : State) (m : Nat) : Bool := fld (s.route m) 63 1 == 1 && fld (s.route m) 32 1 == 1

/-- The usable ports of an entry's mask. -/
def State.routePorts (s : State) (m : Nat) : List Nat :=
  if fld (s.route m) 63 1 = 1 then (List.range 32).filter (fun n => fld (s.route m) n 1 == 1 && s.portUsable n) else []

/-- One more unreachable message. -/
def State.unreach (s : State) : State := s.tallyAdd (regOff .denUnreach []) 1

/-- A message waits at an output port for its arbiter; DATELINE moves it to channel 1. An emergency quiesce holds the transmitter idle (R509). -/
def State.leave (s : State) (n : Nat) (m : NetMsg) : State :=
  if s.isl.quiesced.contains (n / 4) then s
  else { s with net := { s.net with ready := s.net.ready ++ [(n, { m with vc := m.vc || s.flag .denPortCtrl [n] 3 })] } }

/-! ### The arbiter (R349) -/

/-- The 64-byte flits of a message, header included; of a remote copy's data each code counts as a byte (DESIGN CHOICE, log 33). -/
def NetMsg.flits (m : NetMsg) : Nat :=
  let n := match m.body with
    | .partialSum c | .resultChunk c => c.payload.length
    | .remote _ _ (.put _ _ x) | .remoteData _ x => x.codes.length + x.scales.length
    | .shardData _ b => b.length
    | _ => 0
  (32 + n + 63) / 64

/-- The place of NOON, DUSK and NIGHT among the weights. -/
def classIdx : NetClass → Nat
  | .noon => 0
  | .dusk => 1
  | _ => 2

/-- Takes one flit from the queue of a class, and the message that it ends. -/
def takeFlit (qs : List (List (Nat × NetMsg))) (i : Nat) : Option NetMsg × List (List (Nat × NetMsg)) :=
  match qs.getD i [] with
  | (n + 2, m) :: r => (none, qs.set i ((n + 1, m) :: r))
  | (_, m) :: r => (some m, qs.set i r)
  | [] => (none, qs)

/-- The weighted round robin of NOON, DUSK and NIGHT (R349), flit by flit: `turn` is what the present round leaves each class; a class of weight 0 sends
when no other has a flit, of two such the first of NOON, DUSK, NIGHT (DESIGN CHOICE, log 51). The messages in the order in which their last flits leave; the fuel counts the flits and the rounds. -/
def arbGo (w : List Nat) : Nat → List Nat → List (List (Nat × NetMsg)) → List NetMsg × List Nat
  | 0, turn, qs => (qs.flatMap (fun q => q.map Prod.snd), turn)
  | k + 1, turn, qs =>
    let live := [0, 1, 2].filter (fun i => !(qs.getD i []).isEmpty)
    let heavy := live.filter (fun i => w.getD i 0 != 0)
    match heavy.filter (fun i => turn.getD i 0 != 0), heavy, live with
    | i :: _, _, _ =>
      let (o, qs) := takeFlit qs i
      let (ms, turn) := arbGo w k (turn.set i (turn.getD i 0 - 1)) qs
      (o.toList ++ ms, turn)
    | [], _ :: _, _ => arbGo w k w qs
    | [], [], i :: _ =>
      let (o, qs) := takeFlit qs i
      let (ms, turn) := arbGo w k turn qs
      (o.toList ++ ms, turn)
    | [], [], [] => ([], turn)

/-- One port sends the messages that wait for it: DAWN first, the other classes in the weights of DEN.ARB. -/
def State.arbPort (s : State) (n : Nat) (ms : List NetMsg) : State :=
  let (dawn, rest) := ms.partition (fun m => m.cls == .dawn)
  let w := [s.rf .denArb [] 8 4, s.rf .denArb [] 4 4, s.rf .denArb [] 0 4]
  let (sent, turns) : List NetMsg × Tbl (List Nat) := match rest with
    | [] => ([], s.net.turns)
    | [m] => ([m], s.net.turns)
    | _ =>
      let qs := [0, 1, 2].map (fun i => (rest.filter (fun m => classIdx m.cls == i)).map (fun (m : NetMsg) => (NetMsg.flits m, m)))
      let (l, t) := arbGo w (2 * (rest.map NetMsg.flits).sum + 2) (tblGet (fun _ => w) s.net.turns n) qs
      (l, tblSet (fun _ => w) s.net.turns n t)
  { s with net := { s.net with turns := turns }, out := s.out ++ (dawn ++ sent).map (fun m => Out.net n m) }

/-- Every port sends what waits for it. -/
def State.arbitrate (s : State) : State :=
  match s.net.ready with
  | [] => s
  | l =>
    let s := { s with net := { s.net with ready := [] } }
    (l.map Prod.fst).eraseDups.foldl (fun s n => s.arbPort n ((l.filter (fun e => e.1 == n)).map Prod.snd)) s

/-- Sends a message on: DAWN through the lowest usable port, the other classes in turn; without a usable port it is discarded. One counter of the module
keeps the turn, whatever the destination (DESIGN CHOICE, log 51). -/
def State.forward (s : State) (m : NetMsg) : State :=
  match s.routePorts m.dst with
  | [] => s.unreach
  | p :: ps =>
    if m.cls = .dawn then s.leave p m
    else
      let s := { s with net := { s.net with rr := s.net.rr + 1 } }
      s.leave ((p :: ps).getD (s.net.rr % (ps.length + 1)) p) m

/-- Injects a message of this module for another one: at most 64 DAWN messages are outstanding (R351). -/
def State.inject (s : State) (m : NetMsg) : State :=
  if m.cls = .dawn && !(s.routePorts m.dst).isEmpty then
    if 64 ≤ s.net.dawnOut then { s with net := { s.net with dawnHeld := s.net.dawnHeld ++ [m] } }
    else { s with net := { s.net with dawnOut := s.net.dawnOut + 1 } }.forward m
  else s.forward m

/-- Held messages go out while fewer than 64 are outstanding; `ms` are the held ones in order (R351). -/
def State.release (s : State) : List NetMsg → State
  | [] => { s with net := { s.net with dawnHeld := [] } }
  | m :: ms =>
    if 64 ≤ s.net.dawnOut then { s with net := { s.net with dawnHeld := m :: ms } } else (s.inject m).release ms

/-- A delivery is acknowledged; held messages follow (R351). -/
def execDawnAck (s : State) : Ans :=
  if s.net.dawnOut = 0 then .next s
  else .next ({ s with net := { s.net with dawnOut := s.net.dawnOut - 1 } }.release s.net.dawnHeld).arbitrate

/-- Hands a message of this module to the fabric; it goes out before the command ends. -/
def State.post (s : State) (dst : Nat) (cls : NetClass) (body : NetBody) : State :=
  { s with net := { s.net with outbox := s.net.outbox ++ [⟨s.selfId, dst, cls, false, body⟩] } }

/-! ### Completing issued link instructions -/

/-- Completes the first flight of a tile that a predicate names, with a deposit. -/
def State.finishFlight (s : State) (t : Nat) (p : Flight → Bool) (dep : Option Word) : State :=
  match takeFlight p (s.tile t).flights with
  | none => s
  | some (f, rest) =>
    let s := s.setTile t { s.tile t with flights := rest }
    s.complete t (match dep with
      | some v => { f with dep := v, hasDep := true }
      | none => f)

/-- Every tile that differs from its reset record. -/
def State.liveTiles (s : State) : List Nat := s.tiles.map Prod.fst

/-- PADDOCK_LINK of a tile (R352); the code of the instruction is open (log 17). -/
def State.paddockLink (s : State) (t op : Nat) : State := s.raiseTile t 0x0404 0 (Config.openCode op).toNat

/-! ### Remote copies (R352, R355, R356) -/

/-- The traffic class of an lk.put or lk.get; a paddock tile's is NIGHT (R352, R355). -/
def State.linkClass (s : State) (t ctrl : Nat) : NetClass :=
  if s.isPaddock t then .night
  else match fld ctrl 16 2 with
    | 1 => .noon
    | 2 => .dusk
    | _ => .night

/-- Whether an address lies in HBM or a tile store (R355). -/
def linkPlace (da : Nat) : Bool := da < 2 ^ 40 || (0x200000000000 ≤ da && da < 0x200200000000)

/-- The operands of a remote copy, or the undefined case (R79, R355, UB-10, UB-48). -/
def linkPair (dst dstE src srcE : Desc) : Except UB (Tens × Option Tens × Tens × Option Tens) :=
  match Tens.pair dst dstE, Tens.pair src srcE with
  | .ok (d, de), .ok (o, oe) =>
    if d.fmt = o.fmt ∧ d.place = o.place ∧ d.rank = o.rank ∧ d.e0 = o.e0 ∧ d.e1 = o.e1 ∧ d.e2 = o.e2 ∧ d.e3 = o.e3
        ∧ (d.writeAddrs de).all linkPlace ∧ (o.writeAddrs oe).all linkPlace then
      if d.writeDup de then .error (.ub 10) else .ok (d, de, o, oe)
    else .error (.ub 48)
  | .error u, _ => .error u
  | _, .error u => .error u

/-- The codes and scale bytes of a tensor, unchanged. -/
def State.rawTens (s : State) (by_ : Issuer) (t : Tens) (ed : Option Tens) : TensorData :=
  ⟨t.indices.map (s.elemCode (.da by_) t), (t.scaleAddrs ed).map (s.peek by_)⟩

/-- What the reader of a tensor sees of it where accesses in flight are not ordered against it (R276), and the state in which it goes on. -/
def State.lookTens (s : State) (w : Actor) (by_ : Issuer) (t : Tens) (ed : Option Tens) : State × State :=
  s.look w (s.spKeys (.da by_) false (t.writeAddrs ed))

/-- Writes codes and scale bytes, unchanged; faulting bytes are recorded (R54, R55), an undefined write ends the command. -/
def State.putRaw (s : State) (w : Actor) (by_ : Issuer) (t : Tens) (ed : Option Tens) (x : TensorData) : State :=
  let as := t.writeAddrs ed
  let s := (s.recordFaults by_ true as).guardWrite by_ as
  s.checkEntries (s.raceWrite (s.putTens (.da by_) t ed x.codes x.scales) w (s.spKeys (.da by_) true as)) as

/-- Whether a put's local read is held (R519). -/
def State.putHeld (s : State) (t : Nat) (e : QEntry) : Bool :=
  match Tens.pair e.dB e.eB with
  | .ok (o, oe) => s.wrHeld (.tile t) (o.writeAddrs oe)
  | .error _ => false

/-- lk.put and lk.get issue (R355): the local tensor is checked and, for a put, read; the request goes out. A copy within the module may not write what
it reads (R274). -/
def State.issueRemote (s : State) (t : Nat) (get : Bool) (e : QEntry) : Ans :=
  match linkPair e.dA e.eA e.dB e.eB with
  | .error u => .fault (.undefined u)
  | .ok (d, de, src, srcE) =>
    let id := s.nextId
    let m := fld e.sv.toNat 0 14
    let own := src.ownBytes srcE
    if s.isLocal m && (d.writeAddrs de).any own.contains then ub 33
    else
    let cls := s.linkClass t e.ctrl
    let pad := s.isPaddock t
    let r : Remote := if get then ⟨id, t, true, e.dA, e.eA, m, cls⟩ else ⟨id, t, false, e.dB, e.eB, m, cls⟩
    let f : Flight := ⟨.lk, e.signal, 0, 0, false, false, .transfer id, Stake.none⟩
    let s := { s with nextId := id + 1, remotes := s.remotes ++ [r] }.addFlight t f
    if !get && s.rdBreach (.tile t) (src.writeAddrs srcE) then ub 40
    else if get then .next (s.post m cls (.remote id pad (.get e.dB e.eB)))
    else
      let s := s.recordFaults (.tile t) false (src.writeAddrs srcE)
      let (r, s) := s.lookTens (.unit t .lk) (.tile t) src srcE
      .next (s.post m cls (.remote id pad (.put e.dA e.eA (r.rawTens (.tile t) src srcE))))

/-- A message whose access is held waits until the die's reset ends (R509, R519). -/
def State.holdMsg (s : State) (src : Nat) (cls : NetClass) (b : NetBody) : State :=
  { s with net := { s.net with held := s.net.held ++ [⟨src, s.selfId, cls, false, b⟩] } }

/-- The held messages are taken up again. -/
def State.unhold (s : State) : State :=
  { s with net := { s.net with held := [], outbox := s.net.outbox ++ s.net.held } }

/-- A remote access is served at its target (R352, R355, R356) and answered. -/
def State.serveRemote (s : State) (src id : Nat) (cls : NetClass) (paddock : Bool) (r : RemoteReq) : Ans :=
  let by_ : Issuer := .remote paddock
  match r with
  | .put d ed x =>
    match Tens.pair d ed with
    | .error u => .fault (.undefined u)
    | .ok (t, e) =>
      if s.wrHeld by_ (t.writeAddrs e) then .next (s.holdMsg src cls (.remote id paddock r))
      else if (t.writeAddrs e).all linkPlace = false then ub 48
      else if t.writeDup e then ub 10
      else .next ((s.putRaw .other by_ t e x).post src cls (.remoteAck id))
  | .get d ed =>
    match Tens.pair d ed with
    | .error u => .fault (.undefined u)
    | .ok (t, e) =>
      if s.wrHeld by_ (t.writeAddrs e) then .next (s.holdMsg src cls (.remote id paddock r))
      else if (t.writeAddrs e).all linkPlace = false then ub 48
      else if s.rdBreach by_ (t.writeAddrs e) then ub 40
      else
        let s := s.recordFaults by_ false (t.writeAddrs e)
        let (v, s) := s.lookTens .other by_ t e
        .next (s.post src cls (.remoteData id (v.rawTens by_ t e)))

/-- A remote copy ends (R356): a get's data are written, and the instruction signals. -/
def State.remoteDone (s : State) (id : Nat) (x : TensorData) : Ans :=
  match s.remotes.find? (fun r => r.id == id) with
  | none => .next s
  | some r =>
    let fin (s : State) : State :=
      State.finishFlight { s with remotes := s.remotes.filter (fun q => q.id != id) } r.tile (fun f => f.queue == .lk && f.work == .transfer id) none
    if r.isGet then
      match Tens.pair r.local_ r.scale with
      | .error u => .fault (.undefined u)
      | .ok (t, e) =>
        if s.wrHeld (.tile r.tile) (t.writeAddrs e) then .next (s.holdMsg r.module r.cls (.remoteData id x))
        else .next (fin (s.putRaw (.unit r.tile .lk) (.tile r.tile) t e x))
    else .next (fin s)

/-! ### Shard transfer (R385) -/

/-- Pieces of at most 4 KiB of a range of addresses. -/
def pieces (a n : Nat) : List (Nat × Nat) := (List.range ((n + 4095) / 4096)).map (fun i => (a + 4096 * i, min 4096 (n - 4096 * i)))

/-- The ring slots and parity areas of the active weight entries (R385). -/
def State.shardRanges (s : State) : List (Nat × Nat) :=
  (List.range 4096).flatMap (fun n =>
    let c := s.entryLe n 0 8
    if fld c 0 1 = 1 ∧ fld c 28 4 = 1 then
      pieces (s.entryLe n 0x20 6 + s.rf .ledCommit [] 0 48 % 4 * s.entryLe n 0x28 4) (s.entryLe n 0x2C 4)
        ++ pieces (s.entryLe n 0x30 6 + s.rf .ledCommit [] 52 1 * s.entryLe n 0x38 4) (s.entryLe n 0x3C 4)
    else [])

/-- Asks the source for some ranges. -/
def State.askShard (s : State) (source : Nat) (rs : List (Nat × Nat)) : State :=
  rs.foldl (fun s r => s.post source .dusk (.shardRead r.1 r.2)) s

/-- Starts the transfer that XFER_CTRL describes. -/
def State.xferBegin (s : State) (recopy : Bool) : State :=
  let led := s.flag .denXferCtrl [] 14
  let s := ((s.setRf .denXferCtrl [] 62 1 1).setRf .denXferCtrl [] 60 2 0).setReg .denXferStatus [] 0
  let rs := if led then pieces (s.entryAddr 0) (2 ^ 20) else s.shardRanges
  let src := s.rf .denXferCtrl [] 0 14
  { s with shard := some ⟨src, rs, rs, led, recopy⟩ }.askShard src rs

/-- A write of XFER_CTRL: SOURCE and LEDGER take their values; START begins a transfer, unless one runs. -/
def State.xferCtrlWrite (s : State) (acc : Acc) (v : Nat) : State :=
  let s := s.ctlApply .denXferCtrl [] acc v
  if (accBits acc v).testBit 63 && !s.flag .denXferCtrl [] 62 then s.xferBegin false else s

/-- A range of the shard arrives (R55, R385); it is held while its die is being reset or quiesced (R509, R519). One that changes ACTIVE of an entry which an
access in flight names breaks R316. -/
def State.shardArrives (s : State) (da : Nat) (bytes : List Nat) : State :=
  match s.shard with
  | none => s
  | some x =>
    let r := (da, bytes.length)
    let as := (List.range bytes.length).map (da + ·)
    if s.wrHeld .unit as then s.holdMsg x.source .dusk (.shardData da (bytes.map (BitVec.ofNat 8)))
    else if x.ranges.contains r then
      let was := s
      let s := (s.recordFaults .unit true as).pokes .unit da bytes
      let s := if was.activeMoved s as then s.broke (.ub 41) else s
      let s := s.setReg .denXferStatus [] (s.reg .denXferStatus [] + bytes.length)
      let left := x.ranges.erase r
      if left.isEmpty && x.more then
        let rs := s.shardRanges
        { s with shard := some ⟨x.source, rs, x.all ++ rs, false, x.recopy⟩ }.askShard x.source rs
      else { s with shard := some { x with ranges := left } }
    else s

/-- A shard range is read for another module. -/
def State.serveShard (s : State) (src da n : Nat) : State :=
  let by_ : Issuer := .remote false
  let as := (List.range n).map (da + ·)
  if s.wrHeld by_ as then s.holdMsg src .dusk (.shardRead da n)
  else (s.recordFaults by_ false as).post src .dusk (.shardData da ((s.peeks by_ da n).map (BitVec.ofNat 8)))

end Sys2Proof.Machine
end

