-- ==== Sys2Proof/Machine/Red.lean ====
section
/-!
DEFINITION. Reductions on the link adders (R357-R371).
-/
namespace Sys2Proof.Machine

/-! ### The wire image (R363) -/

/-- The scale byte of a block of 32 accumulated words. -/
def wireScale (ws : List F32) : Nat :=
  if ws.any f32NonFinite then 255
  else
    let m := maxMag (ws.map (fun w => (f32Val w).toRes))
    if m.num = 0 then 127 else (max 1 (min 254 (127 + m.floorLog2))).toNat

/-- The BF16 codes of a block. -/
def wireCodes (ws : List F32) : List Nat :=
  let e := wireScale ws
  if e = 255 then ws.map (fun _ => 0x7FC0)
  else ws.map (fun w => (encodeElem .bf16 [] false (Res.shift (f32Val w).toRes (127 - (e : Int)))).1)

/-- The wire image of a chunk of partial sums. -/
def wirePartial (wire32 : Bool) (ws : List F32) : List Nat :=
  if wire32 then ws.flatMap (fun w => leBytes 4 w.toNat)
  else
    let bl := chunks 32 ws
    bl.flatMap (fun b => (wireCodes b).flatMap (leBytes 2)) ++ bl.map wireScale

/-- Bytes of the image of a chunk of `n` elements. -/
def wireLen (wire32 : Bool) (n : Nat) : Nat := if wire32 then 4 * n else 2 * n + (n + 31) / 32

/-- The values that an image of `n` elements carries. -/
def unwire (wire32 : Bool) (n : Nat) (bytes : List Nat) : List Val :=
  (List.range n).map (fun i =>
    if wire32 then f32Val (f32w (leVal ((bytes.drop (4 * i)).take 4)))
    else (Scale.ofByte (bytes.getD (2 * n + i / 32) 0)).apply (codeVal .bf16 [] (leVal ((bytes.drop (2 * i)).take 2))))

/-! ### Geometry (R357, R361) -/

/-- A ring's length, this module's position, and its neighbours. -/
structure Ring where
  len : Nat
  pos : Nat
  up : Nat
  down : Nat
  valid : Bool
  deriving DecidableEq, Repr

def State.ring (s : State) (r : Nat) : Ring :=
  let w := s.reg .denRing [r]
  ⟨fld w 42 14 + 1, fld w 28 14, fld w 14 14, fld w 0 14, fld w 63 1 == 1⟩

/-- Elements per chunk of a segment of `e` elements on a ring of `n` modules. -/
def chunkQ (e n : Nat) : Nat := 32 * ((e + 32 * n - 1) / (32 * n))

/-- The first element of a chunk in its segment, and its length. -/
def chunkAt (e n c : Nat) : Nat × Nat := (min (c * chunkQ e n) e, min ((c + 1) * chunkQ e n) e - min (c * chunkQ e n) e)

/-- The segment of a stage: its length. -/
def State.segLen (s : State) (rings : List Nat) (e : Nat) : Nat → Nat
  | 0 => e
  | k + 1 =>
    let r := s.ring (rings.getD k 0)
    (chunkAt (s.segLen rings e k) r.len r.pos).2

/-- What a stage works on: its ring, segment length, and the number of the ring. -/
def State.stageOf (s : State) (x : Ctx) (k : Nat) : Ring × Nat := (s.ring (x.rings.getD k 0), s.segLen x.rings x.e k)

/-- The product of the stage ring lengths (R358). -/
def State.expected (s : State) (x : Ctx) : Nat := (x.rings.take x.stages).foldl (fun p r => p * (s.ring r).len) 1

/-! ### Chunks -/

def Chunk.fresh (k c : Nat) : Chunk := ⟨k, c, [], 0, false, [], none, false⟩

/-- The record of a chunk of a context. -/
def Ctx.chunk (x : Ctx) (k c : Nat) : Chunk := (x.chunks.find? (fun h => h.stage == k && h.chunk == c)).getD (Chunk.fresh k c)

/-- Replaces the record of a chunk. -/
def Ctx.setChunk (x : Ctx) (h : Chunk) : Ctx :=
  { x with chunks := x.chunks.filter (fun o => !(o.stage == h.stage && o.chunk == h.chunk)) ++ [h] }

/-- The bytes that some messages of a chunk carry of an image of `n` bytes; none while a byte is missing. -/
def imageOf (n : Nat) (ms : List ChunkMsg) : Option (List Nat) :=
  (List.range n).mapM (fun i => ms.findSome? (fun m => if m.offset ≤ i then (m.payload[i - m.offset]?).map BitVec.toNat else none))

/-- The digest terms of one payload (R369). -/
def payloadTerms (key c off : Nat) (bytes : List Nat) : Nat :=
  ((chunks 64 bytes).zipIdx.map (fun (u, i) => digestTerm key (c * 2 ^ 26 + off / 64 + i) (u ++ List.replicate (64 - u.length) 0))).sum % digestP

/-- Adds to the digest of a stage. -/
def addAt (l : List Nat) (k v : Nat) : List Nat := l.zipIdx.map (fun (x, i) => if i = k then (x + v) % digestP else x)

/-- Sends one message downstream on a stage's ring and counts it into SENT (R369). -/
def State.sendChunk (s : State) (x : Ctx) (k : Nat) (isRes : Bool) (m : ChunkMsg) : Ctx × State :=
  let r := s.ring m.ring
  let s := s.post r.down .noon (if isRes then .resultChunk m else .partialSum m)
  ({ x with sent := addAt x.sent k (payloadTerms s.digestKey m.chunk m.offset (m.payload.map BitVec.toNat)) }, s)

/-- Sends a chunk's image in messages of at most 4 KiB. -/
def State.sendImage (s : State) (x : Ctx) (k c : Nat) (isRes : Bool) (counts : List Nat) (image : List Nat) : Ctx × State :=
  let ps := chunks 4096 image
  ps.zipIdx.foldl (fun (x, s) (p, i) =>
    s.sendChunk x k isRes
      { ring := x.rings.getD k 0, tag := x.tag, chunk := c, counts := counts, offset := 4096 * i, last := i + 1 = ps.length
        payload := p.map (BitVec.ofNat 8) }) (x, s)

/-- The owned value of a stage with its count, once final. -/
def Ctx.ownOf (x : Ctx) (k : Nat) : Option (List Nat × Nat) := (x.own.find? (fun o => o.1 == k)).map (fun o => o.2)

/-- This module's contribution for a chunk of a stage, with its count, once ready (R362, R365). -/
def Ctx.contribution (x : Ctx) (k first n : Nat) : Option (List Val × Nat) :=
  match k with
  | 0 => if x.gone then some ((x.g.drop first).take n, 1) else none
  | j + 1 => (x.ownOf j).map (fun o => (((o.1.drop first).take n).map (fun w => f32Val (f32w w)), o.2))

/-- The owner's final value of a stage (R362): the result of the last stage is divided by its count under MEAN. -/
def Ctx.finalise (x : Ctx) (k : Nat) (h : Chunk) (acc : List F32) (cnt : Nat) : Ctx :=
  let x := { x with own := x.own ++ [(k, acc.map BitVec.toNat, cnt)] }
  if k + 1 = x.stages then
    let ws := acc.map (fun a => if x.mean then f32Round ((f32Val a).div (.fin false cnt 0)) else a)
    x.setChunk { h with done := true, res := some (ws.map BitVec.toNat, List.replicate ws.length cnt) }
  else x.setChunk { h with done := true }

/-- What the adder does with a chunk once it can (R362, R365): start, add, or finish a forwarded chunk at its owner. -/
def State.tryAdd (s : State) (x : Ctx) (k c : Nat) : Ctx × State :=
  let (r, e) := s.stageOf x k
  let h := x.chunk k c
  let (first, n) := chunkAt e r.len c
  if h.done ∨ n = 0 then (x, s)
  else
    let con := x.contribution k first n
    let start := (c + 1) % r.len == r.pos
    let img := imageOf (wireLen x.wire32 n) h.parts
    let cin := (h.parts.headD ⟨0, 0, 0, [], 0, false, []⟩).counts.headD 0
    let out (acc : List F32) (cnt : Nat) : Ctx × State :=
      if r.pos = c then (x.finalise k h acc cnt, s)
      else
        s.sendImage (x.setChunk { h with done := true }) k c false [cnt] (wirePartial x.wire32 acc)
    match con, img with
    | some (g, cg), _ =>
      if start ∨ h.choice = 3 then out (g.map f32Of) cg
      else match img with
        | some b =>
          if h.choice = 2 then
            (if r.pos = c then (x.finalise k h ((unwire x.wire32 n b).map f32Of) cin, s) else (x, s))
          else out (List.zipWith (fun p q => f32Of (p.add q)) (unwire x.wire32 n b) g) (cin + cg)
        | none => (x, s)
    | none, some b =>
      if h.choice = 2 ∧ r.pos = c then (x.finalise k h ((unwire x.wire32 n b).map f32Of) cin, s) else (x, s)
    | none, none => (x, s)

/-- A chunk whose partial has begun and whose contribution is ready is to be added (R365). -/
def State.chooseAdd (s : State) (x : Ctx) (k c : Nat) : Ctx :=
  let (r, e) := s.stageOf x k
  let h := x.chunk k c
  let (first, n) := chunkAt e r.len c
  if h.choice = 0 ∧ !h.parts.isEmpty ∧ (x.contribution k first n).isSome then x.setChunk { h with choice := 1 } else x

/-- One ascending pass over a stage's chunks; an empty owned chunk is final at once. -/
def State.passUp (s : State) (x : Ctx) (k : Nat) : Ctx × State :=
  let (r, e) := s.stageOf x k
  let (first, n) := chunkAt e r.len r.pos
  let x := if n = 0 ∧ (x.ownOf k).isNone ∧ (x.contribution k first 0).isSome then
      x.finalise k (x.chunk k r.pos) [] ((x.contribution k first 0).getD ([], 0)).2
    else x
  (List.range r.len).foldl (fun (x, s) c => s.tryAdd (s.chooseAdd x k c) k c) (x, s)

/-- The elements of RESULT that a chunk of stage 0 fills, and their addresses. -/
def State.resultPart (s : State) (x : Ctx) (t : Tens) (c : Nat) : List Ix × List Nat :=
  let (r, e) := s.stageOf x 0
  let (first, n) := chunkAt e r.len c
  let xs := (t.indices.drop first).take n
  (xs, xs.flatMap (fun i => (List.range 4).map (fun b => ((t.addr i).1 + b) % 2 ^ 48)))

/-- Whether the write of a result chunk is held: RESULT lies in a stack of a die that is being reset or quiesced (R509, R519). -/
def State.resultHeld (s : State) (x : Ctx) (k c : Nat) : Bool :=
  k == 0 && (match Tens.ofDesc x.result with
    | .error _ => false
    | .ok t => s.wrHeld (.tile x.tile) (s.resultPart x t c).2)

/-- Takes a whole result chunk (R368): of stage 0 it is written into RESULT, under what guards every write (R71, R276, R395). -/
def State.takeResult (s : State) (x : Ctx) (k c : Nat) (ws : List Nat) : State :=
  if k ≠ 0 then s
  else
    match Tens.ofDesc x.result with
    | .error _ => s
    | .ok t =>
      let (xs, addrs) := s.resultPart x t c
      let by_ : Issuer := .tile x.tile
      let s := s.recordFaults by_ true addrs
      let s := match s.areaBreach (s.landing by_ addrs) with
        | some u => s.broke u
        | none => s
      s.raceWrite ((xs.zip ws).foldl (fun s (i, w) => s.putElem (.da by_) t i w) s) (.unit x.tile .lk) (s.spKeys (.da by_) true addrs)

/-- The result of a stage whole: the words of its chunks in order, with their counts; an empty chunk has none. -/
def State.stageResult (s : State) (x : Ctx) (k : Nat) : Option (List Nat × List Nat) :=
  let (r, e) := s.stageOf x k
  ((List.range r.len).mapM (fun c => if (chunkAt e r.len c).2 = 0 then some ([], []) else (x.chunk k c).res)).map
    (fun l => (l.flatMap Prod.fst, l.flatMap Prod.snd))

/-- The counts of a result chunk as its messages carry them: one for all elements where they agree. -/
def wireCounts (cs : List Nat) : List Nat := if cs.all (· == cs.headD 0) then cs.take 1 else cs

/-- One descending pass (R368): the own chunk of a stage goes out once final, and once its write is not held; a whole stage is the own chunk's result of the
stage before. -/
def State.passDown (s : State) (x : Ctx) (k : Nat) : Ctx × State :=
  let (r, e) := s.stageOf x k
  let h := x.chunk k r.pos
  let n := (chunkAt e r.len r.pos).2
  let whole := if k + 1 = x.stages then h.res else s.stageResult x (k + 1)
  match whole with
  | none => (x, s)
  | some (ws, cs) =>
    if n = 0 ∨ h.sentRes = true ∨ s.resultHeld x k r.pos = true then (x, s)
    else
      let x := x.setChunk { h with res := some (ws, cs), sentRes := true }
      let s := s.takeResult x k r.pos ws
      s.sendImage x k r.pos true (wireCounts cs) (ws.flatMap (leBytes 4))

/-- Lets a context do all that it now can. -/
def State.settle (s : State) (n : Nat) (x : Ctx) : State :=
  let ks := List.range x.stages
  let (x, s) := ks.foldl (fun (x, s) k => s.passUp x k) (x, s)
  let (x, s) := ks.reverse.foldl (fun (x, s) k => s.passDown x k) (x, s)
  { s with ctxs := tblSet (fun _ => none) s.ctxs n (some x) }

/-- A result chunk's words and counts, of its messages. -/
def chunkResult (len : Nat) (ms : List ChunkMsg) : Option (List Nat × List Nat) :=
  (imageOf (4 * len) ms).map (fun b =>
    let cs := (ms.getLast?.map ChunkMsg.counts).getD []
    ((chunks 4 b).map leVal, if cs.length = 1 then List.replicate len (cs.headD 0) else cs))

/-- The result chunks of a stage whose write was held and is no longer are taken (R509, R519). -/
def State.passTake (s : State) (x : Ctx) (k : Nat) : Ctx × State :=
  let (r, e) := s.stageOf x k
  (List.range r.len).foldl (fun ((x, s) : Ctx × State) c =>
    let h := x.chunk k c
    let len := (chunkAt e r.len c).2
    match h.res, chunkResult len h.resParts with
    | none, some (ws, cs) =>
      if len = 0 ∨ c = r.pos ∨ s.resultHeld x k c = true then (x, s) else (x.setChunk { h with res := some (ws, cs) }, s.takeResult x k c ws)
    | _, _ => (x, s)) (x, s)

/-- A context goes on with what was held. -/
def State.resumeCtx (s : State) (n : Nat) (x : Ctx) : State :=
  let (x, s) := (List.range x.stages).foldl (fun ((x, s) : Ctx × State) k => s.passTake x k) (x, s)
  s.settle n x

/-- Every context goes on. -/
def State.resumeCtxs (s : State) : State :=
  s.ctxs.foldl (fun s e => match e.2 with
    | some x => s.resumeCtx e.1 x
    | none => s) s

/-! ### Messages (R365, R367-R369) -/

/-- The armed context of a ring and tag, with its stage (R367). -/
def State.ctxFor (s : State) (ring tag : Nat) : Option (Nat × Ctx × Nat) :=
  s.ctxs.findSome? (fun e => match e.2 with
    | some x => if x.tag = tag then ((x.rings.take x.stages).findIdx? (· == ring)).map (fun k => (e.1, x, k)) else none
    | none => none)

/-- Counts an accepted payload into RECV. -/
def State.recvTerm (s : State) (x : Ctx) (k : Nat) (m : ChunkMsg) : Ctx :=
  { x with recv := addAt x.recv k (payloadTerms s.digestKey m.chunk m.offset (m.payload.map BitVec.toNat)) }

/-- A message for no armed context (R367). -/
def State.noCtx (s : State) : State := s.tallyAdd (regOff .denNoCtx []) 1

/-- Whether a message does not fit a chunk image of `w` bytes: the modules differ in E, rings or WIRE32 (R359). -/
def misfit (m : ChunkMsg) (w : Nat) : Bool :=
  let top := m.offset + m.payload.length
  w < top || (m.last && top != w)

/-- A partial-sum message (R362, R365, R367). -/
def State.partialArrives (s : State) (m : ChunkMsg) : Ans :=
  match s.ctxFor m.ring m.tag with
  | none => .next s.noCtx
  | some (n, x, k) =>
    let (r, e) := s.stageOf x k
    let n' := (chunkAt e r.len m.chunk).2
    if r.len ≤ m.chunk ∨ n' = 0 ∨ (m.chunk + 1) % r.len = r.pos ∨ misfit m (wireLen x.wire32 n') = true then ub 46
    else
      let h := x.chunk k m.chunk
      if h.choice = 3 then
        .next { s.tallyAdd (regOff .denLatePartial []) 1 with ctxs := tblSet (fun _ => none) s.ctxs n (some { x with late := x.late + 1 }) }
      else if h.done then ub 46
      else
        let x := (s.recvTerm x k m).setChunk { h with parts := h.parts ++ [m] }
        if h.choice = 2 ∧ r.pos ≠ m.chunk then
          let (x, s) := s.sendChunk x k false m
          .next (s.settle n x)
        else .next (s.settle n x)

/-- A result message (R368). -/
def State.resultArrives (s : State) (m : ChunkMsg) : Ans :=
  match s.ctxFor m.ring m.tag with
  | none => .next s.noCtx
  | some (n, x, k) =>
    let (r, e) := s.stageOf x k
    let len := (chunkAt e r.len m.chunk).2
    if r.len ≤ m.chunk ∨ len = 0 ∨ m.chunk = r.pos ∨ misfit m (4 * len) = true then ub 46
    else
      let h := x.chunk k m.chunk
      let ms := h.resParts ++ [m]
      let x := s.recvTerm x k m
      let (x, s) := if (r.pos + 1) % r.len = m.chunk then (x, s) else s.sendChunk x k true m
      let waits : State := { s with ctxs := tblSet (fun _ => none) s.ctxs n (some (x.setChunk { h with resParts := ms })) }
      match chunkResult len ms with
      | none => .next waits
      | some (ws, cs) =>
        if s.resultHeld x k m.chunk then .next waits else
        let x := x.setChunk { h with resParts := ms, res := some (ws, cs) }
        .next ((s.takeResult x k m.chunk ws).settle n x)

/-- D expires for a chunk at this position (R365). -/
def State.deadlinePasses (s : State) (n k c : Nat) : State :=
  match tblGet (fun _ => none) s.ctxs n with
  | none => s
  | some x =>
    let (r, e) := s.stageOf x k
    let h := x.chunk k c
    let (first, len) := chunkAt e r.len c
    if x.deadline = 0 ∨ x.stages ≤ k ∨ r.len ≤ c ∨ len = 0 ∨ h.done ∨ h.choice ≠ 0 ∨ (c + 1) % r.len = r.pos then s
    else
      let ready := (x.contribution k first len).isSome
      if ready && h.parts.isEmpty then s.settle n (x.setChunk { h with choice := 3 })
      else if !ready && !h.parts.isEmpty then
        let x := { x.setChunk { h with choice := 2 } with missed := x.missed + 1 }
        if r.pos = c then s.settle n x
        else
          let (x, s) := h.parts.foldl (fun (x, s) m => s.sendChunk x k false m) (x, s)
          s.settle n x
      else s

/-! ### lk.arm and lk.go (R358, R359, R366, R371) -/

/-- Whether a context's tensors and rings are legal (R357, R359). -/
def State.ctxLegal (s : State) (x : Ctx) (place64 : Bool) : Bool :=
  match Tens.ofDesc x.contrib, Tens.ofDesc x.result with
  | .ok c, .ok r =>
    let ca := c.writeAddrs none
    place64 && 1 ≤ x.stages && x.stages ≤ 4
      && (x.rings.take x.stages).all (fun n => (s.ring n).valid && (s.ring n).pos < (s.ring n).len && 2 ≤ (s.ring n).len)
      && r.fmt == .fp32 && r.place == 0
      && (((c.fmt == .fp32 || c.fmt == .bf16) && c.place == 0) || ((c.fmt == .e4m3 || c.fmt == .e5m2) && (c.place == 0 || c.place == 2)))
      && c.e0 == r.e0 && c.e1 == r.e1 && c.e2 == r.e2 && c.e3 == r.e3
      && ca.all (· < 2 ^ 40) && (r.writeAddrs none).all (fun a => a < 2 ^ 40 && !ca.contains a)
  | _, _ => false

/-- Whether RESULT maps two elements to one byte (R79). -/
def resultDup (d : Desc) : Bool :=
  match Tens.ofDesc d with
  | .ok t => t.writeDup none
  | .error _ => false

/-- Whether a context of this module holds a record's TAG on one of its rings (R359). -/
def State.tagInFlight (s : State) (x : Ctx) : Bool :=
  s.ctxs.any (fun e => match e.2 with
    | some y => y.tag == x.tag && (x.rings.take x.stages).any (y.rings.take y.stages).contains
    | none => false)

/-- lk.arm (R358, R371). -/
def State.armContext (s : State) (t : Nat) (e : QEntry) : Ans :=
  let a := descBase e.dA
  let n := fld e.ctrl 12 6
  if a % 64 ≠ 0 ∨ inTileStore t a 320 = false then ub 46
  else if (tblGet (fun _ => none) s.ctxs n).isSome then ub 47
  else
    let flags := s.le (a + 0x43) 1
    let con : Desc := BitVec.ofNat 256 (s.le a 32)
    let x : Ctx :=
      { tile := t, record := a, contrib := con, result := BitVec.ofNat 256 (s.le (a + 0x20) 32)
        tag := s.le (a + 0x40) 2, stages := s.le (a + 0x42) 1, mean := flags.testBit 0, wire32 := flags.testBit 1, deadline := s.le (a + 0x44) 4
        rings := s.bytes (a + 0x48) 4
        e := match Tens.ofDesc con with
          | .ok t => t.size
          | .error _ => 0
        gone := false, g := [], own := [], late := 0, missed := 0, chunks := [], sent := [0, 0, 0, 0], recv := [0, 0, 0, 0] }
    if 4 ≤ flags ∨ (s.bytes (a + 0x4C) 0x34).any (· ≠ 0) then ub 1
    else if resultDup x.result then ub 10
    else if s.ctxLegal x true = false ∨ s.tagInFlight x = true then ub 46
    else .next ({ s with ctxs := tblSet (fun _ => none) s.ctxs n (some x) }.signal t e.signal)

/-- The counts of a finished reduction: smallest, largest, expected. -/
def State.ctxCounts (s : State) (x : Ctx) : Option (Nat × Nat × Nat) :=
  if x.e = 0 then some (s.expected x, s.expected x, s.expected x)
  else (s.stageResult x 0).map (fun l => ((l.2.min?).getD 0, (l.2.max?).getD 0, s.expected x))

/-- lk.go completes (R358, R366, R368): the record's status, under what guards a write of a tile store (R87, R199, R371), the deposit, and the context is
free. -/
def State.finishGo (s : State) (n : Nat) (x : Ctx) (mn mx ex : Nat) : Word × State :=
  let c (v : Nat) : Nat := min v 0xFFFF
  let a := x.record
  let s := { s with ctxs := tblSet (fun _ => none) s.ctxs n none }
  let s := match s.slotBreach ((List.range 0x90).map (a + 0x80 + ·)) with
    | some u => s.broke u
    | none => s
  let s := (((s.setLe (a + 0x80) 2 (c mn)).setLe (a + 0x82) 2 (c mx)).setLe (a + 0x84) 2 (c ex)).setLe (a + 0x86) 1 (bit (mn != ex))
  let s := (s.setLe (a + 0x88) 4 x.late).setLe (a + 0x8C) 4 x.missed
  let s := (List.range 4).foldl (fun s k =>
    (s.setLe (a + 0x90 + 0x20 * k) 16 (x.sent.getD k 0)).setLe (a + 0xA0 + 0x20 * k) 16 (x.recv.getD k 0)) s
  (BitVec.ofNat 64 (c mn + c mx * 2 ^ 16 + c ex * 2 ^ 32), s)

/-- Whether the read of an lk.go's contribution is held (R519). -/
def State.goHeld (s : State) (t : Nat) (e : QEntry) : Bool :=
  match tblGet (fun _ => none) s.ctxs (fld e.ctrl 12 6) with
  | some x => (match Tens.ofDesc x.contrib with
    | .ok c => s.wrHeld (.tile t) (c.readAddrs none)
    | .error _ => false)
  | none => false

/-- lk.go (R365, R368, R371): the contribution is ready; with every result written the instruction completes at once. -/
def State.goContext (s : State) (t : Nat) (e : QEntry) : Ans :=
  let n := fld e.ctrl 12 6
  let f : Flight := ⟨.lk, e.signal, fld e.ctrl 18 5, 0, false, false, .go n, Stake.none⟩
  match tblGet (fun _ => none) s.ctxs n with
  | none => ub 47
  | some x =>
    if x.tile ≠ t ∨ x.gone then ub 47
    else
      match Tens.ofDesc x.contrib with
      | .error u => .fault (.undefined u)
      | .ok c =>
        if s.rdBreach (.tile t) (c.readAddrs none) then ub 40 else
        let (r, s) := s.lookTens (.unit t .lk) (.tile t) c none
        match r.readTens (.da (.tile t)) c none with
        | .error u => .fault (.undefined u)
        | .ok v =>
          let s := s.recordFaults (.tile t) false (c.readAddrs none)
          let x := { x with gone := true, g := v.vals }
          let s := if x.e = 0 then { s with ctxs := tblSet (fun _ => none) s.ctxs n (some x) } else s.settle n x
          match tblGet (fun _ => none) s.ctxs n with
          | none => .next s
          | some x =>
            match s.ctxCounts x with
            | some (mn, mx, ex) =>
              let (v, s) := s.finishGo n x mn mx ex
              (s.complete t { f with dep := v, hasDep := true }).done
            | none => .next (s.addFlight t f)

/-- All results of an issued lk.go are written (R368). -/
def execLkGoComplete (ctx : Fin 64) (s : State) : Ans :=
  match tblGet (fun _ => none) s.ctxs ctx.val with
  | none => .next s
  | some x =>
    if x.gone = false then .next s
    else
      match s.ctxCounts x with
      | none => .next s
      | some (mn, mx, ex) =>
        let (v, s) := s.finishGo ctx.val x mn mx ex
        (s.finishFlight x.tile (fun f => f.work == .go ctx.val) (some v)).done

end Sys2Proof.Machine
end

