-- ==== Sys2Proof/Machine/Wave.lean ====
section
/-!
DEFINITION. The commit wave and the barriers (R372-R384), the effects of a resolution (R301, R310, R336, R388), and the flock comparison
(R335-R340).
-/
namespace Sys2Proof.Machine

/-! ### Registers of the wave -/

def State.waveOn (s : State) : Bool := s.flag .denWaveCfg [] 63
def State.isRoot (s : State) : Bool := s.flag .denWaveCfg [] 62
def State.waveTiles (s : State) : Nat := s.rf .denWaveCfg [] 32 11
def State.waveParent (s : State) : Nat := s.rf .denWaveTree [] 0 14
def State.waveChildren (s : State) : List Nat := (List.range (s.rf .denWaveTree [] 56 4)).map (fun i => s.rf .denWaveChild [i] 0 14)

/-- WSTATE: 0 RESOLVED, 1 COLLECTING, 2 VOTED, 3 PREPARED; VOTES; PREP. -/
def State.wstate (s : State) : Nat := s.rf .denStatus [] 8 2
def State.setWstate (s : State) (v : Nat) : State := s.setRf .denStatus [] 8 2 v
def State.votes (s : State) : Nat := s.rf .denStatus [] 13 11
def State.flockHold (s : State) : Bool := s.flag .ledFlockStatus [] 63

/-- The code of an outcome (R380). -/
def outcomeCode : Outcome3 → Nat
  | .committed => 1
  | .skipped => 2
  | .aborted => 3

/-- Sends a message to every child. -/
def State.toChildren (s : State) (b : NetBody) : State := s.waveChildren.foldl (fun s c => s.post c .dawn b) s

/-! ### Flocks (R335-R340) -/

def State.flockOn (s : State) : Bool := s.flag .ledFlock [] 63
def State.flockId (s : State) : Nat := s.rf .ledFlock [] 0 16
def State.flockMember (s : State) : Nat := s.rf .ledFlock [] 48 4
def State.flockSize (s : State) : Nat := s.rf .ledFlock [] 52 4 + 1
def State.memberModule (s : State) (i : Nat) : Nat := s.rf .ledFlockMember [i] 0 14

/-- The bellwether records a member's digest (R337). -/
def State.recordDigest (s : State) (flock member step value : Nat) : State :=
  if s.flockOn && s.flockId == flock && s.flockMember == 0 && !s.flock.digests.any (fun d => d.1 == member && d.2.1 == step) then
    { s with flock := { s.flock with digests := s.flock.digests ++ [(member, step, value)] } }
  else s

/-- A member's report to the bellwether goes out; the bellwether's own is recorded directly. -/
def State.reportDigest (s : State) (step value : Nat) : State :=
  if s.flockMember = 0 then s.recordDigest s.flockId 0 step value
  else s.post (s.memberModule 0) .dawn
    (.flockDigest s.flockId s.flockMember step (BitVec.ofNat 64 value) (BitVec.ofNat 64 (value / 2 ^ 64)))

/-- Whether a transfer in flight adds digest terms to a slot of the flock (R336). -/
def State.flockDigBusy (s : State) (slots : List Nat) : Bool :=
  s.xfers.any (fun x => !x.done && fld x.req.ctrl 10 1 == 1 && slots.contains (fld x.req.ctrl 2 8))

/-- A window ends (R336): the digest is captured, the slots are zeroed, the report goes out; the bellwether begins to collect, beside what earlier
windows still collect (R337). A transfer across the window's end (UB-44), a slot whose value is p or more, and a key out of its range where
digests are compared (R334, UB-43) are undefined. -/
def State.windowEnd (s : State) (step : Nat) : State :=
  let first := s.rf .ledFlockSlots [] 0 8
  let slots := (List.range (s.rf .ledFlockSlots [] 8 9)).map (first + ·)
  let s := if s.flockDigBusy slots then s.broke (.ub 44) else s
  let s := if (s.flockSize != 1 && s.keyBad) || slots.any (fun n => digestP ≤ s.digestSlot n) then s.broke (.ub 43) else s
  let d := (slots.map s.digestSlot).sum % digestP
  let s := slots.foldl (fun s n => s.setDigestSlot n 0) s
  let s := (s.setReg .ledFlockDigestLo [] (d % 2 ^ 64)).setReg .ledFlockDigestHi [] (d / 2 ^ 64)
  if s.flockSize = 1 then s
  else
    let f := s.flock
    let s := { s with flock := { f with
      awaiting := f.awaiting ++ [step]
      windows := if s.flockMember = 0 then f.windows ++ [(step, f.suspended)] else f.windows
      digests := f.digests.filter (fun x => x.2.1 == step || f.windows.any (fun w => w.1 == x.2.1))
      suspended := !f.heldMembers.isEmpty } }
    s.reportDigest step d

/-- Whether a resolution to an inner step ends a window. -/
def State.windowDue (s : State) (step : Nat) : Bool :=
  let p := s.rf .ledFlock [] 32 16
  s.flockOn && p != 0 && step % p == 0

/-- A member is clear of its hold, as the bellwether learns it by a CLEARED, whatever STEP it carries (R340). -/
def State.memberCleared (s : State) (flock member : Nat) : State :=
  if s.flockId == flock && s.flockMember == 0 then
    { s with flock := { s.flock with heldMembers := s.flock.heldMembers.filter (· != member) } }
  else s

/-- Sends this member's CLEARED with its STEP (R340). -/
def State.sendCleared (s : State) : State :=
  if s.flockMember = 0 then s.memberCleared s.flockId 0
  else s.post (s.memberModule 0) .dawn (.cleared s.flockId s.flockMember s.stepNo)

/-- A verdict reaches this member (R337-R340): MINORITY and NO_MAJORITY set HOLD; MINORITY starts the recopy, after a transfer that runs; TIMEOUT is
raised, its source field naming the members missing. A verdict for a step that none is awaited for changes nothing: also one that comes after this
member has set TIMEOUT for that step itself (DESIGN CHOICE, log 51). -/
def State.takeVerdict (s : State) (flock step verdict source : Nat) : State :=
  if s.flockOn && s.flockId == flock && s.flock.awaiting.contains step then
    let s := { s with flock := { s.flock with awaiting := s.flock.awaiting.erase step } }
    let w := setBits (setBits (setBits (s.reg .ledFlockStatus []) 60 3 verdict) 56 4 (if verdict = 3 then source else 0)) 0 48 step
    let s := s.setReg .ledFlockStatus [] w
    if verdict = 3 ∨ verdict = 4 then
      let s := { s.setRf .ledFlockStatus [] 63 1 1 with flock := { s.flock with everHeld := true } }
      let s := s.raise 0x0309 verdict 0 0 step (if verdict = 3 then source else 0)
      if verdict = 3 then
        let m := s.memberModule source
        if s.flag .denXferCtrl [] 62 then { s with flock := { s.flock with recopyWait := some m } }
        else ((s.setRf .denXferCtrl [] 0 14 m).setRf .denXferCtrl [] 14 1 0).xferBegin true
      else s
    else if verdict = 5 then s.raise 0x030B 0 0 0 step source
    else s
  else s

/-- The members of the largest group that holds more than half of `n`, if there is one. -/
def majorityOf (n : Nat) (ds : List (Nat × Nat)) : Option Nat :=
  (ds.find? (fun d => n < 2 * (ds.filter (fun e => e.2 == d.2)).length)).map (fun d => d.2)

/-- The verdict of each reporting member (R337): member, verdict, source; under VOID nothing is compared (R340). -/
def flockVerdicts (n : Nat) (void : Bool) (ds : List (Nat × Nat)) : List (Nat × Nat × Nat) :=
  let equal := ds.all (fun d => d.2 == (ds.headD (0, 0)).2)
  let missing := ((List.range n).filter (fun i => !ds.any (fun d => d.1 == i))).map (2 ^ ·)
  if void then ds.map (fun d => (d.1, 6, 0))
  else if equal ∧ n ≤ ds.length then ds.map (fun d => (d.1, 1, 0))
  else if equal then ds.map (fun d => (d.1, 5, missing.sum))
  else
    match majorityOf n ds with
    | some v =>
      let src := (((ds.filter (fun d => d.2 == v)).map Prod.fst).min?).getD 0
      ds.map (fun d => if d.2 = v then (d.1, 2, 0) else (d.1, 3, src))
    | none => ds.map (fun d => (d.1, 4, 0))

/-- What every member has reported of a window, or some of them: member and value. -/
def State.reported (s : State) (step : Nat) : List (Nat × Nat) :=
  (s.flock.digests.filter (fun d => d.2.1 == step)).map (fun d => (d.1, d.2.2))

/-- The collection that ends (R337): the oldest of which every member has reported, else the oldest, whose TIMEOUT is reached first. -/
def State.collectionDue (s : State) : Option (Nat × Bool) :=
  match s.flock.windows.find? (fun w => (s.reported w.1).length == s.flockSize) with
  | some w => some w
  | none => s.flock.windows.head?

/-- The bellwether concludes a collection (R337); from a verdict that sets holds on, nothing is compared, and every window still collected is VOID
(R340). -/
def State.flockConclude (s : State) : State :=
  match s.collectionDue with
  | none => s
  | some (step, void) =>
    if s.flockOn && s.flockMember == 0 then
      let ds := s.reported step
      let vs := flockVerdicts s.flockSize void ds
      let held := (vs.filter (fun v => v.2.1 == 3 || v.2.1 == 4)).map Prod.fst
      let rest := s.flock.windows.erase (step, void)
      let s := { s with flock := { s.flock with
        windows := if held.isEmpty then rest else rest.map (fun w => (w.1, true))
        digests := s.flock.digests.filter (fun d => d.2.1 != step)
        heldMembers := if held.isEmpty then s.flock.heldMembers else held
        suspended := s.flock.suspended || !held.isEmpty } }
      let id := s.flockId
      vs.foldl (fun s v =>
        if v.1 = 0 then s.takeVerdict id step v.2.1 v.2.2
        else s.post (s.memberModule v.1) .dawn (.flockVerdict id step v.2.1 v.2.2)) s
    else s

/-! ### Voting (R376-R379) -/

/-- The differing value that WAVE_MISMATCH carries: CV before STEP; where only KIND differs, the own CV. -/
def State.raiseMismatch (s : State) (kind : Bool) (step value : Nat) : State := s.raise 0x0405 (bit kind) 0 0 step value

/-- The aggregated vote of this module: SKIP and MISMATCH, with WAVE_MISMATCH raised for each difference found here. -/
def State.aggregate (s : State) : Bool × Bool × State :=
  let w := s.wave
  let step := s.stepNo
  let cv := s.cv
  let skip := (w.skip && !w.kind) || (!w.kind && s.flag .ledNorm [] 62) || w.votes.any (·.skip)
  let differs (v : ChildVote) : Bool := v.kind != w.kind || v.step != step || v.cv != cv
  let mism := w.mixed || w.votes.any (fun v => v.mismatch || differs v)
  let s := if w.mixed then s.raiseMismatch w.kind step cv else s
  let s := (w.votes.filter differs).foldl (fun s v =>
    s.raiseMismatch w.kind step (if v.cv ≠ cv then v.cv else if v.step ≠ step then v.step else cv)) s
  (skip, mism, s)

/-! ### Resolution (R301, R380) -/

/-- The version and step registers after a resolution (R301). -/
def State.versionStep (s : State) (kind : Bool) (o : Outcome3) : State :=
  let w := s.reg .ledCommit []
  let done := o == .committed
  let cv := if done then (fld w 0 48 + 1) % 2 ^ 48 else fld w 0 48
  let par := if done && !kind then 1 - fld w 52 1 else fld w 52 1
  let w := setBits (setBits (setBits (setBits w 0 48 cv) 52 1 par) 53 1 (bit kind)) 54 2 (outcomeCode o)
  let s := s.setReg .ledCommit [] w
  if kind then s else s.setRf .ledStep [] 0 48 ((s.stepNo + 1) % 2 ^ 48)

/-- The end of an inner step (R301, R310, R323, R336, R388): the step close, the norm vote, the flock window, the end of a round. -/
def State.stepEnds (s : State) (old : Nat) : State :=
  let s := s.stepClose old
  let s := (s.setRf .ledNorm [] 63 1 0).setRf .ledNorm [] 62 1 0
  let s := if s.windowDue s.stepNo then s.windowEnd s.stepNo else s
  if s.farOn && s.stepNo == s.rf .farNextEnd [] 0 48 then s.roundEnd else s

/-- Whether a flight is an lk.commit that the wave has counted. -/
def isCounted (f : Flight) : Bool :=
  match f.work with
  | .commit _ _ c => c
  | _ => false

/-- Completes every counted lk.commit with a deposit (R380). -/
def State.finishCommits (s : State) (code : Nat) : State :=
  s.liveTiles.foldl (fun s t =>
    let fs := (s.tile t).flights
    let s := s.setTile t { s.tile t with flights := fs.filter (fun f => !isCounted f) }
    (fs.filter isCounted).foldl (fun s f => s.complete t { f with dep := BitVec.ofNat 64 code, hasDep := true }) s) s

/-- Marks the oldest uncounted lk.commit among flights as counted: its KIND and SKIP. -/
def markCommit : List Flight → Option (Bool × Bool × List Flight)
  | [] => none
  | f :: fs =>
    match f.work with
    | .commit k sk false => some (k, sk, { f with work := .commit k sk true } :: fs)
    | _ => (markCommit fs).map (fun r => (r.1, r.2.1, f :: r.2.2))

/-- Counts the waiting lk.commit instructions of the next wave, oldest first, up to TILES; the fuel bounds their number (R376, R378). -/
def State.countCommits : Nat → State → State
  | 0, s => s
  | k + 1, s =>
    match s.wave.waiting with
    | [] => s
    | t :: ts =>
      if s.waveOn && s.wstate ≤ 1 && s.votes < s.waveTiles then
        let s' := { s with wave := { s.wave with waiting := ts } }
        match markCommit (s.tile t).flights with
        | none => State.countCommits k s'
        | some (kind, sk, fs) =>
          let first := s.votes == 0
          let s' := s'.setTile t { s'.tile t with flights := fs }
          let w := s'.wave
          let s' := { s' with wave := { w with
            kind := if first then kind else w.kind, skip := w.skip || sk, mixed := w.mixed || (!first && kind != w.kind) } }
          let s' := (s'.setRf .denStatus [] 13 11 (s'.votes + 1)).setWstate 1
          State.countCommits k (s'.setReg .denWaveStatus [] s'.stepNo)
      else s

/-- Applies an outcome (R301, R380, R384) and makes room for the next wave. -/
def State.applyOutcome (s : State) (kind : Bool) (o : Outcome3) : State :=
  let old := s.stepNo
  let s := (s.setReg .denWaveStatus [] old).versionStep kind o
  let s := if kind then s.boundaryResolved (o == .committed) else s.stepEnds old
  let s := s.setRf .denStatus [] 8 16 (s.rf .denStatus [] 12 1 * 2 ^ 4)
  let s := { s with wave := { Wave.reset with waiting := s.wave.waiting } }
  s.finishCommits (outcomeCode o)

/-- Records the wave at the root (R380). -/
def State.waveLast (s : State) (cp kind : Bool) (o : Outcome3) (step : Nat) : State :=
  s.setReg .denWaveLast [] (bit cp * 2 ^ 63 + bit kind * 2 ^ 62 + outcomeCode o * 2 ^ 60 + step)

/-- The root sends FINAL and applies the outcome; `cp`: the commit point was passed (R379). -/
def State.rootFinal (s : State) (cp kind : Bool) (o : Outcome3) : State :=
  let step := s.stepNo
  ((s.toChildren (.final kind step o)).waveLast cp kind o step).applyOutcome kind o

/-- The root's decision (R379). -/
def State.rootDecide (s : State) : State :=
  let (skip, mism, s) := s.aggregate
  let kind := s.wave.kind
  if mism then s.rootFinal false kind .aborted
  else
    let o : Outcome3 := if skip then .skipped else .committed
    if s.waveChildren.isEmpty then s.rootFinal true kind o
    else
      let s := (s.setWstate 3).setRf .denStatus [] 10 2 (outcomeCode o)
      s.toChildren (.prepare kind s.stepNo o)

/-- Sends this module's VOTE, or decides at the root, once the local vote and every child's are in and no HOLD is set (R377, R379); no more where a die
reset has taken votes out of the wave (R521). -/
def State.tryVote (s : State) : State :=
  if s.waveOn && s.wstate ≤ 1 && s.votes == s.waveTiles && !s.flockHold && !s.wave.lost
      && s.waveChildren.all (fun c => s.wave.votes.any (fun v => v.child == c)) then
    if s.isRoot then s.rootDecide
    else
      let (skip, mism, s) := s.aggregate
      (s.setWstate 2).post s.waveParent .dawn (.vote s.wave.kind s.stepNo s.cv skip mism)
  else s

/-- Counts and votes as far as it goes; the fuel bounds the waves that a module decides by itself. -/
def State.waveGo : Nat → State → State
  | 0, s => s
  | k + 1, s =>
    let s := State.countCommits (s.wave.waiting.length + 1) s
    let s := if s.isRoot && s.votes == s.waveTiles && s.wstate == 1 then { s with wave := { s.wave with timer := true } } else s
    let w := s.wstate
    let s' := s.tryVote
    if w = 1 ∧ s'.wstate = 0 then State.waveGo k s' else s'

def State.waveMove (s : State) : State := State.waveGo (s.wave.waiting.length + 2) s

/-! ### Messages of the wave (R377-R381) -/

/-- A child's VOTE. One from another module breaks R375 (UB-49). A second one of a child before the wave resolves, such as that of its next wave after one of
an aborted wave, is compared like every other (R377). Until this module counts an lk.commit the wave's KIND is that of the first VOTE. -/
def State.voteArrives (s : State) (src : Nat) (kind : Bool) (step cv : Nat) (skip mism : Bool) : Ans :=
  if s.waveOn = false then .next s
  else if s.waveChildren.contains src = false then ub 49
  else
    let w := s.wave
    let kind' := if s.votes = 0 ∧ w.votes = [] then kind else w.kind
    let s := { s with wave := { w with
      votes := w.votes ++ [(⟨src, kind, step, cv, skip, mism⟩ : ChildVote)], timer := w.timer || s.isRoot, kind := kind' } }
    let s := if s.wstate = 0 then (s.setWstate 1).setReg .denWaveStatus [] s.stepNo else s
    .next s.waveMove

/-- PREPARE (R379); a module whose vote a die reset has taken away does not follow it (R521). -/
def State.prepareArrives (s : State) (kind : Bool) (step : Nat) (o : Outcome3) : State :=
  if s.waveOn && s.wstate == 2 && !s.wave.lost && s.wave.kind == kind && s.stepNo == step then
    let s := (s.setWstate 3).setRf .denStatus [] 10 2 (outcomeCode o)
    if s.waveChildren.isEmpty then s.post s.waveParent .dawn (.ack kind step) else s.toChildren (.prepare kind step o)
  else s

/-- The outcome that PREP holds. -/
def prepOutcome (c : Nat) : Outcome3 := if c = 1 then .committed else if c = 2 then .skipped else .aborted

/-- A child's ACK (R379): with the last one the module acks, unless a die reset has taken its vote away (R521), and the root passes the commit point. -/
def State.ackArrives (s : State) (src : Nat) (kind : Bool) (step : Nat) : State :=
  if s.waveOn && s.wstate == 3 && s.wave.kind == kind && s.stepNo == step && s.waveChildren.contains src then
    let acks := if s.wave.acks.contains src then s.wave.acks else s.wave.acks ++ [src]
    let s := { s with wave := { s.wave with acks := acks } }
    if s.waveChildren.all acks.contains then
      if s.isRoot then (s.rootFinal true kind (prepOutcome (s.rf .denStatus [] 10 2))).waveMove
      else if s.wave.lost then s else s.post s.waveParent .dawn (.ack kind step)
    else s
  else s

/-- FINAL (R380, R381): it concerns the wave in progress, or one of the present step that this module has not begun to vote on: an inner step, or a
fold apply that was aborted. -/
def State.finalArrives (s : State) (kind : Bool) (step : Nat) (o : Outcome3) : State :=
  if s.waveOn && (s.wstate != 0 || (s.stepNo == step && (!kind || o == .aborted))) then
    ((s.toChildren (.final kind step o)).applyOutcome kind o).waveMove
  else s

/-- The root's timer reaches TIMEOUT before the commit point (R379). -/
def State.waveTimesOut (s : State) : State :=
  if s.waveOn && s.isRoot && s.wave.timer then (s.rootFinal false s.wave.kind .aborted).waveMove else s

/-- No FINAL within 4 × TIMEOUT (R383): once for each wave. -/
def execWaveStuck (s : State) : Ans :=
  let w := s.wstate
  if s.waveOn && !s.isRoot && 2 ≤ w && !s.wave.stuck then
    let s := { s with wave := { s.wave with stuck := true } }
    .next ((s.setRf .denStatus [] 12 1 1).raise 0x0406 (bit s.wave.kind + 2 * w) 0 0 s.stepNo 0)
  else .next s

/-- A write of WAVE_RESOLVE (R384). -/
def State.waveResolveWrite (s : State) (acc : Acc) (v : Nat) : State :=
  let s := s.ctlApply .denWaveResolve [] acc v
  let o := fld (accBits acc v) 0 2
  if o = 0 then s
  else if s.wstate < 2 ∨ (o = 2 ∧ s.wave.kind) then s.setRf .denWaveResolve [] 2 1 1
  else
    let kind := s.wave.kind
    let step := s.stepNo
    ((s.toChildren (.final kind step (prepOutcome o))).applyOutcome kind (prepOutcome o)).waveMove

/-! ### lk.commit and lk.barrier (R372, R376) -/

/-- An lk.commit issues: it waits to be counted. One of KIND 1 outside the VOTE of a boundary is undefined (R392). -/
def State.issueCommit (s : State) (t : Nat) (e : QEntry) : State :=
  let kind := fld e.ctrl 17 1 == 1
  let f : Flight := ⟨.lk, e.signal, fld e.ctrl 18 5, 0, false, false, .commit kind (fld e.ctrl 16 1 == 1) false, Stake.none⟩
  let s := (if kind && s.phase != 3 then s.broke (.ub 50) else s).addFlight t f
  { s with wave := { s.wave with waiting := s.wave.waiting ++ [t] } }.waveMove

/-- A barrier number completes on this module: the instruction that holds it signals, and the children are told. -/
def State.barrierDone (s : State) (n : Nat) : State :=
  let s := s.toChildren (.barrierDown n)
  let b := s.barrier
  let s := { s with barrier := { b with own := b.own.filter (· != n), up := b.up.filter (fun u => u.1 != n), sentUp := b.sentUp.filter (· != n) } }
  s.liveTiles.foldl (fun s t => s.finishFlight t (fun f => f.work == .barrier (some n)) none) s

/-- A barrier number goes up once this module has issued it and every child has reported it. -/
def State.tryBarrier (s : State) (n : Nat) : State :=
  let b := s.barrier
  if b.own.contains n && !b.sentUp.contains n && s.waveChildren.all (fun c => b.up.contains (n, c)) then
    if s.isRoot then s.barrierDone n
    else { s with barrier := { b with sentUp := b.sentUp ++ [n] } }.post s.waveParent .dawn (.barrierUp n)
  else s

/-- Gives the oldest waiting barrier of a tile its number. -/
def numberBarrier (n : Nat) : List Flight → List Flight
  | [] => []
  | f :: fs => if f.work = .barrier none then { f with work := .barrier (some n) } :: fs else f :: numberBarrier n fs

/-- Numbers a tile's barrier and moves it on (R372). -/
def State.enterBarrier (s : State) (t : Nat) : State :=
  let b := s.barrier
  let n := b.next
  let s := s.setTile t { s.tile t with flights := numberBarrier n (s.tile t).flights }
  { s with barrier := { b with next := n + 1, own := b.own ++ [n] } }.tryBarrier n

/-- An lk.barrier issues; while ENABLE is 0 it waits. -/
def State.issueBarrier (s : State) (t : Nat) (e : QEntry) : State :=
  let s := s.addFlight t ⟨.lk, e.signal, 0, 0, false, false, .barrier none, Stake.none⟩
  if s.waveOn then s.enterBarrier t
  else { s with barrier := { s.barrier with waiting := s.barrier.waiting ++ [t] } }

/-- A barrier message of a child or of the parent. -/
def State.barrierArrives (s : State) (src : Nat) (up : Bool) (n : Nat) : Ans :=
  if s.waveOn = false then .next s
  else if up then
    if s.waveChildren.contains src = false then ub 49
    else if s.barrier.up.contains (n, src) then .next s
    else .next ({ s with barrier := { s.barrier with up := s.barrier.up ++ [(n, src)] } }.tryBarrier n)
  else if s.barrier.sentUp.contains n then .next (s.barrierDone n)
  else .next s

/-- A write of WAVE_CFG (R372, R375, R376): TILES is kept in 1 to 1,216; ENABLE becoming 1 numbers the waiting barriers from 0 and counts
the waiting lk.commit instructions. -/
def State.waveCfgWrite (s : State) (acc : Acc) (v : Nat) : Ans :=
  let was := s.waveOn
  let old := s.reg .denWaveCfg []
  let s := s.ctlApply .denWaveCfg [] acc v
  let s := s.setRf .denWaveCfg [] 32 11 (max 1 (min 1216 s.waveTiles))
  if was && s.waveOn && s.reg .denWaveCfg [] != old then ub 49
  else if !was && s.waveOn then
    let ts := s.barrier.waiting
    let s := { s with barrier := Barrier.reset }
    .next (ts.foldl State.enterBarrier s).waveMove
  else .next s

/-! ### Stopping a tile (R174-R176, R374) -/

/-- The place of an abandoned barrier that still waits for its number (R374): the number of no tile. -/
def noTile : Nat := 1280

/-- Abandons a tile's issued link instructions but lk.put and lk.get: they signal and deposit nothing; the contexts of its issued lk.go are free, and
a waiting barrier keeps its place in the sequence (R374). -/
def State.abandonLinks (s : State) (t : Nat) : State :=
  let keep (f : Flight) : Bool := match f.queue, f.work with
    | .lk, .transfer _ => true
    | .lk, _ => false
    | _, _ => true
  let s := s.setTile t { s.tile t with flights := (s.tile t).flights.filter keep }
  let mine := s.ctxs.filter (fun e => match e.2 with
    | some x => x.tile == t && x.gone
    | none => false)
  let s := mine.foldl (fun s e => { s with ctxs := tblSet (fun _ => none) s.ctxs e.1 none }) s
  { s with wave := { s.wave with waiting := s.wave.waiting.filter (· != t) }
           barrier := { s.barrier with waiting := s.barrier.waiting.map (fun u => if u = t then noTile else u) } }

/-- A stop (R175): the sequencer takes nothing further, waiting and queued instructions are discarded, issued link instructions are abandoned. A tile that
already drains after a halt or a fetch fault stops so too, and STOP_CAUSE names the stop (DESIGN CHOICE, log 51). -/
def State.stopTile (s : State) (t : Nat) : State :=
  let x := s.tile t
  if x.seq = .stopped then s
  else
    let s := s.abandonLinks t
    s.setTile t { s.tile t with seq := .draining, cause := .stop, qMx := [], qVx := [], qDv := [], qLk := [], icReq := [] }

/-! ### The end of a shard transfer (R338, R385) -/

/-- A shard transfer ends; done only when every range has arrived. A recopy clears HOLD; the step that its FLOCK_RECOPY carries is LED.STEP as it then is (R338;
DESIGN CHOICE, log 51). -/
def State.xferEnds (s : State) (ok : Bool) : State :=
  match s.shard with
  | none => s
  | some x =>
    if ok && (!x.ranges.isEmpty || x.more) then s
    else
      let r := if ok then 1 else 2
      let bytes := s.reg .denXferStatus []
      let s := { (s.setRf .denXferCtrl [] 62 1 0).setRf .denXferCtrl [] 60 2 r with shard := none }
      let s := s.raise 0x0407 r 0 0 x.source bytes
      let s :=
        if x.recopy && ok then
          let held := s.flockHold
          let s := (s.setRf .ledFlockStatus [] 63 1 0).raise 0x030A 0 0 0 s.stepNo bytes
          (if held then s.sendCleared else s).waveMove
        else s
      match s.flock.recopyWait with
      | some m =>
        let s := { s with flock := { s.flock with recopyWait := none } }
        ((s.setRf .denXferCtrl [] 0 14 m).setRf .denXferCtrl [] 14 1 0).xferBegin true
      | none => s

/-- A write of FLOCK_STATUS (R339, R340): a cleared HOLD sends CLEARED and lets the module vote. -/
def State.flockStatusWrite (s : State) (acc : Acc) (v : Nat) : State :=
  let held := s.flockHold
  let s := s.ctlApply .ledFlockStatus [] acc v
  if held && !s.flockHold then s.sendCleared.waveMove else s

/-- Whether MEMBER is no place of this module in the member table (R335). -/
def State.flockMisplaced (s : State) : Bool := s.flockSize ≤ s.flockMember || s.memberModule s.flockMember != s.selfId

/-- A write of a place of the member table (R335): while ENABLE is 1 MEMBER must go on matching it. -/
def State.memberWrite (s : State) (i : Nat) (acc : Acc) (v : Nat) : Ans :=
  let s := s.ctlApply .ledFlockMember [i] acc v
  if s.flockOn && s.flockMisplaced then ub 44 else .next s

/-- A write of FLOCK (R335, R340): ENABLE becoming 1 on a module that never held sends CLEARED. -/
def State.flockWrite (s : State) (acc : Acc) (v : Nat) : Ans :=
  let was := s.flockOn
  let old := s.reg .ledFlock []
  let s := s.ctlApply .ledFlock [] acc v
  if was && s.flockOn && s.reg .ledFlock [] != old then ub 44
  else if s.flockOn && s.flockMisplaced then ub 44
  else if !was && s.flockOn && !s.flock.everHeld then .next s.sendCleared
  else .next s

end Sys2Proof.Machine
end

