-- ==== Sys2Proof/Machine/Lk.lean ====
section
/-!
DEFINITION. Delivery on the near fabric (R345), the messages that a command sends, and the rows of the link instructions, of near-fabric messages, of
waves, flocks and reductions.
-/
namespace Sys2Proof.Machine

/-- Delivers a message on this module (R345, R376). -/
def State.deliver (s : State) (m : NetMsg) : Ans :=
  match m.body with
  | .vote kind step cv skip mism => s.voteArrives m.src kind step cv skip mism
  | .prepare kind step o => .next (s.prepareArrives kind step o)
  | .ack kind step => .next (s.ackArrives m.src kind step)
  | .final kind step o => .next (s.finalArrives kind step o)
  | .barrierUp n => s.barrierArrives m.src true n
  | .barrierDown n => s.barrierArrives m.src false n
  | .flockDigest f i step lo hi => .next (s.recordDigest f i step (hi.toNat * 2 ^ 64 + lo.toNat))
  | .flockVerdict f step v src => .next (s.takeVerdict f step v src)
  | .cleared f i _ => .next (s.memberCleared f i)
  | .partialSum c => s.partialArrives c
  | .resultChunk c => s.resultArrives c
  | .remote id pad r => s.serveRemote m.src id m.cls pad r
  | .remoteAck id => s.remoteDone id ⟨[], []⟩
  | .remoteData id x => s.remoteDone id x
  | .shardRead da n => .next (s.serveShard m.src da n)
  | .shardData da b => .next (s.shardArrives da (b.map BitVec.toNat))

/-- Sends what a command handed to the fabric; a message for this module is delivered, which may hand over more; in the end every port sends what
waits for it (R349), and an undefined case that the command has met stops it. The fuel bounds the number of messages; what it leaves goes out with
the next command. -/
def State.flushGo : Nat → State → Ans
  | 0, s => s.arbitrate.done
  | k + 1, s =>
    match s.net.outbox with
    | [] => s.arbitrate.done
    | m :: ms =>
      let s := { s with net := { s.net with outbox := ms } }
      if s.isLocal m.dst then (s.deliver m).andThen (State.flushGo k) else State.flushGo k (s.inject m)

def State.flush (s : State) : Ans := State.flushGo 65536 s

/-- A message arrives at a port (R345): delivered here or forwarded. -/
def execMessageArrival (n : Fin 32) (m : NetMsg) (s : State) : Ans :=
  if s.portUsable n.val = false then .next s
  else if s.isLocal m.dst then (s.deliver m).andThen State.flush
  else (s.forward m).flush

/-! ### Link instructions -/

/-- Issues the head of a tile's LK queue where it is the operation named; a paddock tile's arm, go, barrier and commit only signal and raise
PADDOCK_LINK (R352). -/
def State.lkRun (s : State) (t : Nat) (o : LkOp) (paddockOk : Bool) (f : QEntry → State → Ans) : Ans :=
  (s.issue t .lk (fun e => e == .lk o) (fun e s =>
    if s.isPaddock t && !paddockOk then .next ((s.paddockLink t (32 * (engCode (.lk o)).1 + (engCode (.lk o)).2)).signal t e.signal)
    else f e s)).andThen State.flush

/-- lk.put; a read of memory that a die's reset holds holds it at the head of its queue (R519). -/
def execLkPut (t : TileId) (s : State) : Ans :=
  s.lkRun t.val .put true (fun e r => if r.putHeld t.val e then .next s else r.issueRemote t.val false e)

def execLkGet (t : TileId) (s : State) : Ans := s.lkRun t.val .get true (fun e s => s.issueRemote t.val true e)
def execLkArm (t : TileId) (s : State) : Ans := s.lkRun t.val .arm false (fun e s => s.armContext t.val e)
/-- lk.go; a contribution that a die's reset holds holds it at the head of its queue (R519). -/
def execLkGo (t : TileId) (s : State) : Ans :=
  s.lkRun t.val .go false (fun e r => if r.goHeld t.val e then .next s else r.goContext t.val e)

def execLkBarrier (t : TileId) (s : State) : Ans := s.lkRun t.val .barrier false (fun e s => .next (s.issueBarrier t.val e))
def execLkCommit (t : TileId) (s : State) : Ans := s.lkRun t.val .commit false (fun e s => .next (s.issueCommit t.val e))

def execRemoteAccess (src id : Nat) (cls : NetClass) (paddock : Bool) (r : RemoteReq) (s : State) : Ans :=
  (s.serveRemote src id cls paddock r).andThen State.flush
def execLinkTransferComplete (id : Nat) (data : TensorData) (s : State) : Ans := (s.remoteDone id data).andThen State.flush
def execPartialArrival (m : ChunkMsg) (s : State) : Ans := (s.partialArrives m).andThen State.flush
def execDeadlineExpiry (ctx : Fin 64) (stage chunk : Nat) (s : State) : Ans := (s.deadlinePasses ctx.val stage chunk).flush
def execResultArrival (m : ChunkMsg) (s : State) : Ans := (s.resultArrives m).andThen State.flush
def execBarrierMessage (src : Nat) (up : Bool) (seq : Nat) (s : State) : Ans := (s.barrierArrives src up seq).andThen State.flush

/-! ### Waves -/

def execVote (src : Nat) (kind : Bool) (step cv : Nat) (skip mismatch : Bool) (s : State) : Ans :=
  (s.voteArrives src kind step cv skip mismatch).andThen State.flush
def execPrepare (kind : Bool) (step : Nat) (o : Outcome3) (s : State) : Ans := (s.prepareArrives kind step o).flush
def execAck (src : Nat) (kind : Bool) (step : Nat) (s : State) : Ans := (s.ackArrives src kind step).flush
def execFinal (kind : Bool) (step : Nat) (o : Outcome3) (s : State) : Ans := (s.finalArrives kind step o).flush
def execWaveTimeout (s : State) : Ans := s.waveTimesOut.flush
def execXferDone (ok : Bool) (s : State) : Ans := (s.xferEnds ok).flush

/-! ### Flocks -/

def execFlockDigest (flock member step : Nat) (lo hi : Word) (s : State) : Ans :=
  .next (s.recordDigest flock member step (hi.toNat * 2 ^ 64 + lo.toNat))
def execFlockVerdict (s : State) : Ans := s.flockConclude.flush
def execFlockVerdictReceived (flock step verdict source : Nat) (s : State) : Ans := (s.takeVerdict flock step verdict source).flush

/-- A member without a verdict sets TIMEOUT itself (R337); which members are missing it cannot know: a free value (log 1). -/
def execFlockTimeout (s : State) : Ans :=
  match s.flock.awaiting with
  | [] => .next s
  | step :: _ =>
    let (w, s) := s.takeWord
    (s.takeVerdict s.flockId step 5 (w.toNat % 2 ^ 16)).flush

def execCleared (flock : Nat) (held : HeldMember) (s : State) : Ans := .next (s.memberCleared flock held.member)

end Sys2Proof.Machine
end

