-- ==== Sys2Proof/Machine/Isl.lean ====
section
/-!
DEFINITION. Operations of the service island (chapters 13, 14): emergency quiesce (R509), the power-off sequence (R510), last-gasp records (R511),
key zeroisation (R462), the reset types (R517-R521), the images (R494, R523) and the start (R499, R524, R525).
-/
namespace Sys2Proof.Machine

/-- READY (R499). -/
def State.isReady (s : State) : Bool := s.flag .clkStatus [] 63
def State.setReady (s : State) (b : Bool) : State := s.setRf .clkStatus [] 63 1 (bit b)

/-- Whether requests reach a host port: the compute domain is powered and its link is not held down (R500, R519, R536, R537). -/
def State.hostUp (s : State) (port : Nat) : Bool := s.isl.powered && !s.linkHeld port

/-- What a configuration request reads of a function (R467): vendor, device, class code, the base-address registers as place, size and whether
prefetchable, MSI-X entries with the offsets of table and pending bits in BAR0, serial number, payload and read-request limits and tag bits. -/
structure CfgSpace where
  vendor : Nat
  device : Nat
  cls : Nat
  bars : List (Nat × Nat × Bool)
  msix : Nat × Nat × Nat
  serial : Nat
  limits : Nat × Nat × Nat
  deriving DecidableEq, Repr

/-- The configuration space of a port; none: requests end with configuration-retry status, as they do until Shepherd has loaded it (R31, R467, R500).
No command of the table reads it. -/
def State.cfgRead (s : State) (port : Nat) : Option CfgSpace :=
  if s.hostUp port && (s.cfg port).loaded then
    some ⟨s.fuses.vendor, 0x0880, 0x120000, [(0, 2 ^ 26, false), (2, 2 ^ 40, true)], (2048, 0x210000, 0x218000), s.fuses.serial, (512, 4096, 10)⟩
  else none

/-- Changes the island's record. -/
def State.setIsl (s : State) (i : Island) : State := { s with isl := i }

/-! ### Emergency quiesce (R509) -/

/-- Stops a tile as STOP does; with nothing issued it is stopped at once. -/
def State.quiesceTile (s : State) (t : Nat) : State :=
  let s := s.stopTile t
  let x := s.tile t
  if x.seq = .draining ∧ x.drained = true then s.setTile t { x with seq := .stopped } else s

/-- An emergency quiesce of some dies: their tiles stop and their clocks are gated; what drovers and ports do then starts no more. -/
def State.quiesce (s : State) (ds : List Nat) : State :=
  let s := (s.liveTiles.filter (fun t => ds.contains (t / 160))).foldl State.quiesceTile s
  s.setIsl { s.isl with quiesced := s.isl.quiesced ++ ds.filter (fun d => !s.isl.quiesced.contains d) }

/-- Every die. -/
def allDies : List Nat := List.range 8

/-- Whether an emergency quiesce has stopped the module's own engines (R509). -/
def State.halted (s : State) : Bool := !s.isl.quiesced.isEmpty

/-! ### What a reset leaves of the registers (R18, R19, R518) -/

/-- Whether a register is a tally: SATURATED in bit 32, COUNT below (chapter 12). -/
def isTally (n : RegName) : Bool := (regRow n).w1c == 2 ^ 32 && (regRow n).rsv == 0xfffffffe00000000

/-- The bits of a register that a warm or die reset keeps (R518, R486, R487); the rest takes its cold-reset value (R19): FAR.AREA_SIZE too, which the
next write of FAR.CFG or FAR.SEG computes. -/
def warmMask (n : RegName) : Nat :=
  match n with
  | .idPaddock => 2 ^ 16
  | .drvQueueCtrl => 2 ^ 30
  | .idHbmRegion | .idMemwin | .tileTileCfg | .drvEngineOwn | .ledBase | .ledCommit | .ledStep | .ledDigestKeyLo | .ledDigestKeyHi
  | .farCfg | .farRound | .farNextEnd | .farSeg | .farArea | .farOuter | .farApplyCfg | .farStaleW | .farContrib
  | .farStatus | .denModule | .evtProgState | .evtProgPos | .evtProgTotal
  | .clkStatus | .clkCap | .clkPower | .clkThrottle | .clkTherm | .clkCoolant | .clkTemp
  | .shmCmd | .shmArg | .shmStatus | .shmResult | .shmFw | .cipKeystore
  | .drvFlashWearBytes | .drvFlashWear => 2 ^ 64 - 1
  | .drvFlashStatus => 2 ^ 14 - 1
  | n => if isTally n then 2 ^ 64 - 1 else 0

/-- The bits of a register that outlive the power of the compute domain: the island's own, and what flash holds (R492, R534). -/
def islandMask (n : RegName) : Nat :=
  match n with
  | .clkStatus | .clkCap | .clkPower | .clkThrottle | .clkTherm | .clkCoolant | .clkTemp
  | .shmCmd | .shmArg | .shmStatus | .shmResult | .shmFw | .cipKeystore
  | .drvFlashWearBytes | .drvFlashWear => 2 ^ 64 - 1
  | .drvFlashStatus => 2 ^ 14 - 1
  | _ => 0

/-- The bits of a register that outlive a cold reset: what stands in the NOR, in fuses or in flash (R517). -/
def coldMask (n : RegName) : Nat :=
  match n with
  | .shmFw | .drvFlashWearBytes | .drvFlashWear => 2 ^ 64 - 1
  | .shmStatus => 2 ^ 60 + 0xFF * 2 ^ 48
  | .drvFlashStatus => 2 ^ 14 - 1
  | _ => 0

/-- The register file after a reset that keeps the bits of `f` in every register: the entries that differ from their cold-reset value. The MSI-X table of
port 1 stands behind the control window's own offsets. -/
def State.keepCtl (s : State) (f : RegName → List Nat → Nat) : State :=
  let keep (e : Nat × Word) : Option (Nat × Word) :=
    match regFind (e.1 % 2 ^ 26) with
    | none => none
    | some (n, idx) =>
      let m := BitVec.ofNat 64 (f n idx)
      let v := (e.2 &&& m) ||| (ctlReset e.1 &&& ~~~m)
      if v = ctlReset e.1 then none else some (e.1, v)
  { s with ctl := s.ctl.filterMap keep }

/-! ### Long operations that a reset ends (R486, R521) -/

/-- Fails the running progress slots whose operation is one of `ops`. -/
def State.failSlots (s : State) (ops : List Nat) : State :=
  (List.range 67).foldl (fun s k =>
    let w := s.reg .evtProgState [k]
    if fld w 62 2 = 1 ∧ ops.contains (fld w 56 4) then s.progEnd k (fld w 56 4) false else s) s

/-- The progress slot of a CONTROL word, where it reports (R281). -/
def progSlot (c : Nat) : Option Nat := if fld c 27 1 = 1 then some (fld c 21 6) else none

/-- The slot in which an active transfer reports: the one its entry claimed, unless it has been overtaken (R484, R485). -/
def State.xferSlot (s : State) (x : Xfer) : Option Nat :=
  match x.by_, progSlot x.control.toNat with
  | .queue _, some p => if s.rf .evtProgState [p] 0 32 = x.claim then some p else none
  | _, _ => none

/-- Fails the slots of the memory-queue transfers that run on a die (R486). -/
def State.failDie (s : State) (d : Nat) : State :=
  (s.xfers.filter (fun x => x.die == d && !x.done)).foldl (fun s x => match s.xferSlot x with
    | some p => s.progEnd p 1 false
    | none => s) s

/-- An admission in progress ends failed; JOINING stays (R521). -/
def State.failAdmit (s : State) : State := if s.flag .farAdmit [] 62 then s.admitFails else s

/-- A shard transfer in progress ends failed, with its XFER_DONE (R385, R521). A recopy that waits for its end (R338) does not start: the ports are
down. -/
def State.failXfer (s : State) : State := { s with flock := { s.flock with recopyWait := none } }.xferEnds false

/-- What must outlast a reset's clearing of the registers (R521): the results of failed operations, and APPLY_WAIT of a boundary in progress, which the
program reads to vote again (R392; DEDUCED, log 20); `old` is the state before the reset, `ended` that in which the operations have ended. -/
def State.keepResults (s old ended : State) : State :=
  let s := if old.flag .farAdmit [] 62 then s.setRf .farAdmit [] 60 2 2 else s
  let s := if old.phase = 0 then s else s.setReg .farApplyWait [] (ended.reg .farApplyWait [])
  if old.flag .denXferCtrl [] 62 then s.setRf .denXferCtrl [] 60 2 2 else s

/-! ### Clearing the compute domain -/

/-- The records that wait in the event unit are discarded and counted (R480). -/
def State.dropHeld (s : State) : State :=
  if s.ev.held.isEmpty then s
  else
    let s := { s with ev := { s.ev with held := [] } }.lose s.ev.held.length
    if s.ev.held.isEmpty then s else { s with ev := { s.ev with held := [] } }.discard s.ev.held.length

/-- The compute domain's own state as a reset leaves it (R517): tiles, drovers, adders, fabric, cipher engines, rings and the event unit. Records that
waited in the event unit are discarded and counted (R480), as are accesses that were held; a snapshot in progress is shown first, since a TAKE with CLEAR
has moved the counts into it (R488). -/
def State.clearUnits (s : State) : State :=
  let s := s.snapShow.dropHeld
  { s with
    ev := { s.ev with held := [], holdoff := [], msixPending := [] }, tiles := [], xfers := [], hostReads := []
    flash := { s.flash with compacting := false }, remotes := [], flock := Flock.reset, net := Net.reset, ctxs := []
    barrier := Barrier.reset, wave := Wave.reset, shard := none
    far := { s.far with chans := [], caught := [], stateBytes := 0, posted := 0 }, closeHeld := false, initHeld := none
    cip := { s.cip with cache := [], ops := [], releasing := [], testing := [0, 1, 2, 3], reseeds := [], requests := [], faulted := [], authEvt := [] }
    rings := [], mem := tblClear s.mem 0x200000000000 0x280200000000 }

/-- The compute domain loses its power: HBM is lost, tallies and slots begin anew (R534). -/
def State.clearPower (s : State) : State :=
  let s := s.clearUnits
  let s := s.keepCtl (fun n _ => islandMask n)
  { s with mem := tblClear s.mem 0 (2 ^ 40), tally := [], far := Far.reset, flash := { s.flash with maps := [], zeros := [] } }

/-! ### Last-gasp records (R511) -/

/-- The registers that a last-gasp record holds. -/
def State.gaspRegs (s : State) : List Nat :=
  [s.reg .clkStatus [], s.reg .clkPower []] ++ allDies.map (fun d => s.reg .clkTemp [d])
    ++ [s.reg .clkCoolant [], s.reg .ledCommit [], s.reg .ledStep [], s.reg .farRound [], s.reg .farStatus []]

/-- Writes a record into the NOR; the oldest of 16 goes. -/
def State.lastGasp (s : State) (cause : Nat) : State :=
  let g : Gasp := ⟨cause, s.time, s.gaspRegs, s.ev.recent⟩
  (s.setIsl { s.isl with gasps := (g :: s.isl.gasps).take 16 }).setRf .shmStatus [] 60 1 1

/-- The 4 KiB of a record; their layout is not given (log 18). -/
def Gasp.bytes (g : Gasp) : List Nat :=
  let w := g.cause :: g.time :: g.regs ++ g.events.flatten
  (List.range 4096).map (fun i => (Config.gaspByte w i).toNat)

/-- The code of a cause in a record (log 17): thermal trip, MAIN lost, STBY lost, a fatal error of Shepherd. -/
def causeTrip : Nat := (Config.openCode 1001).toNat % 2 ^ 48
def causeMain : Nat := (Config.openCode 1002).toNat % 2 ^ 48
def causeStby : Nat := (Config.openCode 1003).toNat % 2 ^ 48
def causeFatal : Nat := (Config.openCode 1004).toNat % 2 ^ 48

/-! ### Images (R494, R523) -/

def slotBase (b : Nat) : Nat := if b = 0 then 0x100000 else 0x2100000

/-- A field of the image header of a slot. -/
def State.hdrLe (s : State) (b off len : Nat) : Nat := s.le (norKey (slotBase b + off)) len

/-- The places of the components of a type in a slot's image: their numbers j. -/
def State.components (s : State) (b typ : Nat) : List Nat :=
  (List.range (min 15 (s.hdrLe b 6 2))).filter (fun j => s.hdrLe b (264 + 16 * j) 1 == typ)

/-- The bytes of the component of a type; empty: there is none. -/
def State.component (s : State) (b typ : Nat) : List Nat :=
  match s.components b typ with
  | j :: _ => s.bytes (norKey (slotBase b + s.hdrLe b (268 + 16 * j) 4)) (s.hdrLe b (272 + 16 * j) 4)
  | [] => []

/-- The units that run an image (R494): die controllers 1 to 7, near ports 8 to 39, far ports 40 to 43, and the type of theirs. -/
def imageUnits : List Nat := (List.range 43).map (· + 1)
def imageType (u : Nat) : Nat := if u < 8 then 2 else if u < 40 then 3 else 5

/-- Shepherd loads the images of some units from the slot it booted from (R494); what they ran before is gone even where Shepherd does not serve. -/
def State.loadImages (s : State) (us : List Nat) : State :=
  let b := s.rf .clkStatus [] 35 1
  let up := s.flag .shmStatus [] 63
  let img (u : Nat) : List Nat :=
    if us.contains u then (if up then s.component b (imageType u) else []) else tblGet (fun _ => []) s.isl.images u
  s.setIsl { s.isl with images := imageUnits.filterMap (fun u => if (img u).isEmpty then none else some (u, img u)) }

/-- The units whose images a die's reset loads: its controller, and every port's (R494). -/
def dieUnits (d : Nat) : List Nat := imageUnits.filter (fun u => u == d || 8 ≤ u)

/-! ### Cages (R540, R541) -/

/-- The plug-in modules as the loss of the module's own rails leaves them, or as the die controllers take them over: held in reset or released from it,
in low-power mode (R540; log 51). -/
def State.cagesHeld (s : State) (reset : Bool) : State :=
  s.setIsl { s.isl with cages := s.isl.cages.filterMap (fun e =>
    let x : Cage := { e.2 with inReset := reset && e.2.watts.isSome, lowPower := true }
    if x = Cage.reset then none else some (e.1, x)) }

/-! ### Power-off (R510, R535) -/

/-- The power-off sequence: quiesce, rails off, READY 0. A zeroisation whose reset runs ends with it (R462, R506). -/
def State.powerOff (s : State) : State :=
  if s.isl.powered = false then s
  else
    let s := s.quiesce allDies
    let s := s.failSlots [1, 2, 3, 4, 6]
    let s := match s.isl.zeroised with
      | some trigger => s.raise 0x070A 0 0 0 trigger 0
      | none => s
    let s := s.setReady false
    let s := s.setRf .clkStatus [] 48 8 0
    let s := s.clearPower
    let s := s.setIsl { s.isl with
      powered := false, starting := false, quiesced := [], asked := [], running := [], zeroised := none, misses := [], images := [] }
    s.cagesHeld true

/-! ### Resets (R517-R521) -/

/-- Records the last reset in CLK.STATUS. -/
def State.lastReset (s : State) (kind cause : Nat) : State := (s.setRf .clkStatus [] 44 4 kind).setRf .clkStatus [] 40 4 cause

/-- Adds a reset to those that run. -/
def State.begins (s : State) (r : Reset) : State := s.setIsl { s.isl with running := s.isl.running ++ [r] }

/-- A handover's D1 instance is lost: the D0 instance is in control (R521). -/
def State.loseD1 (s : State) : State :=
  s.setIsl { s.isl with handover := s.isl.handover.map (fun h => (h.1, true)), onD1 := false }

/-- BUSY of CLK.RESET: a reset that a write of it asked for waits or runs (R517). -/
def State.busyLook (s : State) : State :=
  s.setRf .clkReset [] 63 1 (bit (!s.isl.asked.isEmpty || s.isl.running.any (fun r => r.here)))

/-- A warm reset (R517, R518, R521); it runs until RESET_DONE, and Shepherd loads every image anew (R494). -/
def State.warmReset (s : State) (cause : Nat) (here : Bool := false) : State :=
  let old := s
  let s := s.quiesce allDies
  let s := (s.failSlots [1, 3, 4, 6]).failAdmit.failXfer.loseD1
  let ended := s
  let s := s.clearUnits
  let s := s.keepCtl (fun n _ => warmMask n)
  let s := s.keepResults old ended
  let s := (s.setReady false).lastReset 2 cause
  let s := ((s.setIsl { s.isl with quiesced := [], asked := [], running := [], misses := [] }).cagesHeld false).loadImages imageUnits
  s.begins ⟨2, 0, cause, here⟩

/-- Closes every channel, queue, far from its registers, flash and near port: their ENABLE reads 0 after a warm or die reset (R518). -/
def State.disableAll (s : State) : State :=
  let s := (s.channels).foldl (fun s c => (s.chanOff c).setRf .farChanCfg [c] 63 1 0) s
  let s := (List.range 256).foldl (fun s q => s.setRf .drvQueueCtrl [q] 0 1 0) s
  let s := (s.setRf .drvFlashCtrl [] 63 1 0).setRf .drvFlashStatus [] 63 1 0
  let s := { s with flash := { s.flash with compacting := false } }
  (List.range 32).foldl (fun s n => if s.portOn n then (s.portDown n).setRf .denPortCtrl [n] 0 1 0 else s) s

/-- The far port and cipher engine of an odd die (R432). -/
def dieEngine (d : Nat) : Option Nat := if d % 2 = 1 then some (d / 2) else none

/-- Whether a register belongs to a die: its tile block, its near ports, its far port and engine, and the queues at home there. -/
def State.regOfDie (s : State) (d : Nat) (n : RegName) (idx : List Nat) : Bool :=
  let i := idx.headD 0
  match n with
  | .tileDieInfo | .tileHarvestMap | .tileLtMap | .tileTileCfg | .tileTileStatus | .tileStartPc | .tileSeqCtrl | .tilePc | .tileSeqStatus | .tileWatchdog
  | .tileToken | .tileMxState | .tileMxLastClose | .tileMxAccLong | .tileVxState | .tileVxFtId | .tileNumSat | .tileNumFtz | .tileNumNf => i == d
  | .denPortCtrl | .denPortStatus | .denLaneStatus => i / 4 == d
  | .farPortCfg | .farPortAddrHi | .farPortAddrLo | .farPortMac | .cipEngine | .cipPlock | .cipPop | .cipPsrc | .cipPdst | .cipPlen | .cipPseq
  | .cipPstatus => dieEngine d == some i
  | .drvQueueBase | .drvQueueCtrl | .drvQueueHead | .drvQueueTail => s.rf .drvQueueCtrl [i] 27 3 == d
  | _ => false

/-- What a command has handed to the fabric for other modules goes out now. -/
def State.sendNow (s : State) : State := (s.net.outbox.foldl State.inject { s with net := { s.net with outbox := [] } }).arbitrate

/-- A die reset takes the votes of the die's tiles out of a commit wave (R521): before the commit point the root decides ABORTED at once; another module
votes and acks no more, until the root has decided so. -/
def State.loseVotes (s : State) (d : Nat) : State :=
  if s.waveOn && s.wstate != 0 && s.liveTiles.any (fun t => t / 160 == d && (s.tile t).flights.any isCounted) then
    if s.isRoot then (s.rootFinal false s.wave.kind .aborted).sendNow else { s with wave := { s.wave with lost := true } }
  else s

/-- A die reset (R517-R519, R521); it runs until RESET_DONE. Of the drover entries only those that run on the die fail; an admission, a compaction pass
and a digest sweep end failed under every die reset, which disables the channels, the flash and the queues that they use (R518). -/
def State.dieReset (s : State) (d cause : Nat) (here : Bool := false) : State :=
  let s := ((s.loseVotes d).quiesce [d]).failDie d
  let s := (s.failSlots [3, 4, 6]).failAdmit.failXfer
  let s := if d = 1 then s.loseD1 else s
  let s := s.disableAll
  let old := s
  let s := s.keepCtl (fun n idx => if old.regOfDie d n idx then warmMask n else 2 ^ 64 - 1)
  let s := if old.rf .drvQueueCtrl [old.applyQueue] 27 3 = d then { s with far := { s.far with posted := 0 } } else s
  let s := match dieEngine d with
    | some f => s.cipClear f
    | none => s
  let t0 := 160 * d
  let s := { s with
    ctxs := s.ctxs.filter (fun e => match e.2 with
      | some x => x.tile / 160 != d
      | none => true)
    tiles := s.tiles.filter (fun e => e.1 / 160 != d), remotes := s.remotes.filter (fun r => r.tile / 160 != d), xfers := s.xfers.filter (fun x => x.die != d)
    mem := tblClear (tblClear s.mem (tileBase t0) (tileBase t0 + 0x40000000)) (accBase t0) (accBase t0 + 0x40000000) }
  let s := (s.lastReset 3 cause).setRf .clkStatus [] 37 3 d
  let s := (s.setIsl { s.isl with quiesced := s.isl.quiesced.filter (· != d) }).loadImages (dieUnits d)
  ((List.range 4).foldl State.cageLook s).begins ⟨3, d, cause, here⟩

/-- The physical tile of a logical number (R41); none at or above 1,216. -/
def State.physical (s : State) (lt : Nat) : Option Nat :=
  match (s.dieTiles (lt / 152))[lt % 152]? with
  | some p => if lt < 1216 then some (160 * (lt / 152) + p) else none
  | none => none

/-- A tile reset (R517): issued instructions are gone, transfers go on and do not signal; the tile's stores and its tallies stay, and its registers, SLICE
among them, take their cold-reset values (R19). -/
def State.tileReset (s : State) (lt cause : Nat) (here : Bool := false) : State :=
  match s.physical lt with
  | none => s
  | some t =>
    let s := s.abandonLinks t
    let s := ((s.setTile t Tile.reset).setReg .tileStartPc (tix t) 0).setReg .tileTileCfg (tix t) 0
    (s.setReg .tileWatchdog (tix t) 0).begins ⟨4, lt, cause, here⟩

/-- A link reset of a near port (0-31), or of far port `n - 32` (R517, R521): its frames in flight are sent again. -/
def State.linkReset (s : State) (n cause : Nat) (here : Bool := false) : State :=
  let s :=
    if n < 32 then (if s.portOn n then (s.portDown n).setPortSt n 1 else s)
    else
      let f := n - 32
      let s := (s.setRf .farPortCfg [f] 63 1 0).cageLook f
      (s.channels.filter (fun c => s.chanPort c == f)).foldl (fun s c =>
        let x := s.chan c
        s.setChan c { x with frames := x.frames.map (fun h => if 0 < h.sends then { h with lost := true } else h) }) s
  s.begins ⟨5, n, cause, here⟩

/-- Carries out a reset of any type. -/
def State.doReset (s : State) (r : Reset) : State :=
  match r.kind with
  | 2 => s.warmReset r.cause r.here
  | 3 => s.dieReset r.unit r.cause r.here
  | 4 => s.tileReset r.unit r.cause r.here
  | _ => s.linkReset r.unit r.cause r.here

/-- Carries out the first reset that CLK.RESET asked for and that a predicate names; BUSY stays 1 while it runs (R517). -/
def State.askedReset (s : State) (p : Reset → Bool) : State :=
  match s.isl.asked.find? p with
  | none => s
  | some r => ((s.setIsl { s.isl with asked := s.isl.asked.erase r }).doReset r).busyLook

/-- Advances every privileged sequence by up to 65,535, as it may after a loss of power; none passes the last value (R456). -/
def State.skipSeqs (s : State) : State :=
  s.cip.pseqs.foldl (fun s (e : Nat × Nat) =>
    let (w, s) := s.takeWord
    { s with cip := { s.cip with pseqs := tblSet (fun _ => 0) s.cip.pseqs e.1 (min (2 ^ 64) (e.2 + w.toNat % 65536)) } }) s

/-- A cold reset (R517): what flash, NOR, fuses and the world outside hold stays; the compute domain starts with POWER_UP. -/
def State.coldReset (s : State) (cause : Nat) : State :=
  let s := if s.isl.down then s.skipSeqs else s
  let i := s.isl
  let s := s.clearUnits
  let s := s.keepCtl (fun n _ => coldMask n)
  let s := { s with
    time := 0, tally := [], far := Far.reset, ev := ⟨[], 0, [], [], []⟩, mem := tblClear s.mem 0 (2 ^ 40)
    flash := { s.flash with maps := [], zeros := [] }
    cip := { Cip.reset with kek := s.cip.kek, kekGen := s.cip.kekGen, pkeys := s.cip.pkeys, pseqs := s.cip.pseqs } }
  let s := s.setIsl { Island.reset with
    mainOk := i.mainOk, inhibited := i.inhibited, overVolt := i.overVolt, perst := i.perst, armed := i.armed, gasps := i.gasps
    nonce := i.nonce, svcKey := i.svcKey, refclk := i.refclk, cages := i.cages }
  (s.cagesHeld true).lastReset 1 cause

/-- The item of RESET_DONE's record that names the unit, and its event (R529, R478). -/
def State.raiseReset (s : State) (r : Reset) : State :=
  if r.kind = 4 then s.raise 0x0707 0 1 r.unit r.kind r.cause
  else if r.kind = 5 ∧ r.unit < 32 then s.raise 0x0707 0 4 r.unit r.kind r.cause
  else if r.kind = 5 then s.raise 0x0707 0 7 (r.unit - 32) r.kind r.cause
  else s.raise 0x0707 0 0 0 r.kind (r.unit + r.cause * 2 ^ 32)

/-- The oldest running reset ends: RESET_DONE; after a warm reset the device accepts work again, its PLLs locked, where their reference clock is good: else
no PLL locks and READY stays 0 (R536; log 43). A zeroisation that asked for it ends too. -/
def State.resetEnds (s : State) : State :=
  match s.isl.running with
  | [] => s
  | r :: rest =>
    let z := s.isl.zeroised
    let s := s.setIsl { s.isl with running := rest, zeroised := if r.kind = 2 then none else z }
    let s := s.busyLook
    let s := if r.kind = 2 then (if s.refOk 0 then (s.setRf .clkStatus [] 48 8 0xFF).setReady (!s.isl.starting) else s) else s
    let s := s.raiseReset r
    match z with
    | some trigger => if r.kind = 2 then s.raise 0x070A 0 0 0 trigger 0 else s
    | none => s

/-! ### Key zeroisation (R462, R506) -/

/-- Key zeroisation with the code of its trigger. With the compute domain off nothing but the key store is left to erase. -/
def State.zeroiseKeys (s : State) (trigger : Nat) : State :=
  let s := s.eraseKeys
  if s.isl.powered then
    let s := s.zeroContexts.warmReset 7
    s.setIsl { s.isl with zeroised := some trigger }
  else s.raise 0x070A 0 0 0 trigger 0

/-- Codes of the triggers of a zeroisation in KEY_ZEROISED (log 17). -/
def trigReg : Nat := (Config.openCode 1101).toNat
def trigService : Nat := (Config.openCode 1102).toNat
def trigHeat : Nat := (Config.openCode 1103).toNat
def trigTamper : Nat := (Config.openCode 1104).toNat

/-- A thermal trip (R505): quiesce, last-gasp record, power-off; the compute domain stays off until POWER_ON or a cold reset. -/
def State.trip (s : State) : State :=
  let s := if s.isl.powered then s.quiesce allDies else s
  let s := (s.lastGasp causeTrip).powerOff
  (s.setRf .clkStatus [] 40 4 6).setIsl { s.isl with heldOff := true }

/-! ### The start (R499, R524, R525) -/

/-- STATE of a slot in SHM.FW: 0 EMPTY, 1 VALID, 2 NEXT, 3 FAILED, 4 PENDING. -/
def State.slotSt (s : State) (b : Nat) : Nat := s.rf .shmFw [] (if b = 0 then 44 else 40) 4
def State.setSlotSt (s : State) (b v : Nat) : State := s.setRf .shmFw [] (if b = 0 then 44 else 40) 4 v
def State.slotSvn (s : State) (b : Nat) : Nat := s.rf .shmFw [] (if b = 0 then 56 else 48) 8

/-- Whether the header of a slot is signed correctly (R523). -/
def State.headerOk (s : State) (b : Nat) : Bool :=
  let h := s.bytes (norKey (slotBase b)) 264
  let pub := (h.drop 72).take 96
  sha384 pub == s.fuses.fwKeyHash && ecdsaVerify pub (sha384 (h.take 168)) ((h.drop 168).take 96) && s.rf .shmStatus [] 48 8 ≤ s.hdrLe b 12 4

/-- MAGIC of a slot, and whether its sizes and its SVN lie within their bounds. -/
def State.magicOk (s : State) (b : Nat) : Bool :=
  s.hdrLe b 0 4 == 0x56574853 && 512 ≤ s.hdrLe b 8 4 && s.hdrLe b 8 4 ≤ 2 ^ 24 && s.hdrLe b 12 4 ≤ 64

/-- A full verification of a slot (R523): beside the header the DIGEST over the body, and one component of each type. -/
def State.imageFull (s : State) (b : Nat) : Bool :=
  s.magicOk b && s.headerOk b && sha384 (s.bytes (norKey (slotBase b + 512)) (s.hdrLe b 8 4 - 512)) == s.bytes (norKey (slotBase b + 24)) 48
    && [1, 2, 3, 4, 5].all (fun k => (s.components b k).length == 1)

/-- The slot that the boot ROM tries first: NEXT, or the VALID one; of two VALID slots the spec does not say which (log 7). -/
def State.bootSlot (s : State) : Option Nat × State :=
  if s.slotSt 0 = 2 then (some 0, s)
  else if s.slotSt 1 = 2 then (some 1, s)
  else if s.slotSt 0 = 1 ∧ s.slotSt 1 = 1 then
    let (b, s) := s.takeBool
    (some (bit b), s)
  else if s.slotSt 0 = 1 then (some 0, s)
  else if s.slotSt 1 = 1 then (some 1, s)
  else (none, s)

/-- Boots a slot: VALID from now on, SLOT and BUILD show it, Shepherd runs. -/
def State.boots (s : State) (b : Nat) (fallback : Bool) : State :=
  let s := s.setSlotSt b 1
  let s := (s.setRf .clkStatus [] 35 1 b).setRf .clkStatus [] 36 1 (bit fallback)
  let s := s.setRf .shmFw [] 0 32 (s.le (norKey (slotBase b + 16)) 4)
  (s.setRf .shmStatus [] 63 1 1).setIsl { s.isl with bootFail := false }

/-- The boot ROM's work (R524, R525): it verifies in full; false when Shepherd does not start. -/
def State.boot (s : State) : Bool × State :=
  match s.bootSlot with
  | (none, s) => (false, s)
  | (some b, s) =>
    if s.imageFull b then (true, s.boots b false)
    else
      let s := s.setSlotSt b 3
      if s.imageFull (1 - b) then
        let s := s.boots (1 - b) true
        (true, s.setIsl { s.isl with fallback := some (1 - b, b) })
      else (false, s)

/-- The later of the supplies becomes valid (R499): the boot, the PLLs, the timebase (R497), the images (R494), the configuration spaces (R500); HBM and
the stores read zero already. `clk0` and `clk1` say whether the reference clocks of J2 and J3 are good: without the first no PLL locks (R536). -/
def State.powerUp (s : State) (clk0 clk1 : Bool) : State :=
  let i := s.isl
  if i.mainOk && i.stbyOk && !i.powered && !i.heldOff && !i.inhibited && !i.overVolt && !i.down then
    let (ok, s) := if s.flag .shmStatus [] 63 then (true, s) else s.boot
    if ok then
      let s := (s.setRf .clkStatus [] 48 8 (if clk0 then 0xFF else 0)).setRf .clkStatus [] 44 4 1
      let s := s.setIsl { s.isl with
        powered := true, starting := true, refclk := [clk0, clk1], cfgs := s.isl.cfgs.map (fun c => { c with loaded := true }) }
      { (s.cagesHeld false).loadImages imageUnits with time := 0, cip := { s.cip with testing := [0, 1, 2, 3] } }
    else s.setIsl { s.isl with bootFail := true }
  else s

/-- The start ends (R499, R524): READY; the security version follows the booted image; an unread last-gasp record is announced. -/
def State.startEnds (s : State) : State :=
  if s.isl.starting && s.rf .clkStatus [] 48 8 == 0xFF then
    let s := (s.setReady true).setIsl { s.isl with starting := false }
    let svn := s.slotSvn (s.rf .clkStatus [] 35 1)
    let s := if s.rf .shmStatus [] 48 8 < svn then s.setRf .shmStatus [] 48 8 svn else s
    if s.flag .shmStatus [] 60 then
      match s.isl.gasps with
      | g :: _ => s.raise 0x0703 0 0 0 g.cause 0
      | [] => s
    else s
  else s

end Sys2Proof.Machine
end

