-- ==== Sys2Proof/Machine/Ctl.lean ====
section
/-!
DEFINITION. A write of a control register (R8, R12-R15, R48-R60, R469, R500): which writes are ignored or undefined, what each register's write
does, and the parts of work rings (R472, R475) and of the event ring (R479-R483) that a write reaches.
-/
namespace Sys2Proof.Machine

/-! ### Work rings: entries (R472, R475) -/

/-- The entry in progress of a ring; empty: none. -/
def State.ringNow (s : State) (w : Nat) : List Nat := tblGet (fun _ => []) s.rings w
def State.setRingNow (s : State) (w : Nat) (e : List Nat) : State :=
  ({ s with rings := tblSet (fun _ => []) s.rings w e }).setRf .idWringCtrl [w] 61 1 (bit !e.isEmpty)

def State.ringHead (s : State) (w : Nat) : Nat := s.rf .idWringHead [w] 0 32
def State.ringTail (s : State) (w : Nat) : Nat := s.rf .idWringDb [w] 0 32

/-- LOG2N of a ring; as what one acts that is not 4 to 16 the spec does not state (log 52). -/
def State.ringLog (s : State) (w : Nat) : Nat :=
  let l := s.rf .idWringCtrl [w] 16 5
  if 4 ≤ l ∧ l ≤ 16 then l else Config.fieldAs 3 l

/-- The host bus address of the slot of entry number `c`. -/
def State.ringSlotAt (s : State) (w c : Nat) : Nat := s.reg .idWringBase [w] + 64 * (c % 2 ^ s.ringLog w)

/-- Whether a ring may take the entry at HEAD. -/
def State.ringCan (s : State) (w : Nat) : Bool :=
  s.flag .idWringCtrl [w] 63 && !s.flag .idWringCtrl [w] 62 && s.ringHead w != s.ringTail w && (s.ringNow w).isEmpty
    && s.hostUp (s.rf .idWringCtrl [w] 56 1)

/-- The entry at HEAD. -/
def State.ringEntry (s : State) (w : Nat) : List Nat := s.bytes (hostKey (s.ringSlotAt w (s.ringHead w))) 64

/-- A field of an entry. -/
def entF (e : List Nat) (off len : Nat) : Nat := leVal ((e.drop off).take len)

/-- Whether an entry is bad (R473, R475). -/
def badEntry (e : List Nat) : Bool :=
  let op := entF e 0 1
  let a0 := entF e 8 8
  5 < op || 1 < entF e 1 1 || entF e 36 4 != 0 || entF e 48 16 != 0
    || ((op == 1 || op == 2 || op == 3) && a0 % 64 == 0)
    || ((op == 4 || op == 5) && (a0 % 8 != 0 || 2 ^ 26 ≤ a0))
    || ((op == 2 || op == 4) && entF e 32 4 != 0)

/-- Writes STATUS into the entry at HEAD. -/
def State.ringStatus (s : State) (w st : Nat) : State := s.setLe (hostKey (s.ringSlotAt w (s.ringHead w) + 2)) 2 st

/-- A ring that reaches a bad entry stops there (R475). -/
def State.ringLook (s : State) (w : Nat) : State :=
  if s.ringCan w && badEntry (s.ringEntry w) then
    ((s.ringStatus w 4).setRf .idWringCtrl [w] 62 1 1).raise 0x0002 0 0xA w (entF (s.ringEntry w) 4 4) 4
  else s

/-- Whether TAIL lies more than a ring's length before HEAD (R476). -/
def State.ringOver (s : State) (w : Nat) : Bool :=
  2 ^ s.ringLog w < (s.ringTail w + 2 ^ 32 - s.ringHead w) % 2 ^ 32

/-- A write of WRING_BASE (R476). -/
def State.ringBaseWrite (s : State) (w : Nat) (acc : Acc) (v : Nat) : Ans :=
  let s' := s.ctlApply .idWringBase [w] acc v
  if s'.reg .idWringBase [w] ≠ s.reg .idWringBase [w] ∧ (s.flag .idWringCtrl [w] 63 ∨ s.ringHead w ≠ s.ringTail w) then ub 58 else .next s'

/-- A write of WRING_CTRL (R475, R476): 1 to ERROR resumes the ring at HEAD. -/
def State.ringCtrlWrite (s : State) (w : Nat) (acc : Acc) (v : Nat) : Ans :=
  let place (s : State) : Nat × Nat := (s.rf .idWringCtrl [w] 56 1, s.rf .idWringCtrl [w] 16 5)
  let s' := s.ctlApply .idWringCtrl [w] acc v
  if place s' ≠ place s ∧ (s.flag .idWringCtrl [w] 63 ∨ s.ringHead w ≠ s.ringTail w) then ub 58
  else if s'.flag .idWringCtrl [w] 63 ∧ s'.ringOver w then ub 58
  else .next (s'.ringLook w)

/-- A write of WRING_DB, the doorbell (R472, R476). -/
def State.ringDbWrite (s : State) (w : Nat) (acc : Acc) (v : Nat) : Ans :=
  let s := s.ctlApply .idWringDb [w] acc v
  if s.ringOver w then ub 58 else .next (s.ringLook w)

/-! ### The event ring's registers (R479, R480, R483) -/

/-- A write of RING_CTRL: LOG2N is kept in 6 to 20; PORT and LOG2N may not change while ENABLE is 1 (R483); ENABLE from 0 to 1 begins a new ring, from 1
to 0 discards the held records. -/
def State.evCtrlWrite (s : State) (acc : Acc) (v : Nat) : Ans :=
  let was := s.flag .evtRingCtrl [] 63
  let place (s : State) : Nat × Nat := (s.rf .evtRingCtrl [] 56 1, s.rf .evtRingCtrl [] 16 5)
  let s' := s.ctlApply .evtRingCtrl [] acc v
  let s' := s'.setRf .evtRingCtrl [] 16 5 (max 6 (min 20 (s'.rf .evtRingCtrl [] 16 5)))
  let now := s'.flag .evtRingCtrl [] 63
  if was && place s' != place s then ub 59
  else if !was && now then
    let s' := (s'.setReg .evtRingHead [] 0).setReg .evtRingTail [] 0
    let s' := State.drainRing 1026 s'
    match s'.isl.fallback with
    | some (b, f) => .next ((s'.setIsl { s'.isl with fallback := none }).raise 0x0704 0 0 0 b f)
    | none => .next s'
  else if was && !now then .next s'.dropHeld
  else .next s'

/-- A write of RING_BASE (R483). -/
def State.evBaseWrite (s : State) (acc : Acc) (v : Nat) : Ans :=
  let s' := s.ctlApply .evtRingBase [] acc v
  if s.flag .evtRingCtrl [] 63 ∧ s'.reg .evtRingBase [] ≠ s.reg .evtRingBase [] then ub 59 else .next s'

/-- A write of RING_HEAD frees space (R480, R483); HEAD keeps within a ring's length of TAIL at any time. -/
def State.evHeadWrite (s : State) (acc : Acc) (v : Nat) : Ans :=
  let s := s.ctlApply .evtRingHead [] acc v
  let used := (s.rf .evtRingTail [] 0 32 + 2 ^ 32 - s.rf .evtRingHead [] 0 32) % 2 ^ 32
  if 2 ^ s.rf .evtRingCtrl [] 16 5 < used then ub 59
  else if s.flag .evtRingCtrl [] 63 then .next (State.drainRing 1026 s)
  else .next s

/-- A write of a quadword of a port's MSI-X table: a vector that is unmasked with its pending bit set sends its message (R482). -/
def State.msixWrite (s : State) (port i : Nat) (acc : Acc) (v : Nat) : State :=
  let off := regOff .evtMsix [i] + port * 2 ^ 26
  let s := s.setCtl off (BitVec.ofNat 64 (accMerge acc (s.ctlRaw off).toNat v))
  let vec := i / 2
  if i % 2 = 1 ∧ s.ev.msixPending.contains (port, vec) ∧ s.msixMasked port vec = false ∧ (s.cfg port).msixEnable = true ∧ (s.cfg port).funcMask = false then
    { s with ev := { s.ev with msixPending := s.ev.msixPending.filter (· != (port, vec)) } }.msixMessage port vec
  else s

/-! ### Tallies and snapshots (R487-R489) -/

/-- Whether an offset holds a tally. -/
def isTallyOff (off : Nat) : Bool :=
  match regFind off with
  | some (n, _) => isTally n
  | none => false

/-- What a snapshot latches: every tally that counts or shows something, and the time of its edge. -/
def State.latch (s : State) : List (Nat × Word) :=
  let offs := s.tally.map Prod.fst ++ ((s.ctl.map Prod.fst).filter (fun o => isTallyOff o && !s.tally.any (fun t => t.1 == o)))
  (regOff .evtSnapTime [], BitVec.ofNat 64 s.time)
    :: offs.map (fun o => let t := s.tallyAt o; (o, BitVec.ofNat 64 (t.count + bit t.sticky * 2 ^ 32)))

/-- A TAKE, unless a snapshot is in progress (R488). -/
def State.snapTake (s : State) (clear : Bool) : State :=
  if s.snap.isSome then s
  else
    let s := { s with snap := some s.latch }.setRf .evtSnapCtrl [] 61 1 1
    if clear then
      { s with tally := (s.tally.map (fun (e : Nat × Tally) => (e.1, { e.2 with count := 0 }))).filter (fun e => e.2 != Tally.zero) }
    else s

/-- A write of a tally: 1 to SATURATED clears it and the live sticky bit (R489). -/
def State.tallyWrite (s : State) (n : RegName) (idx : List Nat) (acc : Acc) (v : Nat) : State :=
  let o := regOff n idx
  if (accBits acc v).testBit 32 then
    let s := s.setRf n idx 32 1 0
    { s with tally := tblSet (fun _ => Tally.zero) s.tally o { s.tallyAt o with sticky := false } }
  else s

/-! ### Identity and memory space (R43-R60) -/

/-- A write of TILE_CFG (R46, R47). For an absent tile it is ignored and CFG_REJECT of that tile, whose registers hold nothing, stays 0 (DESIGN CHOICE, log
51). -/
def State.sliceWrite (s : State) (t : Nat) (acc : Acc) (v : Nat) : State :=
  let x := s.tile t
  if s.present t = false then s
  else
    let s' := s.ctlApply .tileTileCfg (tix t) acc v
    let a := s.slice t
    let b := s'.slice t
    if s.tileRunning t || (s.paddockOn && a != b && (a == 63 || b == 63)) then s.setTile t { x with cfgReject := true } else s'

/-- A write of ID.PADDOCK (R48, R49). -/
def State.paddockWrite (s : State) (acc : Acc) (v : Nat) : State :=
  let b := accBits acc v
  let s := if b.testBit 20 then s.setRf .idPaddock [] 20 1 0 else s
  let ends (s : State) (en : Bool) (err : Nat) : State := (s.setRf .idPaddock [] 16 1 (bit en)).setRf .idPaddock [] 18 2 err
  if acc = .high then s
  else if b.testBit 16 then
    let n := s.paddockCount
    if n = 0 ∨ n % 8 ≠ 0 then ends s s.paddockOn 1
    else if 152 < n then ends s s.paddockOn 2
    else ends s true 0
  else if s.paddockOn && s.liveTiles.any (fun t => s.isPaddock t && s.tileRunning t) then ends s true 3
  else ends s false 0

/-- MODE, DIE and FRAME of a region's word. -/
def regionOf (w : Nat) : Nat × Nat × Nat := (fld w 18 2, fld w 12 3, fld w 0 10)

/-- Whether two present regions name one frame of one stack (R58, R59). -/
def regionsMeet (a b : Nat) : Bool :=
  let (ma, da, fa) := regionOf a
  let (mb, db, fb) := regionOf b
  if ma = 0 ∨ mb = 0 then false
  else if ma = 1 ∧ mb = 1 then fa == fb
  else if ma = 1 then fb ≤ fa && fa < fb + 8
  else if mb = 1 then fa ≤ fb && fb < fa + 8
  else da == db && fa < fb + 8 && fb < fa + 8

/-- Whether a region's word breaks R59. -/
def State.regionBad (s : State) (r w : Nat) : Bool :=
  let (m, _, f) := regionOf w
  (m == 1 && 952 < f) || (m == 2 && (f % 8 != 0 || 944 < f))
    || (m != 0 && (List.range 1024).any (fun q => q != r && regionsMeet w (s.reg .idHbmRegion [q])))

/-- Whether a tensor lies in a region, in part; one that is no tensor does by its BASE. -/
def descIn (r : Nat) (d ed : Desc) : Bool :=
  match Tens.pair d ed with
  | .ok (t, e) => (t.readAddrs e).any (fun a => a / 2 ^ 30 == r)
  | .error _ => descBase d / 2 ^ 30 == r

/-- Whether a message whose access is held waits for a region. -/
def msgIn (r : Nat) : NetBody → Bool
  | .remote _ _ (.put d ed _) => descIn r d ed
  | .remote _ _ (.get d ed) => descIn r d ed
  | .shardRead a n => overlaps (r * 2 ^ 30, 2 ^ 30) (a, n)
  | _ => false

/-- Whether an access to a region is in flight (R60): of a transfer (an operand in a host buffer names no region), a remote copy of this module or of
another, a line on its way into an instruction cache, a reduction, a shard transfer, a held host access, a privileged operation, an initialisation of the
ledger or a step close, ROUNDEND or APPLY of a boundary of the exchange. No other region names a frame of this one (R59). -/
def State.regionBusy (s : State) (r : Nat) : Bool :=
  let meets (a n : Nat) : Bool := overlaps (r * 2 ^ 30, 2 ^ 30) (a, n)
  s.xfers.any (fun x => !x.done && ((fld x.req.ctrl 13 1 == 0 && descIn r x.req.d x.req.ed) || (fld x.req.ctrl 14 1 == 0 && descIn r x.req.s x.req.es)
      || (x.req.op != .copy && descIn r x.req.i 0)))
    || s.remotes.any (fun m => descIn r m.local_ m.scale)
    || s.tiles.any (fun e => e.2.icReq.any (fun q => meets (256 * q.line) 256) || e.2.flights.any (fun f => match f.work with
      | .icpf ls => ls.any (fun l => meets (256 * l) 256)
      | _ => false))
    || s.ctxs.any (fun e => match e.2 with
      | some x => descIn r x.contrib 0 || descIn r x.result 0 || meets x.record 320
      | none => false)
    || (match s.shard with
      | some x => x.all.any (fun q => meets q.1 q.2)
      | none => false)
    || s.hostReads.any (fun h => meets h.da h.n)
    || s.cip.ops.any (fun o => meets o.src o.srcLen || meets o.dst o.dstLen)
    || s.net.held.any (fun m => msgIn r m.body)
    || ((s.flag .ledInit [] 62 || s.flag .ledClose [] 63) && meets (s.entryAddr 0) (2 ^ 20))
    || ((s.phase == 1 || s.phase == 2) && meets (s.rf .farArea [] 12 36 * 4096) (s.reg .farAreaSize []))

/-- A write of ID.HBM_REGION (R52, R57, R59, R60). -/
def State.regionWrite (s : State) (r : Nat) (acc : Acc) (v : Nat) : Ans :=
  let old := s.reg .idHbmRegion [r]
  let s' := s.ctlApply .idHbmRegion [r] acc v
  let new := s'.reg .idHbmRegion [r]
  let new := if fld new 18 2 = 3 then setBits new 18 2 0 else new
  if acc ≠ .full then ubR4
  else if s.paddockOn ∧ fld old 17 1 ≠ fld new 17 1 then .next (s.setRf .idPaddock [] 20 1 1)
  else if s.regionBad r new then ub 4
  else if s.regionBusy r then ub 5
  else .next (s.setReg .idHbmRegion [r] new)

/-! ### Tiles (R171-R175) -/

/-- A write of START_PC or of a token register: ignored with WRITE_REJECT while the tile runs (R173). -/
def State.startPcWrite (s : State) (t : Nat) (acc : Acc) (v : Nat) : State :=
  if s.tileRunning t then s.setTile t { s.tile t with writeReject := true } else s.ctlApply .tileStartPc (tix t) acc v

def State.tokenWrite (s : State) (t n : Nat) (acc : Acc) (v : Nat) : State :=
  let x := s.tile t
  if s.tileRunning t then s.setTile t { x with writeReject := true }
  else
    let w := accMerge acc (x.tokenReg n) v
    s.setTile t ((List.range 8).foldl (fun (x : Tile) b => x.setToken (8 * n + b) (w / 256 ^ b % 256)) x)

/-- A write of SEQ_CTRL: STOP goes before START (R171, R173, R175), which then does nothing: WRITE_REJECT stays as it is where a write has both (DESIGN
CHOICE, log 51). -/
def State.seqCtrlWrite (s : State) (t : Nat) (acc : Acc) (v : Nat) : Ans :=
  let b := accBits acc v
  if b.testBit 1 then .next (s.stopTile t) else if b.testBit 0 then s.tryStart t else .next s

/-- A write of SEQ_STATUS or of TILE_STATUS clears the sticky bits written 1. -/
def State.seqStatusWrite (s : State) (t : Nat) (acc : Acc) (v : Nat) : State :=
  let b := accBits acc v
  let x := s.tile t
  s.setTile t { x with
    watchdog := x.watchdog && !b.testBit 3, tokenSat := x.tokenSat && !b.testBit 2
    fetchFault := x.fetchFault && !b.testBit 1, writeReject := x.writeReject && !b.testBit 0 }

def State.tileStatusWrite (s : State) (t : Nat) (acc : Acc) (v : Nat) : State :=
  let x := s.tile t
  s.setTile t { x with cfgReject := x.cfgReject && !(accBits acc v).testBit 2 }

/-! ### Drovers (R268, R279-R286, R287, R294) -/

/-- A write of ENGINE_OWN (R268). -/
def State.engineOwnWrite (s : State) (d : Nat) (acc : Acc) (v : Nat) : State :=
  let s' := s.ctlApply .drvEngineOwn [d] acc v
  if s.paddockOn ∧ s'.rf .drvEngineOwn [d] 0 16 ≠ s.rf .drvEngineOwn [d] 0 16 then
    (s'.setRf .drvEngineOwn [d] 0 16 (s.rf .drvEngineOwn [d] 0 16)).setRf .drvEngineOwn [d] 16 1 1
  else s'

def State.queueOn (s : State) (q : Nat) : Bool := s.flag .drvQueueCtrl [q] 0
def State.queueHead (s : State) (q : Nat) : Nat := s.rf .drvQueueHead [q] 0 32
def State.queueTail (s : State) (q : Nat) : Nat := s.rf .drvQueueTail [q] 0 32

/-- LOG2N and INFLIGHT of a queue; as what a LOG2N that is not 4 to 16, or an INFLIGHT of 0, acts the spec does not state (log 52). -/
def State.queueLog (s : State) (q : Nat) : Nat :=
  let l := s.rf .drvQueueCtrl [q] 16 5
  if 4 ≤ l ∧ l ≤ 16 then l else Config.fieldAs 1 l
def State.queueInflight (s : State) (q : Nat) : Nat :=
  let n := s.rf .drvQueueCtrl [q] 4 4
  if n = 0 then Config.fieldAs 2 0 else n

/-- Whether TAIL lies more than the ring's length before HEAD (R282). -/
def State.queueOver (s : State) (q : Nat) : Bool :=
  2 ^ s.queueLog q < (s.queueTail q + 2 ^ 32 - s.queueHead q) % 2 ^ 32

/-- A write of QUEUE_CTRL (R282, R283). -/
def State.queueCtrlWrite (s : State) (q : Nat) (acc : Acc) (v : Nat) : Ans :=
  let place (w : Nat) : Nat × Nat × Nat := (fld w 31 9, fld w 27 3, fld w 16 5)
  let old := s.reg .drvQueueCtrl [q]
  let s' := s.ctlApply .drvQueueCtrl [q] acc v
  let new := s'.reg .drvQueueCtrl [q]
  if s.paddockOn ∧ fld new 30 1 ≠ fld old 30 1 then .next (s.setRf .drvQueueCtrl [q] 40 1 1)
  else if place new ≠ place old ∧ (fld old 0 1 = 1 ∨ s.queueHead q ≠ s.queueTail q) then ub 36
  else if fld new 0 1 = 1 ∧ s'.queueOver q then ub 36
  else .next s'

/-- A write of QUEUE_BASE (R282). -/
def State.queueBaseWrite (s : State) (q : Nat) (acc : Acc) (v : Nat) : Ans :=
  let s' := s.ctlApply .drvQueueBase [q] acc v
  if s'.reg .drvQueueBase [q] ≠ s.reg .drvQueueBase [q] ∧ (s.queueOn q ∨ s.queueHead q ≠ s.queueTail q) then ub 36 else .next s'

/-- A write of QUEUE_TAIL, the doorbell (R282); the boundary's queue takes no entry while the exchange is enabled (R400). -/
def State.queueTailWrite (s : State) (q : Nat) (acc : Acc) (v : Nat) : Ans :=
  let s' := s.ctlApply .drvQueueTail [q] acc v
  if s'.queueOver q then ub 36
  else if s.farOn ∧ s.rf .farApplyCfg [] 48 8 = q ∧ s'.queueTail q ≠ s.queueTail q then ub 52
  else .next s'

/-- Whether host buffer `b` is in use: by an active transfer or by an enabled ring (R286). -/
def State.hostBufUsed (s : State) (b : Nat) : Bool :=
  s.xfers.any (fun x => !x.done && (fld x.req.ctrl 14 1 == 1 || fld x.req.ctrl 13 1 == 1) && fld x.req.ctrl 15 8 == b)
    || (List.range 256).any (fun q => s.queueOn q && s.flag .drvQueueCtrl [q] 31 && s.rf .drvQueueCtrl [q] 32 8 == b)

/-- A write of HOST_BUF_BASE or HOST_BUF_SIZE (R286). -/
def State.hostBufWrite (s : State) (n : RegName) (b : Nat) (acc : Acc) (v : Nat) : Ans :=
  if s.hostBufUsed b then ub 38 else .next (s.ctlApply n [b] acc v)

/-- Whether a transfer under DIG into slot `n` is in flight; without a slot, into any (R280, R334). -/
def State.digBusy (s : State) (n : Option Nat) : Bool :=
  s.xfers.any (fun x => !x.done && fld x.req.ctrl 10 1 == 1 && (n.isNone || n == some (fld x.req.ctrl 2 8)))

/-- A write of a digest slot's VALUE (R280, R334). A HI that alone makes the value more than p stops; a value of p itself, which takes both halves, stops
where it is used. -/
def State.digestWriteReg (s : State) (n : RegName) (i : Nat) (acc : Acc) (v : Nat) : Ans :=
  let s' := s.ctlApply n [i] acc v
  if s.digBusy (some i) then ub 37 else if 2 ^ 63 ≤ s'.reg .drvDigestHi [i] then ub 43 else .next s'

/-- A write of FLASH_CTRL (R287): ENABLE needs the range of the page map mapped, which is a "must" without a number. -/
def State.flashCtrlWrite (s : State) (acc : Acc) (v : Nat) : Ans :=
  let s' := s.ctlApply .drvFlashCtrl [] acc v
  let was := s.flag .drvFlashCtrl [] 63
  let now := s'.flag .drvFlashCtrl [] 63
  if was ∧ s'.rf .drvFlashCtrl [] 12 36 ≠ s.rf .drvFlashCtrl [] 12 36 then ub 39
  else if was && !now then .next (s'.setRf .drvFlashStatus [] 63 1 0)
  else if !was && now && !s'.rangeMapped s'.mapBase mapLen then ubR4
  else .next s'

/-- A compaction pass starts (R294, R484): its length is not known before it ends (log 6). -/
def State.compactBegin (s : State) : State :=
  if s.flash.compacting then s
  else
    let (w, s) := s.takeWord
    { (s.setRf .drvFlashCompact [] 62 1 1).progClaim 64 4 0 w.toNat with flash := { s.flash with compacting := true } }

/-- A write of FLASH_COMPACT; after an emergency quiesce nothing new starts (R509). -/
def State.compactWrite (s : State) (acc : Acc) (v : Nat) : State :=
  let s := s.ctlApply .drvFlashCompact [] acc v
  if (accBits acc v).testBit 63 && !s.halted then s.compactBegin else s

/-! ### Ledger, near fabric, far exchange -/

/-- A write that may not change a register while `busy` holds. -/
def State.heldWrite (s : State) (n : RegName) (idx : List Nat) (acc : Acc) (v u : Nat) (busy : Bool) : Ans :=
  let s' := s.ctlApply n idx acc v
  if busy ∧ s'.reg n idx ≠ s.reg n idx then ub u else .next s'

/-- A write of DEN.WAVE_TREE (R375, R551): more than eight children are undefined. -/
def State.waveTreeWrite (s : State) (acc : Acc) (v : Nat) : Ans :=
  (s.heldWrite .denWaveTree [] acc v 49 s.waveOn).andThen (fun s => if 8 < s.rf .denWaveTree [] 56 4 then ub 49 else .next s)

/-- A write of LED.BASE (R303, R313). -/
def State.ledBaseWrite (s : State) (acc : Acc) (v : Nat) : Ans :=
  let s' := s.ctlApply .ledBase [] acc v
  if s.flag .ledBase [] 63 ∧ s'.flag .ledBase [] 63 ∧ s'.reg .ledBase [] ≠ s.reg .ledBase [] then ub 41
  else if s.flag .ledBase [] 63 = false ∧ (List.range 4096).any s'.entryBad = true then ub 41
  else if s.flag .ledBase [] 63 = false ∧ s'.flag .ledBase [] 63 = true ∧ s'.areasClash = true then ub 40
  else .next s'

/-- A write of FAR.CFG (R8, R394-R396). -/
def State.farCfgWrite (s : State) (acc : Acc) (v : Nat) : Ans :=
  let was := s.farOn
  let s' := s.ctlApply .farCfg [] acc v
  let now := s'.farOn
  let old := s.reg .farCfg []
  let new := s'.reg .farCfg []
  let h := s'.rf .farCfg [] 17 17
  if was ∧ setBits new 63 1 1 ≠ old then ub 51
  else if !was && now then
    if s'.segsReserved then ub 1
    else if s'.farLag = 0 ∨ 4 < s'.farLag ∨ s'.farShear < 4 ∨ 10 < s'.farShear ∨ h < 16 ∨ 65536 < h
        ∨ s'.segs.any (fun g => fld (s'.entryLe g.ledger 0 8) 0 1 = 0 ∨ fld (s'.entryLe g.ledger 0 8) 28 4 ≠ 1) then ub 51
    else if s'.foldBad then ub 51
    else .next s'.setAreaSize.farEnable
  else .next s'.setAreaSize

/-- A write of FAR.CLASS_Q or CHAN_QUOTA (R416). -/
def State.classQWrite (s : State) (x : Nat) (acc : Acc) (v : Nat) : State :=
  let s := s.ctlApply .farClassQ [x] acc v
  s.quotaEvent 6 x (s.classUse x) (s.rf .farClassQ [x] 12 36 * 4096)

def State.chanQuotaWrite (s : State) (c : Nat) (acc : Acc) (v : Nat) : State :=
  let s := s.ctlApply .farChanQuota [c] acc v
  s.quotaEvent 5 c (s.chanUse c) (s.rf .farChanQuota [c] 12 36 * 4096)

/-- A write of FAR.STALE_W (R404). -/
def State.staleWWrite (s : State) (a : Nat) (acc : Acc) (v : Nat) : Ans :=
  let s := s.ctlApply .farStaleW [a] acc v
  let x := f32Val (s.staleW a)
  if x.isFin && !(x.lt Val.zero) then .next s else ub 53

/-- A write of FAR.ADMIT (R430). -/
def State.admitWrite (s : State) (acc : Acc) (v : Nat) : State :=
  if s.flag .farAdmit [] 62 then s
  else
    let s := s.ctlApply .farAdmit [] acc v
    if (accBits acc v).testBit 63 then s.admitStart else s

/-! ### Island (R462, R501, R504, R512, R517) -/

/-- A write of CIP.KEYSTORE (R462). -/
def State.keystoreWrite (s : State) (acc : Acc) (v : Nat) : State :=
  let s := s.ctlApply .cipKeystore [] acc v
  if fld (accBits acc v) 48 8 = 0xA5 then s.zeroiseKeys trigReg else s

/-- A write of SHM.CMD or SHM.ARG: ignored with REJECT while BUSY (R512). -/
def State.cmdWrite (s : State) (acc : Acc) (v : Nat) : State :=
  if s.flag .shmCmd [] 62 then s.setRf .shmCmd [] 61 1 1
  else
    let s := s.ctlApply .shmCmd [] acc v
    if (accBits acc v).testBit 63 then (s.setRf .shmCmd [] 62 1 1).setIsl { s.isl with result := none } else s

def State.argWrite (s : State) (i : Nat) (acc : Acc) (v : Nat) : State :=
  if s.flag .shmCmd [] 62 then s.setRf .shmCmd [] 61 1 1 else s.ctlApply .shmArg [i] acc v

/-- A write of CLK.CAP, CLK.THROTTLE or CLK.THERM keeps the limits of their fields. -/
def State.capWrite (s : State) (acc : Acc) (v : Nat) : State :=
  let s := s.ctlApply .clkCap [] acc v
  s.setRf .clkCap [] 0 13 (max 1500 (min 5400 (s.rf .clkCap [] 0 13)))

def State.throttleWrite (s : State) (acc : Acc) (v : Nat) : State :=
  let s := s.ctlApply .clkThrottle [] acc v
  s.setRf .clkThrottle [] 16 5 (max 4 (min 16 (s.rf .clkThrottle [] 16 5)))

def State.thermWrite (s : State) (acc : Acc) (v : Nat) : State :=
  let s := s.ctlApply .clkTherm [] acc v
  (s.setRf .clkTherm [] 56 8 (min 105 (s.rf .clkTherm [] 56 8))).setRf .clkTherm [] 40 8 (min 90 (s.rf .clkTherm [] 40 8))

/-- A write of CLK.RESET asks for a reset: KEY and TYPE in the same write; another KEY, TYPE or an absent UNIT makes it ignored, as does a reset that
runs (R517). -/
def State.resetWrite (s : State) (acc : Acc) (v : Nat) : State :=
  let b := accBits acc v
  let kind := fld b 0 3
  let unit := fld b 16 11
  let bound := if kind = 3 then 8 else if kind = 4 then 1216 else if kind = 5 then 36 else 2048
  if acc ≠ .full ∨ fld b 32 8 ≠ 0x5A ∨ kind < 2 ∨ 5 < kind ∨ bound ≤ unit ∨ s.flag .clkReset [] 63 then s
  else
    let r : Reset := ⟨kind, if kind = 2 then 0 else unit, 3, true⟩
    (s.setRf .clkReset [] 63 1 1).setIsl { s.isl with asked := s.isl.asked ++ [r] }

/-- A write of DEN.PORT_CTRL; RETRAIN is a link reset, which CLK.RESET did not start (R342, R517). -/
def State.portWrite (s : State) (n : Nat) (acc : Acc) (v : Nat) : State :=
  let on := s.portOn n
  let s := s.portCtrlWrite n acc v
  if on && s.portOn n && (accBits acc v).testBit 1 then s.begins ⟨5, n, 3, false⟩ else s

/-! ### The write of any register -/

/-- What a write of each register does. -/
def State.regWrite (s : State) (port : Nat) (n : RegName) (idx : List Nat) (acc : Acc) (v : Nat) : Ans :=
  let i := idx.headD 0
  let t := 160 * i + idx.getD 1 0
  match n with
  | .idPaddock => .next (s.paddockWrite acc v)
  | .idHbmRegion => s.regionWrite i acc v
  | .idWringBase => s.ringBaseWrite i acc v
  | .idWringCtrl => s.ringCtrlWrite i acc v
  | .idWringDb => s.ringDbWrite i acc v
  | .shmCmd => .next (s.cmdWrite acc v)
  | .shmArg => .next (s.argWrite i acc v)
  | .evtRingBase => s.evBaseWrite acc v
  | .evtRingCtrl => s.evCtrlWrite acc v
  | .evtRingHead => s.evHeadWrite acc v
  | .evtSnapCtrl => .next (if (accBits acc v).testBit 63 then s.snapTake ((accBits acc v).testBit 62) else s)
  | .evtMsix => .next (s.msixWrite port i acc v)
  | .clkCap => .next (s.capWrite acc v)
  | .clkThrottle => .next (s.throttleWrite acc v)
  | .clkTherm => .next (s.thermWrite acc v)
  | .clkReset => .next (s.resetWrite acc v)
  | .denPortCtrl => .next (s.portWrite i acc v)
  | .denWaveCfg => s.waveCfgWrite acc v
  | .denWaveTree => s.waveTreeWrite acc v
  | .denWaveChild => s.heldWrite n idx acc v 49 s.waveOn
  | .denWaveResolve => .next (s.waveResolveWrite acc v)
  | .denXferCtrl => .next (s.xferCtrlWrite acc v)
  | .denRouteA => if s.flag .denRouteCtrl [] 0 then .next (s.ctlApply n idx acc v) else ub 45
  | .denRouteB => if s.flag .denRouteCtrl [] 0 then ub 45 else .next (s.ctlApply n idx acc v)
  | .farCfg => s.farCfgWrite acc v
  | .farRound => s.heldWrite n idx acc v 51 s.farOn
  | .farNextEnd => s.heldWrite n idx acc v 51 s.farOn
  | .farSeg => (s.heldWrite n idx acc v 51 s.farOn).andThen (fun s => .next s.setAreaSize)
  | .farArea => s.heldWrite n idx acc v 51 s.farOn
  | .farFbuf =>
    (s.heldWrite n idx acc v 54 s.anyChannel).andThen (fun s => if 128 < s.rf .farFbuf [] 0 8 then ub 54 else .next s)
  | .farAdmit => .next (s.admitWrite acc v)
  | .farClassQ => .next (s.classQWrite i acc v)
  | .farStaleW => s.staleWWrite i acc v
  | .farChanCfg => s.chanCfgWrite i acc v
  | .farChanPeerHi => s.heldWrite n idx acc v 53 (s.chanOn i)
  | .farChanPeerLo => s.heldWrite n idx acc v 53 (s.chanOn i)
  | .farChanQuota => .next (s.chanQuotaWrite i acc v)
  | .cipKeystore => .next (s.keystoreWrite acc v)
  | .cipCtxCfg => s.heldWrite n idx acc v 55 s.anyChannel
  | .cipEngine => .next (s.engineWrite i acc v)
  | .cipPlock => s.plockWrite 1 i acc v
  | .cipPop => .next (s.popWrite 1 i acc v)
  | .cipPsrc => .next (s.popArg 1 n i acc v)
  | .cipPdst => .next (s.popArg 1 n i acc v)
  | .cipPlen => .next (s.popArg 1 n i acc v)
  | .cipPseq => .next (s.popArg 1 n i acc v)
  | .ledBase => s.ledBaseWrite acc v
  | .ledCommit => if acc = .full then (if s.wstate = 0 then .next (s.ctlApply n idx acc v) else ub 42) else ubR4
  | .ledStep => if s.wstate = 0 then .next (s.ctlApply n idx acc v) else ub 42
  | .ledInit =>
    let s := s.ctlApply n idx acc v
    if (accBits acc v).testBit 63 then s.ledgerInit else .next s
  | .ledNorm => .next (if acc = .high then s else s.normCheck (v % 2 ^ 32))
  | .ledRunCtrl =>
    let s := s.ctlApply n idx acc v
    .next (if (accBits acc v).testBit 4 then s.runClear else s)
  | .ledRunLoss => .next (if acc = .high then s else s.runLoss (v % 2 ^ 32))
  | .ledDigestKeyLo => s.heldWrite n idx acc v 43 (s.digBusy none)
  | .ledDigestKeyHi => s.heldWrite n idx acc v 43 (s.digBusy none)
  | .ledFlock => s.flockWrite acc v
  | .ledFlockMember => s.memberWrite i acc v
  | .ledFlockStatus => .next (s.flockStatusWrite acc v)
  | .drvEngineOwn => .next (s.engineOwnWrite i acc v)
  | .drvQueueBase => s.queueBaseWrite i acc v
  | .drvQueueCtrl => s.queueCtrlWrite i acc v
  | .drvQueueTail => s.queueTailWrite i acc v
  | .drvHostBufBase => s.hostBufWrite n i acc v
  | .drvHostBufSize => s.hostBufWrite n i acc v
  | .drvDigestLo => s.digestWriteReg n i acc v
  | .drvDigestHi => s.digestWriteReg n i acc v
  | .drvFlashCtrl => s.flashCtrlWrite acc v
  | .drvFlashCompact => .next (s.compactWrite acc v)
  | .tileTileCfg => .next (s.sliceWrite t acc v)
  | .tileTileStatus => .next (s.tileStatusWrite t acc v)
  | .tileStartPc => .next (s.startPcWrite t acc v)
  | .tileSeqCtrl => s.seqCtrlWrite t acc v
  | .tileSeqStatus => .next (s.seqStatusWrite t acc v)
  | .tileToken => .next (s.tokenWrite t (idx.getD 2 0) acc v)
  | n => .next (if isTally n then s.tallyWrite n idx acc v else s.ctlApply n idx acc v)

/-- Whether an offset lies in a block that takes writes before READY: CLK, SHM and EVT (R500). -/
def earlyBlock (off : Nat) : Bool := 0x100000 ≤ off && off < 0x800000

/-- A write of a control register over `port` (R8, R12, R469, R500). The half that an access names is that of the register at its offset. -/
def State.ctlWrite (s : State) (port off : Nat) (acc : Acc) (v : Nat) : Ans :=
  if acc = .other then ub 2
  else
    match regFind off with
    | none => .next s
    | some (n, idx) =>
      if s.isReady = false ∧ earlyBlock off = false then .next s
      else if accBits acc v &&& (regRow n).rsv ≠ 0 then ub 1
      else (s.regWrite port n idx acc v).andThen State.flush

/-- A write that the host sends over a port (R14, R500): nothing reaches a port that is down. -/
def State.hostWrite (s : State) (port off : Nat) (acc : Acc) (v : Nat) : Ans :=
  if s.hostUp port then s.ctlWrite port off acc v else .next s

end Sys2Proof.Machine
end

