-- ==== Sys2Proof/Machine/Drv.lean ====
section
/-!
DEFINITION. The drovers (R262-R286): the checks of a transfer, the move of its rows with conversions (R94-R100), digests (R278, R279), counts and
ledger updates (R102, R319, R320), its completion (R275), the memory queues (R281-R283) and the flash cold store (R287-R294).
-/
namespace Sys2Proof.Machine

/-! ### The operands -/

/-- The spaces of a transfer's source and destination (R269, R283). -/
def XReq.srcSp (r : XReq) (by_ : Issuer) : Sp := if fld r.ctrl 14 1 = 1 then .host (fld r.ctrl 15 8) else .da by_
def XReq.dstSp (r : XReq) (by_ : Issuer) : Sp := if fld r.ctrl 13 1 = 1 then .host (fld r.ctrl 15 8) else .da by_
/-- The host port over which the byte at an offset of a host buffer goes (R284). -/
def XReq.hostPort (r : XReq) (o : Nat) : Nat :=
  match fld r.ctrl 11 2 with
  | 0 => o / 4096 % 2
  | k => k - 1
/-- DIG and DSLOT. -/
def XReq.dig (r : XReq) : Bool := fld r.ctrl 10 1 == 1
def XReq.dslot (r : XReq) : Nat := fld r.ctrl 2 8

/-- A transfer's operands: D, S with their scale tensors, and the index list. -/
structure XPlan where
  d : Tens
  de : Option Tens
  s : Tens
  se : Option Tens
  i : Option Tens
  deriving DecidableEq, Repr

/-- The bytes of a row's elements. -/
def Tens.rowLen (t : Tens) : Nat := (t.e0 * t.fmt.bits + 7) / 8

/-- The addresses of a row: its elements' bytes, then its scale bytes (R74, R75). -/
def Tens.rowAddrs (t : Tens) (ed : Option Tens) (r : Ix) : List Nat :=
  (List.range t.rowLen).map (fun k => ((t.addr { r with i0 := 0 }).1 + k) % 2 ^ 48)
    ++ (if t.place = 0 then [] else (List.range t.blocks).map (t.scaleAddr ed r))

/-- Whether a cold table breaks R289. -/
def coldBad (t : Tens) : Bool :=
  let pitch := t.s1 * (t.fmt.bits : Int) / 8
  let row := t.rowLen + (if t.place = 2 then t.blocks else 0)
  t.base % 16384 != 0 || !((List.range 9).any (fun k => pitch == (64 * 2 ^ k : Nat))) || pitch < (row : Int)

/-- Whether an operation names an index list. -/
def dvIndexed (o : DvOp) : Bool := o != .copy

/-- The operands of a transfer, or the undefined case (R269, R270, R273, R289, R290, R279). -/
def XReq.plan (r : XReq) (by_ : Issuer) : Except UB XPlan :=
  match Tens.pair r.d r.ed, Tens.pair r.s r.es with
  | .error u, _ => .error u
  | _, .error u => .error u
  | .ok (d, de), .ok (s, se) =>
    let idx : Except UB (Option Tens) :=
      if dvIndexed r.op then
        match Tens.ofDesc r.i with
        | .error u => .error u
        | .ok i => if i.fmt = .fp32 ∧ i.rank = 0 ∧ i.place = 0 then .ok (some i) else .error (.ub 32)
      else .ok none
    match idx with
    | .error u => .error u
    | .ok i =>
      let n := match i with
        | some t => t.e0
        | none => 0
      let srcDa := r.srcSp by_ == .da by_
      let dstDa := r.dstSp by_ == .da by_
      let shape : Bool := match r.op with
        | .copy => d.rank == s.rank && d.exts == s.exts
        | .gather => d.rank == 1 && s.rank == 1 && d.e0 == s.e0 && d.e1 == n
        | _ => d.rank == 1 && s.rank == 1 && d.e0 == s.e0 && s.e1 == n
      let ixOut : Bool := match i with
        | some t => !t.dataAddrs.all linkPlace
        | none => false
      let out := d.writeAddrs de
      if shape = false then .error (.ub 32)
      else if r.op = .scadd ∧ (d.fmt ≠ .fp32 ∨ dstDa = false ∨ out.all linkPlace = false) then .error (.ub 32)
      else if r.op = .coldupd ∧ (dstDa = false ∨ srcDa = false ∨ out.all inFlash = false ∨ d.fmt ≠ s.fmt ∨ d.place ≠ s.place ∨ coldBad d
          ∨ (s.readAddrs se).all linkPlace = false ∨ ixOut = true) then .error (.ub 35)
      else if d.writeDup de then .error (.ub 10)
      else if r.dig ∧ dstDa = false then .error (.ub 37)
      else .ok ⟨d, de, s, se, i⟩

/-- The index list as read (R270). -/
def State.indices (s : State) (by_ : Issuer) (p : XPlan) : List Nat :=
  match p.i with
  | some t => t.indices.map (s.elemCode (.da by_) t)
  | none => []

/-- The rows that a transfer writes, each with the row of S that it takes; none: a gathered row of +0 (R270, R271). -/
def XPlan.pairs (p : XPlan) (op : DvOp) (ix : List Nat) : List (Ix × Option Ix) :=
  let row (k : Nat) : Ix := ⟨0, k, 0, 0⟩
  match op with
  | .copy => p.d.rows.map (fun r => (r, some r))
  | .gather => ix.zipIdx.map (fun (x, i) => (row i, if x < p.s.e1 then some (row x) else none))
  | _ => (ix.zipIdx.filter (fun x => x.1 < p.d.e1)).map (fun (x, i) => (row x, some (row i)))

/-- How many indices select no row of the table (R271). -/
def XPlan.outside (p : XPlan) (op : DvOp) (ix : List Nat) : Nat :=
  let n := if op = .gather then p.s.e1 else p.d.e1
  (ix.filter (fun x => n ≤ x)).length

/-- Whether an index list breaks R272. -/
def ixBad (op : DvOp) (ix : List Nat) : Bool :=
  match op with
  | .scatter => hasDup ix
  | .coldupd => (List.range (ix.length - 1)).any (fun k => ix.getD (k + 1) 0 ≤ ix.getD k 0)
  | _ => false

/-- A byte's identity in a space, so that bytes of different spaces compare. -/
def State.spKey (s : State) (sp : Sp) (a : Nat) : Nat :=
  match sp with
  | .da _ => a
  | .host b => match s.hostBuf b a with
    | some k => k
    | none => 2 ^ 80 + b * 2 ^ 48 + a

/-! ### What a transfer reads -/

/-- Every byte that a transfer may read; a coldupd reads its table too (R291). -/
def XPlan.reads (p : XPlan) (r : XReq) (by_ : Issuer) : List Nat :=
  (if r.srcSp by_ = .da by_ then p.s.readAddrs p.se else [])
    ++ (match p.i with
      | some t => t.dataAddrs
      | none => [])
    ++ (if r.op = .coldupd then p.d.writeAddrs p.de else if r.dstSp by_ = .da by_ ∧ p.d.empty = false then p.d.bookAddrs else [])

/-! ### Drover accesses of control registers (R53) -/

/-- The control words that some addresses touch, in order. -/
def State.ctlWords (s : State) (by_ : Issuer) (wr : Bool) (as : List Nat) : List Nat :=
  (as.filterMap (fun a => match s.locate by_ wr a with
    | .ctl o => some (o / 8 * 8)
    | _ => none)).eraseDups

/-- Whether an access reaches control registers other than in whole aligned words (UB-03). -/
def State.ctlPartial (s : State) (by_ : Issuer) (wr : Bool) (as : List Nat) : Bool :=
  (s.ctlWords by_ wr as).any (fun o => (List.range 8).any (fun k => !as.contains (0x300000000000 + o + k)))

/-- What reading control words leaves behind: their read-to-clear bits are clear (R17). -/
def State.ctlTouched (s : State) (os : List Nat) : State := os.foldl (fun (s : State) o => (s.ctlReadRc 0 o .full).2) s

/-- The writes of control words. -/
def State.ctlStores (s : State) (out : List (Nat × Nat)) : List Nat → Ans
  | [] => .next s
  | o :: os =>
    let v := leVal ((List.range 8).map (fun k => match out.find? (fun e => e.1 == 0x300000000000 + o + k) with
      | some e => e.2
      | none => 0))
    (s.ctlWrite 0 o .full v).andThen (fun s => s.ctlStores out os)

/-! ### Rows -/

/-- A row's element codes and scale bytes. -/
def State.rowRead (s : State) (sp : Sp) (t : Tens) (ed : Option Tens) (r : Ix) : List Nat × List Nat :=
  ((List.range t.e0).map (fun i => s.elemCode sp t { r with i0 := i }),
    if t.place = 0 then [] else (List.range t.blocks).map (fun b => s.spPeek sp (t.scaleAddr ed r b)))

/-- The values of a row (R91). -/
def rowVals (t : Tens) (tsc : Int) (book : Book) (row : List Nat × List Nat) : List Val :=
  row.1.zipIdx.map (fun (c, i) =>
    let x := codeVal t.fmt book.levels c
    if t.place ≠ 0 then (Scale.ofByte (row.2.getD (i / 32) 0)).apply x else if tsc = 0 then x else x.shift tsc)

/-- A row copied unchanged, with canonical NaNs (R100); under a scale of 0xFF its elements are as R93 says. -/
def rowCopied (t : Tens) (row : List Nat × List Nat) : List Nat :=
  row.1.zipIdx.map (fun (c, i) => if t.place ≠ 0 ∧ row.2.getD (i / 32) 0 = 255 then nanBlockCode t.fmt else canonCode t.fmt c)

/-- The bytes of a row's elements, packed; the odd nibble of a last byte keeps what the byte held (R74). -/
def packRow (t : Tens) (codes : List Nat) (last : Nat) : List Nat :=
  if t.fmt.bits = 4 then
    (List.range t.rowLen).map (fun k => codes.getD (2 * k) 0 % 16 + 16 * (if 2 * k + 1 < codes.length then codes.getD (2 * k + 1) 0 % 16 else last / 16))
  else codes.flatMap (leBytes t.bytesPer)

/-- What a row's write holds: its bytes by address, the counts of its elements, and their exact values with the address of each. -/
structure RowOut where
  bytes : List (Nat × Nat)
  counts : List Count
  exact : List (Nat × Res)
  deriving DecidableEq, Repr

/-- How a transfer reads and writes its rows: the two codebooks, the two tensor scales, and whether rows are copied unchanged (R100). -/
structure XMode where
  sb : Book
  db : Book
  st : Int
  dt : Int
  same : Bool
  deriving DecidableEq, Repr

/-- One row as it is written (R269-R273). -/
def State.rowOut (s : State) (by_ : Issuer) (r : XReq) (p : XPlan) (m : XMode) (row : Ix × Option Ix) : RowOut :=
  let ssp := r.srcSp by_
  let dsp := r.dstSp by_
  let src : List Nat × List Nat := match row.2 with
    | some q => s.rowRead ssp p.s p.se q
    | none => ([], [])
  let vals : List Val := match row.2 with
    | some _ => rowVals p.s m.st m.sb src
    | none => List.replicate p.d.e0 Val.zero
  let conv : List Nat × List Nat × List Count × List Res :=
    if r.op = .scadd then
      let old := (s.rowRead dsp p.d p.de row.1).1.map (fun c => f32Val (BitVec.ofNat 32 c))
      let sums := List.zipWith (fun (a b : Val) => (a.add b).toRes) old vals
      let enc := sums.map (f32RoundC .rne)
      (enc.map (fun e => e.1.toNat), [], enc.map (fun e => e.2), sums)
    else if m.same && row.2.isSome then (rowCopied p.s src, src.2, [], vals.map Val.toRes)
    else
      let rs := vals.map Val.toRes
      let e := encode p.d m.dt m.db.levels false rs
      (e.codes, e.scales, if row.2.isSome then e.counts else [], rs)
  let a := (p.d.addr { row.1 with i0 := 0 }).1
  let last := s.spPeek dsp ((a + p.d.rowLen - 1) % 2 ^ 48)
  { bytes := (p.d.rowAddrs p.de row.1).zip (packRow p.d conv.1 last ++ conv.2.1)
    counts := conv.2.2.1
    exact := conv.2.2.2.zipIdx.map (fun (v, i) => ((p.d.addr { row.1 with i0 := i }).1, v)) }

/-- Writes a row's bytes; the bytes of a coldupd wait for its commit (R291), those of control registers for their words (R53), and those that fault are
discarded (R54). -/
def State.rowPut (s : State) (sp : Sp) (cold : Bool) (o : RowOut) : State :=
  if cold then s else o.bytes.foldl (fun (s : State) (e : Nat × Nat) => s.spPoke sp e.1 e.2) s

/-- The rows of a transfer in order, as they are written: each is read after the one before it was written, as a scadd needs. -/
def State.rowsGo (s : State) (by_ : Issuer) (r : XReq) (p : XPlan) (m : XMode) : List (Ix × Option Ix) → List RowOut
  | [] => []
  | row :: rest =>
    let o := s.rowOut by_ r p m row
    o :: (s.rowPut (r.dstSp by_) (r.op == .coldupd) o).rowsGo by_ r p m rest

/-! ### Digests (R278, R279) -/

/-- The 64-byte chunks that some written bytes touch, by chunk index; none where one is not whole or lies before the origin. -/
def wholeChunks (origin : Nat) (bytes : List (Nat × Nat)) : Option (List Nat) :=
  let cs := (bytes.map (fun e => (e.1 - origin) / 64)).eraseDups
  if bytes.all (fun e => origin ≤ e.1)
      && cs.all (fun c => (List.range 64).all (fun k => bytes.any (fun e => e.1 == origin + 64 * c + k))) then some cs else none

/-- Adds the terms of some written bytes to a slot. -/
def State.digestBytes (s : State) (n : Nat) (origin : Nat) (bytes : List (Nat × Nat)) (cs : List Nat) : State :=
  cs.foldl (fun (s : State) c =>
    s.digestAdd n (digestTerm s.digestKey c ((List.range 64).map (fun k => match bytes.find? (fun e => e.1 == origin + 64 * c + k) with
      | some e => e.2
      | none => 0)))) s

/-- The digest of a transfer: row by row where every row is whole chunks, else over all that it writes. -/
def State.digestRows (s : State) (r : XReq) (os : List RowOut) : Ans :=
  if r.dig = false then .next s
  else
    let n := r.dslot
    let origin := s.reg .drvDigestOrigin [n]
    let all := os.flatMap RowOut.bytes
    if s.keyBad ∨ digestP ≤ s.digestSlot n then ub 43
    else if os.all (fun o => (wholeChunks origin o.bytes).isSome) then
      .next (os.foldl (fun (s : State) (o : RowOut) => match wholeChunks origin o.bytes with
        | some cs => s.digestBytes n origin o.bytes cs
        | none => s) s)
    else
      match wholeChunks origin all with
      | some cs => .next (s.digestBytes n origin all cs)
      | none => ub 37

/-! ### The move -/

/-- The exact values of a transfer by destination granule of 4 KiB, in order of first appearance (R320). -/
def rowGranules (os : List RowOut) : List (List Res) :=
  let l := os.flatMap RowOut.exact
  ((l.map (fun e => e.1 / 4096)).eraseDups).map (fun g => (l.filter (fun e => e.1 / 4096 == g)).map Prod.snd)

/-- Replaces an active transfer. -/
def State.setXfer (s : State) (id : Nat) (f : Xfer → Xfer) : State :=
  { s with xfers := s.xfers.map (fun x => if x.id = id then f x else x) }

/-- Who a transfer's accesses come from. -/
def Issuer.actor : Issuer → Actor
  | .tile t => .unit t .dv
  | _ => .other

/-- The addresses in the device address map among the addresses of a space. -/
def Sp.das (sp : Sp) (as : List Nat) : List Nat :=
  match sp with
  | .da _ => as
  | .host _ => []

/-- The records that a transfer uses: the codebooks of its operands (R87). -/
def XPlan.recs (p : XPlan) (r : XReq) (by_ : Issuer) : List Nat := (r.srcSp by_).das p.s.bookAddrs ++ (r.dstSp by_).das p.d.bookAddrs

/-- The transfer's operands name no element: nothing is read or written (R74). A gather from an empty table into rows still writes them (R271). -/
def XPlan.nothing (p : XPlan) (op : DvOp) : Bool := p.d.empty || (p.s.empty && op != .gather)

/-- Whether a transfer other than a coldupd writes into the flash window (R290): a byte there that R50 refuses is a fault and no such write. -/
def State.flashBreach (s : State) (by_ : Issuer) (op : DvOp) (as : List Nat) : Bool :=
  op != .coldupd && as.any (fun a => match s.locate by_ true a with
    | .flash _ => true
    | _ => false)

/-- Moves a transfer's data: reads with their faults, rows, counts, ledger, digest, control words, position. The index list, the source and the
destination are one access each: up to three ADDR_FAULT records and events (R55; DESIGN CHOICE, log 51). -/
def State.xferMove (s : State) (x : Xfer) (p : XPlan) : Ans :=
  let r := x.req
  let by_ := x.by_
  let w := by_.actor
  let ssp := r.srcSp by_
  let dsp := r.dstSp by_
  let cold := r.op == .coldupd
  let ixs := match p.i with
    | some t => t.dataAddrs
    | none => []
  let keysI := s.spKeys (.da by_) false ixs
  let (v, s) := s.look w (keysI ++ s.spKeys ssp false (p.s.readAddrs p.se))
  let was := s
  let ix := v.indices by_ p
  let pairs := p.pairs r.op ix
  let from_ := if p.s.empty then [] else pairs.flatMap (fun q => match q.2 with
    | some a => p.s.rowAddrs p.se a
    | none => []) ++ p.s.bookAddrs
  let to_ := pairs.flatMap (fun q => p.d.rowAddrs p.de q.1)
  let keysW := (to_.filter (s.spLive dsp true)).map (s.spKey dsp)
  let keysR := ((p.s.readAddrs p.se).filter (s.spLive ssp false)).map (s.spKey ssp)
  if ixBad r.op ix then ub 34
  else if meets keysW keysR ∨ meets keysW (ixs.filter (s.spLive (.da by_) false)) then ub 33
  else if s.flashBreach by_ r.op (dsp.das to_) then ub 35
  else if s.ctlPartial by_ false (ssp.das from_) ∨ s.ctlPartial by_ false ixs ∨ s.ctlPartial by_ true (dsp.das to_) then ub 3
  else if s.rdBreach by_ (ssp.das from_ ++ ixs) then ub 40
  else if s.recRaced w (s.spKeys ssp false p.s.bookAddrs) ∨ s.recRaced w (s.spKeys dsp false p.d.bookAddrs) then ub 13
  else
    match s.wrBreach (s.landing by_ (dsp.das to_)), v.book ssp p.s, v.book dsp p.d with
    | some u, _, _ => .fault (.undefined u)
    | _, .error u, _ => .fault (.undefined u)
    | _, _, .error u => .fault (.undefined u)
    | none, .ok sb, .ok db =>
      let same := cold ||
        (p.s.fmt == p.d.fmt && (p.s.place == 0) == (p.d.place == 0) && (p.s.place != 0 || x.ts == x.td) && sb.levels == db.levels)
      let words := s.ctlWords by_ false (ssp.das from_ ++ ixs)
      let s := ((s.spFaults (.da by_) false ixs).spFaults ssp false from_).spFaults dsp true to_
      let os := v.rowsGo by_ r p ⟨sb, db, x.ts, x.td, same⟩ pairs
      let out := os.flatMap RowOut.bytes
      let keys := if cold then [] else s.spKeys dsp true to_
      let stake := s.staked x.stake keys (r.op == .scadd)
      let s := s.raceWrite (os.foldl (fun (s : State) o => s.rowPut dsp cold o) s) w keys (r.op == .scadd)
      let s := s.ctlTouched words
      let s := if dvIndexed r.op then s.tallyAdd (regOff .drvIdxOor []) (p.outside r.op ix) else s
      let s := if os.isEmpty then s else (s.countTo by_ p.d (Counts.of (os.flatMap RowOut.counts))).ledgerUpdate by_ p.d (rowGranules os)
      (s.digestRows r os).andThen (fun s =>
        let s := match s.xferSlot x with
          | some k => if cold then s else s.progPos k 1 out.length
          | none => s
        let s := s.setXfer x.id (fun x => { x with moved := true, commit := if cold then out else [], stake := stake })
        if dsp ≠ .da by_ then .next s
        else match was.entryBreach s (out.map Prod.fst) with
          | some u => .fault (.undefined u)
          | none => s.ctlStores out (s.ctlWords by_ true (out.map Prod.fst)))

/-- Whether a halted die starts and ends no transfer (R509). -/
def State.dieHalted (s : State) (d : Nat) : Bool := s.isl.quiesced.contains d

/-- The host ports that a transfer uses: those of its bytes in a host buffer that do not fault (R284, R285). -/
def State.xferPorts (s : State) (r : XReq) (p : XPlan) : List Nat :=
  let ports (side : Nat) (as : List Nat) : List Nat :=
    if fld r.ctrl side 1 = 1 then (as.filter (fun a => (s.hostBuf (fld r.ctrl 15 8) a).isSome)).map r.hostPort else []
  ports 14 (p.s.readAddrs p.se) ++ ports 13 (p.d.writeAddrs p.de ++ p.d.bookAddrs)

/-- Whether the link of a host port that a transfer uses is held down (R519, R537): its data do not cross (DEDUCED, log 28). -/
def State.portsHeld (s : State) (r : XReq) (p : XPlan) : Bool := (s.xferPorts r p).any s.linkHeld

/-- Whether a transfer is held: its reads (R204, R288, R391), an access of it to a die that is being reset or quiesced, its own die's quiesce, its ledger
entries (R509, R519), or a host port that it uses. -/
def State.xferHeld (s : State) (x : Xfer) (p : XPlan) : Bool :=
  s.dieHalted x.die || s.rdHeld x.by_ (p.reads x.req x.by_) || s.wrHeld x.by_ ((x.req.dstSp x.by_).das (p.d.writeAddrs p.de))
    || s.entriesHeld (namedEntries [x.req.d, x.req.s]) || s.portsHeld x.req p

/-- Moves a transfer's data unless it is held. -/
def State.xferTry (s : State) (id : Nat) : Ans :=
  match s.xfers.find? (fun x => x.id == id) with
  | none => .next s
  | some x =>
    if x.moved then .next s
    else
      match x.req.plan x.by_ with
      | .error u => .fault (.undefined u)
      | .ok p =>
        if p.nothing x.req.op then .next (s.setXfer x.id (fun x => { x with moved := true }))
        else if s.xferHeld x p then .next s
        else s.xferMove x p

/-! ### Starting (R263, R264) -/

/-- The home die and class of an issuer. -/
def State.drvHome (s : State) : Issuer → Nat × Bool
  | .tile t => (t / 160, s.isPaddock t)
  | .queue q => (s.rf .drvQueueCtrl [q] 27 3, s.flag .drvQueueCtrl [q] 30)
  | _ => (0, false)

/-- What a transfer has at stake from its start on: the records that it uses, what it reads in rings and the entries that it names (R87, R303, R316). -/
def State.xferStake (s : State) (by_ : Issuer) (r : XReq) (p : XPlan) : Stake :=
  { Stake.none with recs := p.recs r by_, ring := s.ringReads by_ (p.reads r by_), entries := namedEntries [r.d, r.s] }

/-- A transfer starts on an engine, with the tensor scales of its operands as they are at its issue (R299); `claim` is the STARTS value of its progress
slot. -/
def State.drvStart (s : State) (by_ : Issuer) (eng : Nat) (r : XReq) (entry : Nat) (control : Word) (claim : Nat) : Ans :=
  match r.plan by_ with
  | .error u => .fault (.undefined u)
  | .ok p =>
    let id := s.nextId
    let x : Xfer := ⟨id, by_, (s.drvHome by_).1, eng, r, false, entry, control, claim, false, [], s.tScale p.d, s.tScale p.s, s.xferStake by_ r p⟩
    { s with nextId := id + 1, xfers := s.xfers ++ [x] }.xferTry id

/-- Issues a tile's drover instruction (R127, R264) once an engine of its class has room; a quiesced die starts none (R509). -/
def State.dvRun (s : State) (t : Nat) (o : DvOp) : Ans :=
  s.issue t .dv (fun e => e == .dv o) (fun e r =>
    match s.drvEngine (t / 160) (s.isPaddock t) with
    | none => .next s
    | some g =>
      let r := r.addFlight t ⟨.dv, e.signal, 0, 0, false, false, .transfer r.nextId, Stake.none⟩
      r.drvStart (.tile t) g ⟨o, e.dA, e.dB, e.dC, e.eA, e.eB, e.ctrl⟩ 0 0 0)

def execDvCopy (t : TileId) (s : State) : Ans := s.dvRun t.val .copy
def execDvGather (t : TileId) (s : State) : Ans := s.dvRun t.val .gather
def execDvScatter (t : TileId) (s : State) : Ans := s.dvRun t.val .scatter
def execDvScadd (t : TileId) (s : State) : Ans := s.dvRun t.val .scadd
def execDvColdupd (t : TileId) (s : State) : Ans := s.dvRun t.val .coldupd

/-! ### Memory queues (R281-R283, R295) -/

/-- The space of a queue's ring. -/
def State.queueSp (s : State) (q : Nat) : Sp :=
  if s.flag .drvQueueCtrl [q] 31 then .host (s.rf .drvQueueCtrl [q] 32 8) else .da (.queue q)

/-- The addresses of the 128 bytes of an entry in its ring; those of HBM are taken modulo 2^48 (R55). -/
def State.queueAddrs (s : State) (q c : Nat) : List Nat :=
  (List.range 128).map (fun k => (s.reg .drvQueueBase [q] + 128 * (c % 2 ^ s.queueLog q) + k) % 2 ^ 48)

/-- The transfers of a queue. -/
def State.queueXfers (s : State) (q : Nat) : List Xfer := s.xfers.filter (fun x => x.by_ == .queue q)

/-- The number of the queue's next entry to start. -/
def State.queueNext (s : State) (q : Nat) : Nat := (s.queueHead q + (s.queueXfers q).length) % 2 ^ 32

/-- A part of an entry as a descriptor. -/
def entDesc (e : List Nat) (off : Nat) : Desc := BitVec.ofNat 256 (leVal ((e.drop off).take 32))

/-- An entry's request and CONTROL word, or the undefined case: reserved bytes and bits, the instruction's own rules, SCALE_PLACE 0b001 (R75). -/
def queueReq (e : List Nat) : Except UB (XReq × Nat) :=
  let c := leVal ((e.drop 96).take 8)
  let ctrl := fld c 30 23
  let op : Option DvOp := match fld c 53 5 with
    | 0 => some .copy | 1 => some .gather | 2 => some .scatter | 3 => some .scadd | 4 => some .coldupd
    | _ => none
  let place (off : Nat) : Nat := fld (entDesc e off).toNat 65 3
  match op with
  | none => .error (.ub 15)
  | some op =>
    if (e.drop 104).any (· != 0) ∨ fld c 0 21 ≠ 0 ∨ (op = .copy ∧ (entDesc e 64).toNat ≠ 0) then .error (.ub 1)
    else if fld c 58 6 ≠ 0x30 ∨ fld ctrl 0 2 ≠ 0 ∨ fld ctrl 11 2 = 3 ∨ (fld ctrl 13 2 = 0 ∧ fld ctrl 15 8 ≠ 0) then .error (.ub 15)
    else if place 0 = 1 ∨ place 32 = 1 then .error (.ub 7)
    else .ok (⟨op, entDesc e 0, entDesc e 32, entDesc e 64, 0, 0, ctrl⟩, c)

/-- The bytes that a transfer is to write (R295): of its rows, without those that an index out of range discards. -/
def State.toWrite (s : State) (by_ : Issuer) (r : XReq) : Nat :=
  match r.plan by_ with
  | .error _ => 0
  | .ok p =>
    if p.nothing r.op then 0
    else (p.pairs r.op (s.indices by_ p)).length * (p.d.rowLen + (if p.d.place = 0 then 0 else p.d.blocks))

/-- Whether a queue's ring lies in host memory that no port reaches: each may fetch entries (DESIGN CHOICE, log 28). -/
def State.queueCut (s : State) (q : Nat) : Bool := s.flag .drvQueueCtrl [q] 31 && s.linkHeld 0 && s.linkHeld 1

/-- Whether an entry of a queue is the device's own: it posts the work of a round's boundary itself (R399), which then runs as ROUNDEND and APPLY. -/
def State.queueOwn (s : State) (q n : Nat) : Bool := s.applyQueue == q && (s.queueTail q + 2 ^ 32 - n) % 2 ^ 32 ≤ s.far.posted

/-- A posted entry starts once INFLIGHT, FENCE and engine room allow it. It is read here: one that was rewritten after its posting (UB-36) runs as it
stands (log 23). -/
def execQueueEntryStart (q : Fin 256) (s : State) : Ans :=
  let q := q.val
  let by_ : Issuer := .queue q
  let (die, pad) := s.drvHome by_
  let n := s.queueNext q
  let live := (s.queueXfers q).filter (fun x => !x.done)
  let as := s.queueAddrs q n
  if s.queueOn q = false ∨ n = s.queueTail q ∨ s.queueOwn q n = true ∨ s.queueInflight q ≤ live.length ∨ s.dieHalted die = true ∨ s.queueCut q = true
      ∨ s.rdHeld by_ ((s.queueSp q).das as) = true then .next s
  else
    match s.drvEngine die pad, queueReq (as.map (s.spPeek (s.queueSp q))) with
    | none, _ => .next s
    | some _, .error u => .fault (.undefined u)
    | some g, .ok (r, c) =>
      if (fld c 28 1 = 1 ∧ live ≠ []) ∨ s.ledgerWait [r.d, r.s] = true then .next s
      else
        let s := s.spFaults (s.queueSp q) false as
        match progSlot c with
        | none => s.drvStart by_ g r n (BitVec.ofNat 64 c) 0
        | some p =>
          let s := s.progClaim p 1 0 (s.toWrite by_ r)
          s.drvStart by_ g r n (BitVec.ofNat 64 c) (s.rf .evtProgState [p] 0 32)

/-- HEAD advances past completed entries, in order (R281). -/
def State.queueRetire (q : Nat) : Nat → State → State
  | 0, s => s
  | k + 1, s =>
    match s.xfers.find? (fun x => x.by_ == .queue q && x.done && x.entry == s.queueHead q) with
    | none => s
    | some x => State.queueRetire q k ({ s with xfers := s.xfers.filter (fun y => y.id != x.id) }.setRf .drvQueueHead [q] 0 32 (s.queueHead q + 1))

/-! ### The flash cold store (R287-R294) -/

/-- The rating in bytes: 87,660 TB (R293). -/
def flashRating : Nat := 87660 * 10 ^ 12

/-- Programs some bytes of NAND (R293). -/
def State.flashWear (s : State) (n : Nat) : State :=
  let b := s.reg .drvFlashWearBytes [] + n
  let w := min 65535 (10000 * b / flashRating)
  let s := (s.setReg .drvFlashWearBytes [] b).setReg .drvFlashWear [] w
  let e8 := 8000 ≤ w && !s.flash.warned8
  let e10 := 10000 ≤ w && !s.flash.warned10
  let s := { s with flash := { s.flash with warned8 := s.flash.warned8 || e8, warned10 := s.flash.warned10 || e10 } }
  let s := if e8 then s.raise 0x0203 0 0 0 w 0 else s
  if e10 then s.raise 0x0203 0 0 0 w 0 else s

/-- The cold store writes its page map into HBM, when it loads it and when it moves pages: its bytes are free (R287, R291, R294; log 6). -/
def State.mapLoad (s : State) : State :=
  let m : PageMap := ⟨s.mapBase, s.free, (List.range 5).map (fun i => s.reg .idHbmRegion [s.mapBase / 2 ^ 30 + i]), s.gen + 1⟩
  { s with
    mem := s.mem.filter (fun e => (m.offset e.1).isNone), free := s.free + 1, gen := s.gen + 1
    flash := { s.flash with
      maps := m :: s.flash.maps.filter (fun o => o.base != m.base || o.words != m.words), zeros := s.flash.zeros.filter (fun k => (m.offset k).isNone) } }

/-- The bytes of a batch that reach the cold store: those that fault are discarded (R51, R54). -/
def State.batch (s : State) (x : Xfer) : List (Nat × Nat) :=
  x.commit.filter (fun e => match s.locate x.by_ true e.1 with
    | .flash _ => true
    | _ => false)

/-- A batch commits (R291): its rows become visible, the map follows, its pages and the journal record count as programmed. How much the record takes
and what spare space is left the spec does not give (log 6). A batch of which nothing reaches the cold store programs nothing. -/
def State.flashCommit (s : State) (x : Xfer) : State :=
  let b := s.batch x
  if b.isEmpty then s
  else
    let pages := (b.map (fun e => e.1 / 16384)).eraseDups.length
    let s := b.foldl (fun (s : State) (e : Nat × Nat) => s.setByte e.1 e.2) s
    let (j, s) := s.takeWord
    let (f, s) := s.takeWord
    ((s.flashWear (16384 * pages + j.toNat % 2 ^ 32)).setRf .drvFlashStatus [] 0 14 (f.toNat % 10001)).mapLoad

/-- Whether the cold store cannot reach its page map in HBM (R509, R519). -/
def State.mapHeld (s : State) : Bool := s.rangeHeld .unit s.mapBase mapLen

/-- Whether a transfer's end is held: its die is quiesced (R509), a host port over which R284 has it read back is held down, an earlier batch has not
committed (R292), or the map of a batch's commit cannot be reached. -/
def State.endHeld (s : State) (x : Xfer) : Bool :=
  let first := s.xfers.find? (fun y => y.req.op == .coldupd && y.moved && !y.done)
  s.dieHalted x.die || (x.req.op == .coldupd && (first.map Xfer.id != some x.id || s.mapHeld))
    || (match x.req.plan x.by_ with
      | .ok p => s.portsHeld x.req p
      | .error _ => false)

/-- A transfer completes (R275): a cold batch commits in the order of acceptance (R292), then the token rises or the entry retires. -/
def execTransferComplete (id : Nat) (s : State) : Ans :=
  match s.xfers.find? (fun x => x.id == id) with
  | none => .next s
  | some x =>
    if x.moved = false ∨ x.done = true ∨ s.endHeld x = true then .next s
    else
      let s := if x.req.op = .coldupd then s.flashCommit x else s
      match x.by_ with
      | .tile t =>
        let s : State := { s with xfers := s.xfers.filter (fun y => y.id != id) }
        .next (s.finishFlight t (fun (f : Flight) => f.queue == .dv && f.work == .transfer id) none)
      | .queue q =>
        let c := x.control.toNat
        let s := s.setXfer id (fun x => { x with done := true })
        let s := if fld c 29 1 = 1 then s.raise 0x0201 0 2 q x.entry 0 else s
        let s := match s.xferSlot x with
          | some p => (s.progPos p 1 x.commit.length).progEnd p 1 true
          | none => s
        .next (State.queueRetire q 65536 s)
      | _ => .next { s with xfers := s.xfers.filter (fun y => y.id != id) }

/-! ### Held accesses (R204, R288, R391, R509, R519) -/

/-- A write of the host through the memory window (R54-R56): the bytes that land, and the undefined cases of their places. -/
def State.hostPut (s : State) (p da : Nat) (b : List Nat) : Ans :=
  let as := (List.range b.length).map (da + ·)
  let by_ : Issuer := .host p
  let s := (s.recordFaults by_ true as).guardWrite by_ as
  (s.checkEntries (s.raceWrite (s.pokes by_ da b) .other (s.spKeys (.da by_) true as)) as).done

/-- A read of the host through the memory window: its completion leaves unless the port's link is held down (R537, log 10). -/
def State.hostGet (s : State) (p da n : Nat) : State :=
  let as := (List.range n).map (da + ·)
  let by_ : Issuer := .host p
  let s := s.recordFaults by_ false as
  let (v, s) := s.look .other (s.spKeys (.da by_) false as)
  if s.linkHeld p then s else { s with out := s.out ++ [.memData p ((v.peeks by_ da n).map (BitVec.ofNat 8))] }

/-- Whether a host access is held. -/
def State.hostHeld (s : State) (r : HostRead) : Bool :=
  let as := (List.range r.n).map (r.da + ·)
  match r.put with
  | none => s.rdHeld (.host r.port) as
  | some _ => s.wrHeld (.host r.port) as

/-- Serves a host access. -/
def State.serveHost (s : State) (r : HostRead) : Ans :=
  match r.put with
  | none => .next (s.hostGet r.port r.da r.n)
  | some b => s.hostPut r.port r.da b

/-- A held access goes on once nothing holds it. -/
def State.heldServe (s : State) (id : Nat) : Ans :=
  match s.hostReads.find? (fun r => r.id == id) with
  | some r => if s.hostHeld r then .next s else State.serveHost { s with hostReads := s.hostReads.filter (fun q => q.id != r.id) } r
  | none => s.xferTry id

/-- Several held accesses, in order. -/
def State.heldAll (s : State) : List Nat → Ans
  | [] => .next s
  | id :: ids => (s.heldServe id).andThen (fun s => s.heldAll ids)

/-- The numbers of the transfers and host accesses that have not moved. -/
def State.waitingIds (s : State) : List Nat := (s.xfers.filter (fun x => !x.moved)).map Xfer.id ++ s.hostReads.map HostRead.id

def execHeldGroupRead (id : Nat) (s : State) : Ans := s.heldServe id
def execApplyWaitRead (id : Nat) (s : State) : Ans := s.heldServe id

/-- The page map has loaded (R287, R288): it stands in HBM, READY, and held reads go on. -/
def execFlashReady (s : State) : Ans :=
  if s.flag .drvFlashCtrl [] 63 && !s.flashReady && !s.halted && !s.mapHeld then
    let s := s.mapLoad.setRf .drvFlashStatus [] 63 1 1
    s.heldAll s.waitingIds
  else .next s

/-- A compaction pass starts by itself (R294); the spare space that is left is the environment's to say. -/
def execCompactionAutoStart (freeBp : Nat) (s : State) : Ans :=
  if freeBp < s.rf .drvFlashCompact [] 0 14 ∧ s.halted = false then .next ((s.setRf .drvFlashStatus [] 0 14 freeBp).compactBegin) else .next s

/-- A compaction pass ends (R294) once FREE_BP has reached twice LOW_BP, or no block holds a stale page, as the environment says. The bytes that it
moved are programmed, and the map is updated. -/
def execCompactionEnd (left : Compacted) (s : State) : Ans :=
  let freeBp := left.freeBp
  if s.flash.compacting && !s.halted && !s.mapHeld && (2 * s.rf .drvFlashCompact [] 0 14 ≤ min 10000 freeBp || !left.stale) then
    let s := { s with flash := { s.flash with compacting := false } }
    let s := (s.setRf .drvFlashCompact [] 62 1 0).setRf .drvFlashStatus [] 0 14 (min 10000 freeBp)
    let n := s.reg .evtProgTotal [64]
    let s := (s.progPos 64 4 n).progEnd 64 4 true |>.flashWear n
    .next (if s.flashReady then s.mapLoad else s)
  else .next s

/-! ### Boundaries (R389, R391) -/

/-- ROUNDEND finishes; where the boundary ends, reads of APPLY_WAIT go on. -/
def execRoundendComplete (s : State) : Ans :=
  if s.halted then .next s else s.roundendDone.andThen (fun s => s.heldAll s.waitingIds)

/-- APPLY finishes: PHASE becomes VOTE, and reads of APPLY_WAIT go on. -/
def execApplyComplete (s : State) : Ans :=
  if s.halted then .next s else s.applyEnds.andThen (fun s => s.heldAll s.waitingIds)

end Sys2Proof.Machine
end

