-- ==== Sys2Proof/Machine/Power.lean ====
section
/-!
DEFINITION. The commands of clocks, power, heat, supplies and resets (R494-R506, R517-R521, R531-R543).
-/
namespace Sys2Proof.Machine

/-! ### Pins that show the state (R535, J10) -/

/-- PWR_OK of J1: released only while READY is 1 and the compute domain is powered, low during warm and die resets (R535). -/
def State.pwrOk (s : State) : Bool := s.isReady && s.isl.powered && !s.isl.running.any (fun r => r.kind == 2 || r.kind == 3)

/-- READY_N of J10: low while READY is 1. -/
def State.readyN (s : State) : Bool := !s.isReady

/-! ### The power cap (R501, R503) -/

def State.runNow (s : State) : Nat := s.rf .clkThrottle [] 0 5
def State.hostMax (s : State) : Nat := s.rf .clkThrottle [] 16 5
def State.runFloor (s : State) : Nat := s.rf .clkThrottle [] 8 5

/-- RUN, and what holds it down: the cap, the thermal limit or HOST_MAX. -/
def State.setRun (s : State) (run : Nat) : State :=
  let lim := s.isl.thermLimit
  let cap := run < min s.hostMax lim
  let host := run = s.hostMax && s.hostMax < 16
  let th := run = lim && lim < 16
  (((s.setRf .clkThrottle [] 0 5 run).setRf .clkThrottle [] 5 1 (bit host)).setRf .clkThrottle [] 6 1 (bit cap)).setRf .clkThrottle [] 7 1 (bit th)

/-- POWER_CAP (R503): RUN, P25 and CAP_MISS. -/
def State.raisePowerCap (s : State) : State :=
  s.raise 0x0701 0 0 0 s.runNow (s.rf .clkPower [] 0 16 + s.rf .clkCap [] 63 1 * 2 ^ 32)

/-- The POWER_CAP event of a change of RUN made for the cap, at most once in 4,000 intervals. -/
def State.capEvent (s : State) (changed : Bool) : State :=
  let gap := s.isl.capGap.map (· + 1)
  let due := match gap with
    | none => true
    | some g => 4000 ≤ g
  if changed && due then (s.setIsl { s.isl with capGap := some 0 }).raisePowerCap
  else s.setIsl { s.isl with capGap := gap }

/-- A 25 µs interval ends with an average of `watts`; the island's power controller acts at every one, before READY too. -/
def execPowerInterval (watts : Nat) (s : State) : Ans :=
  if s.isl.down = false then
    let s := (s.setRf .clkPower [] 0 16 watts).setRf .clkPower [] 32 16 (max (s.rf .clkPower [] 32 16) (min 65535 watts))
    let cap := s.rf .clkCap [] 0 13
    let above := cap < watts
    let run := s.runNow
    let fall := above && s.runFloor < run
    let low := if 16 * watts < 15 * cap then s.isl.lowRun + 1 else 0
    let rise := 40 ≤ low && run < min s.hostMax s.isl.thermLimit
    let next := if fall then run - 1 else if rise then run + 1 else run
    let miss := if above && run ≤ s.runFloor then s.isl.overRun + 1 else 0
    let s := s.setIsl { s.isl with lowRun := if 40 ≤ low then 0 else low, overRun := miss }
    let s := s.setRun (min next s.hostMax)
    let s := if miss = 40 then (s.setRf .clkCap [] 63 1 1).raisePowerCap else s
    .next (s.capEvent (fall || rise))
  else .next s

/-! ### Heat (R504-R506, R543) -/

/-- 25 ms in edges of the timebase. -/
def holdTicks : Nat := 2500000

/-- Whether at most 25 ms have passed since a supply was lost. -/
def State.within (s : State) (lost : Option Nat) : Bool :=
  match lost with
  | some t => (s.time + 2 ^ 64 - t) % 2 ^ 64 ≤ holdTicks
  | none => false

/-- Whether the island runs: on STBY, or on its hold-up for 25 ms after STBY is lost (R534, R543). -/
def State.islandRuns (s : State) : Bool := !s.isl.down || s.within s.isl.stbyLostAt

/-- A signed reading in 1/16 °C. -/
def tempOf (raw : Nat) : Int := sext 16 raw

/-- The code that names a die, a stack or a coolant loop in THERMAL_WARN (log 17). -/
def warnUnit (k : Nat) : Nat := (Config.openCode k).toNat

/-- The first reading above a limit: its place and value. -/
def firstOver (lim : Nat) (l : List Nat) : Option (Nat × Nat) :=
  (l.zipIdx.find? (fun e => decide ((16 * lim : Int) < tempOf e.1))).map (fun e => (e.2, e.1))

/-- THERMAL_WARN when a limit is exceeded after being clear (R504). -/
def State.warnOver (s : State) (was : Bool) (base : Nat) (o : Option (Nat × Nat)) : State :=
  match o with
  | some (i, raw) => if was then s else s.raise 0x0702 0 0 0 (warnUnit (base + i)) (raw % 65536)
  | none => s

/-- The thermal controller acts on the readings (R504). `coolant` lists A inlet, A outlet, B inlet, B outlet. -/
def execThermalInterval (dies hbm0 hbm1 coolant : List Nat) (s : State) : Ans :=
  if s.isl.powered = false then .next s
  else
    let s := allDies.foldl (fun (s : State) d =>
      s.setReg .clkTemp [d] (dies.getD d 0 % 65536 + hbm0.getD d 0 % 65536 * 2 ^ 16 + hbm1.getD d 0 % 65536 * 2 ^ 32)) s
    let s := s.setReg .clkCoolant [] (((List.range 4).map (fun i => coolant.getD i 0 % 65536 * 2 ^ (16 * i))).sum)
    let dw := s.rf .clkTherm [] 56 8
    let hw := s.rf .clkTherm [] 40 8
    let cw := s.rf .clkTherm [] 24 8
    let stk := allDies.flatMap (fun d => [hbm0.getD d 0, hbm1.getD d 0])
    let cool (lim : Nat) (l : List Nat) : Bool := l.all (fun r => decide (tempOf r ≤ 16 * ((lim : Int) - 3)))
    let od := firstOver dw dies
    let oh := firstOver hw stk
    let oa := firstOver cw [coolant.getD 1 0]
    let ob := firstOver cw [coolant.getD 3 0]
    let i := s.isl
    let lim := if od.isSome || oh.isSome then max 1 (i.thermLimit - 1)
      else if cool dw dies && cool hw stk then min 16 (i.thermLimit + 1) else i.thermLimit
    let s := s.setIsl { i with thermLimit := lim, dieOver := od.isSome, hbmOver := oh.isSome, coolOver := [oa.isSome, ob.isSome] }
    let s := s.setRun (min s.runNow lim)
    .next ((((s.warnOver i.dieOver 100 od).warnOver i.hbmOver 200 oh).warnOver (i.coolOver.getD 0 false) 300 oa).warnOver (i.coolOver.getD 1 false) 301 ob)

/-- A comparator of a die, or of one of its stacks, reports a temperature in °C (R505). -/
def execThermalTrip (_d : Fin 8) (hbm : Bool) (temp : Nat) (s : State) : Ans :=
  let lim := if hbm then s.rf .clkTherm [] 32 8 else s.rf .clkTherm [] 48 8
  .next (if s.isl.powered ∧ lim ≤ temp then s.trip else s)

/-- The island's own sensor (R506). -/
def execIslandOvertemp (temp : Nat) (s : State) : Ans :=
  .next (if 125 ≤ temp ∧ s.islandRuns = true then (s.zeroiseKeys trigHeat).trip else s)

/-- The tamper input has been low for 1 ms (R506, R543), on the standby's hold-up too. -/
def execTamper (s : State) : Ans := .next (if s.islandRuns then (s.zeroiseKeys trigTamper).trip else s)

/-! ### Heartbeats and PLLs (R495, R496) -/

/-- A heartbeat check, from the power-up of the dies on: ten misses in a row are 100 ms; the die is reset. -/
def execHeartbeatCheck (alive : List Bool) (s : State) : Ans :=
  if s.isl.powered && s.flag .shmStatus [] 63 then
    let ms := allDies.map (fun d => if alive.getD d true then 0 else s.isl.misses.getD d 0 + 1)
    let s := s.setIsl { s.isl with misses := ms.map (fun m => if 10 ≤ m then 0 else m) }
    .next ((allDies.filter (fun d => 10 ≤ ms.getD d 0)).foldl (fun (s : State) d => s.dieReset d 8) s)
  else .next s

/-- A root PLL loses lock (R496); without the reference clock of J2 no PLL holds lock (R536). -/
def execPllLoss (d : ClockLoss) (s : State) : Ans :=
  if s.isl.powered then
    let s := (s.setIsl { s.isl with refclk := [d.clk0, d.clk1] }).warmReset 5
    .next (if d.clk0 then s.setRf .clkStatus [] (48 + d.die.val) 1 0 else s.setRf .clkStatus [] 48 8 0)
  else .next s

/-! ### Start and PERST_N (R499, R500, R537) -/

def execPowerUp (clk0 clk1 : Bool) (s : State) : Ans := .next (s.powerUp clk0 clk1)
def execReady (s : State) : Ans := .next s.startEnds

/-- PERST_N of a port has been low for 100 µs: on J2 a warm reset once READY is 1; either way the port's link is down. -/
def execPerst (port : Fin 2) (s : State) : Ans :=
  let s := if port.val = 0 ∧ s.isl.powered ∧ s.isReady then s.warmReset 2 else s
  .next (if s.isl.perst.contains port.val then s else s.setIsl { s.isl with perst := s.isl.perst ++ [port.val] })

/-- Where a host link may have returned, the work rings look at what was posted meanwhile (R475). -/
def State.ringsLook (s : State) : State := (List.range 64).foldl State.ringLook s

def execPerstRelease (port : Fin 2) (s : State) : Ans :=
  .next (s.setIsl { s.isl with perst := s.isl.perst.filter (· != port.val) }).ringsLook

/-! ### Supplies (R531-R535) -/

/-- MAIN falls below 46.0 V: power-off and a last-gasp record; on the standby's hold-up the record of its loss stands (R534). -/
def execMainLoss (s : State) : Ans :=
  if s.isl.mainOk = false then .next s
  else
    let s := if s.isl.down then s else s.lastGasp causeMain
    .next (s.powerOff.setIsl { s.powerOff.isl with mainOk := false, mainLostAt := some s.time })

/-- MAIN has become valid (R531): the compute domain may start. -/
def execMainValid (s : State) : Ans :=
  if s.isl.mainOk then .next s else .next ((s.setIsl { s.isl with mainOk := true }).setRf .clkStatus [] 40 4 1)

/-- STBY falls below 11.0 V (R534): quiesce, power-off, a last-gasp record whose cause is the first supply to fall, and the island stops. -/
def execStbyLoss (s : State) : Ans :=
  if s.isl.stbyOk = false then .next s
  else
    let recent := !s.isl.mainOk && s.within s.isl.mainLostAt
    let t := s.time
    let s := if recent then s else s.lastGasp causeStby
    let s := s.powerOff
    .next ((s.setIsl { s.isl with stbyOk := false, down := true, stbyLostAt := some t }).setRf .shmStatus [] 63 1 0)

/-- MAIN rises above 63.0 V: the input stage disconnects (R533). -/
def execOverVoltage (s : State) : Ans := .next (s.powerOff.setIsl { s.powerOff.isl with overVolt := true })

/-- MAIN has been at or below 61.0 V for 100 ms: as if it had just become valid (R533). -/
def execOverVoltageRecovery (s : State) : Ans :=
  if s.isl.overVolt then .next ((s.setIsl { s.isl with overVolt := false, mainOk := true }).setRf .clkStatus [] 40 4 1) else .next s

/-- INHIBIT_N goes low: the power-off sequence (R534). -/
def execInhibit (s : State) : Ans := .next (s.powerOff.setIsl { s.powerOff.isl with inhibited := true })

/-- INHIBIT_N goes high, which counts as POWER_ON (R534). -/
def execInhibitRelease (s : State) : Ans :=
  if s.isl.inhibited then .next (s.setIsl { s.isl with inhibited := false, heldOff := false }) else .next s

/-! ### Far-port cages (R540, R541) -/

/-- LINK of a far port. -/
def State.setFarLink (s : State) (f : Nat) (up : Bool) : State := if s.isl.powered then s.setRf .farPortCfg [f] 63 1 (bit up) else s

/-- Replaces a cage's record. -/
def State.setCage (s : State) (f : Nat) (x : Cage) : State := s.setIsl { s.isl with cages := tblSet (fun _ => Cage.reset) s.isl.cages f x }

/-- A plug-in module of a power class in watts is inserted, or the module is removed (R540, R541). The die controller lets an inserted one out of reset
while the compute domain is powered; it raises LINK where it is not in low-power mode. -/
def execPlugInModuleChange (f : Fin 4) (watts : Option Nat) (s : State) : Ans :=
  let s := s.setCage f.val ⟨watts, watts.isSome && !s.isl.powered, true⟩
  if s.isl.powered = false then .next s
  else match watts with
    | none => .next ((s.setFarLink f.val false).cageLook f.val)
    | some _ => let s := s.cageLook f.val; .next (s.setFarLink f.val (s.cageLinks f.val))

/-- The link of a far port comes up or goes down; none comes up over a module that is absent, in reset or in low-power mode (R540, R541). -/
def execFarPortLinkChange (f : Fin 4) (up : Bool) (s : State) : Ans :=
  .next ((s.setFarLink f.val (up && s.cageLinks f.val)).cageLook f.val)

/-! ### Resets (R517-R521) -/

/-- A cold reset: the standby has returned (R534). -/
def execColdReset (s : State) : Ans := .next (s.coldReset 1)

/-- The resets that CLK.RESET asks for. -/
def execWarmReset (s : State) : Ans := .next (if s.isl.powered then s.askedReset (fun r => r.kind == 2) else s)
def execDieReset (d : Fin 8) (s : State) : Ans :=
  .next (if s.isl.powered then s.askedReset (fun r => r.kind == 3 && r.unit == d.val) else s)
def execTileReset (t : TileId) (s : State) : Ans :=
  .next (if s.isl.powered then s.askedReset (fun r => r.kind == 4 && s.physical r.unit == some t.val) else s)
def execLinkReset (port : Nat) (s : State) : Ans :=
  .next (if s.isl.powered then s.askedReset (fun r => r.kind == 5 && r.unit == port) else s)

/-- The oldest running reset ends (R529). After a warm or die reset the work rings look at their entries (R475), and the accesses that it held go on
(R519). -/
def execResetDone (s : State) : Ans :=
  match s.isl.running with
  | [] => .next s
  | r :: _ =>
    if 3 < r.kind then .next s.resetEnds
    else
      let s := s.resetEnds.ringsLook.unhold.resumeCtxs
      (s.heldAll s.waitingIds).andThen State.flush

end Sys2Proof.Machine
end

