-- ==== Sys2Proof/Machine/Ring.lean ====
section
/-!
DEFINITION. The commands of work rings (R472-R475): an entry that completes at once, one that waits and its completion; the end of a
vector's holdoff (R482) and the snapshots of the tallies (R488).
-/
namespace Sys2Proof.Machine

/-! ### Entries that complete -/

/-- An entry completes: STATUS and RESULT, RING_DONE where it asks for it, HEAD (R472); the next entry may be a bad one. -/
def State.ringFinish (s : State) (w : Nat) (e : List Nat) (st result : Nat) : State :=
  let s := s.setLe (hostKey (s.ringSlotAt w (s.ringHead w) + 40)) 8 result
  let s := (s.ringStatus w st).setRingNow w []
  let s := if entF e 1 1 % 2 = 1 then s.raise 0x0001 0 0xA w (entF e 4 4) st else s
  (s.setRf .idWringHead [w] 0 32 (s.ringHead w + 1)).ringLook w

/-- A ring's entry with a given command: it runs where HEAD holds it and the ring may take it; else the command does nothing. -/
def State.ringRun (s : State) (w op : Nat) (f : List Nat → State → Ans) : Ans :=
  if s.ringCan w && entF (s.ringEntry w) 0 1 == op && !badEntry (s.ringEntry w) then f (s.ringEntry w) s else .next s

/-- The enabled tiles of a slice. -/
def State.sliceTiles (s : State) (a : Nat) : List Nat := allTiles.filter (fun t => s.present t && s.slice t == a)

/-- Whether a START of a tile is refused (R44, R173). -/
def State.startRefused (s : State) (t : Nat) : Bool := s.tileRunning t || s.startForbidden t

/-- Writes START to some tiles. -/
def State.startAll (s : State) : List Nat → Ans
  | [] => .next s
  | t :: ts => (s.tryStart t).andThen (fun s => s.startAll ts)

/-- SLICE_START (R473). -/
def State.ringStart (s : State) (w : Nat) (e : List Nat) : Ans :=
  let ts := s.sliceTiles (entF e 8 8 % 64)
  let n := (ts.filter s.startRefused).length
  (s.startAll ts).andThen (fun s => .next (s.ringFinish w e (if n = 0 then 1 else 3) n))

/-- REG_WRITE (R472, R476); a write that resets the ring's own registers leaves nothing to complete. -/
def State.ringWrite (s : State) (w : Nat) (e : List Nat) : Ans :=
  let off := entF e 8 8
  let own : Bool := match regFind off with
    | some (n, idx) => (n == .idWringBase || n == .idWringCtrl || n == .idWringHead || n == .idWringDb) && idx == [w]
    | none => false
  if own then ub 58
  else
    (s.ctlWrite (s.rf .idWringCtrl [w] 56 1) off .full (entF e 16 8)).andThen (fun s =>
      .next (if s.flag .idWringCtrl [w] 63 then s.ringFinish w e 1 0 else s))

/-- The entry at HEAD begins to wait. -/
def State.ringHold (s : State) (w : Nat) (e : List Nat) : State := s.setRingNow w e

/-- The tiles of a waiting entry's slice that have not stopped. -/
def State.ringLeft (s : State) (e : List Nat) : Nat := ((s.sliceTiles (entF e 8 8 % 64)).filter s.tileRunning).length

/-- The entry that waits completes: its condition holds, or its limit passes (R472). The time that has passed is the environment's (log 13). -/
def State.ringEnds (s : State) (w : Nat) (timeout : Bool) : State :=
  let e := s.ringNow w
  let limit := timeout && entF e 32 4 != 0
  if e.isEmpty || !s.hostUp (s.rf .idWringCtrl [w] 56 1) then s
  else if entF e 0 1 = 5 then
    let (v, s) := s.ctlReadRc (s.rf .idWringCtrl [w] 56 1) (entF e 8 8) .full
    if v &&& entF e 16 8 = entF e 24 8 then s.ringFinish w e 1 v
    else if limit then s.ringFinish w e 2 v else s
  else
    let n := s.ringLeft e
    if n = 0 then s.ringFinish w e 1 0 else if limit ∧ entF e 0 1 = 3 then s.ringFinish w e 2 n else s

def execWrNop (w : Fin 64) (s : State) : Ans := s.ringRun w.val 0 (fun e s => .next (s.ringFinish w.val e 1 0))
def execWrSliceStart (w : Fin 64) (s : State) : Ans := s.ringRun w.val 1 (fun e s => s.ringStart w.val e)
def execWrSliceStop (w : Fin 64) (s : State) : Ans :=
  s.ringRun w.val 2 (fun e s => .next (((s.sliceTiles (entF e 8 8 % 64)).foldl State.stopTile s).ringHold w.val e))
def execWrSliceWait (w : Fin 64) (s : State) : Ans := s.ringRun w.val 3 (fun e s => .next (s.ringHold w.val e))
def execWrRegWrite (w : Fin 64) (s : State) : Ans := s.ringRun w.val 4 (fun e s => s.ringWrite w.val e)
def execWrRegWait (w : Fin 64) (s : State) : Ans := s.ringRun w.val 5 (fun e s => .next (s.ringHold w.val e))
def execRingDone (w : Fin 64) (timeout : Bool) (s : State) : Ans := .next (s.ringEnds w.val timeout)

/-! ### Holdoff and snapshots -/

/-- The holdoff of a vector ends (R482): one message where records were written; the message begins a new holdoff. -/
def execHoldoffEnd (vec : Fin 2048) (s : State) : Ans :=
  match s.ev.holdoff.find? (fun h => h.1 == vec.val) with
  | none => .next s
  | some h =>
    let rest := s.ev.holdoff.filter (fun h => h.1 != vec.val)
    let s := { s with ev := { s.ev with holdoff := rest } }
    if h.2 then
      .next (s.sendMsix vec.val)
    else .next s

/-- Every tally register holds the new snapshot (R488). -/
def execSnapshotComplete (s : State) : Ans := .next s.snapShow

end Sys2Proof.Machine
end

