-- ==== Sys2Proof/Machine/Rows.lean ====
section
/-!
DEFINITION. The commands that are host accesses: writes of control registers that have rows of their own (R14), reads (R17), and accesses of the
memory window (R470, R471). A row that does not name a host port arrives on port 0; both ports reach the same registers (R468).
-/
namespace Sys2Proof.Machine

/-- A write of the host to a register that has a row of its own. -/
def State.hostReg (s : State) (n : RegName) (idx : List Nat) (acc : Acc) (v : Word) : Ans := s.hostWrite 0 (regOff n idx) acc v.toNat

/-! ### Reads and writes of control registers -/

def execRegisterWrite (port : Fin 2) (off : Nat) (acc : Acc) (v : Word) (s : State) : Ans := s.hostWrite port.val off acc v.toNat

/-- A read returns its value; the read-to-clear bits of the part that was read clear (R17). -/
def execRcRegisterRead (port : Fin 2) (off : Nat) (acc : Acc) (s : State) : Ans :=
  if s.hostUp port.val = false then .next s
  else if acc = .other then ub 2
  else
    let (v, s) := s.ctlReadRc port.val off acc
    .next { s with out := s.out ++ [.regData port.val (BitVec.ofNat 64 v)] }

/-! ### The memory window (R53-R56, R470, R471) -/

/-- Whether an address lies in the control range. -/
def inCtlRange (da : Nat) : Bool := 0x300000000000 ≤ da && da < 0x300004000000

/-- The bytes that a request of the memory window covers. -/
def MemReq.len : MemReq → Nat
  | .read n => n
  | .write b => b.length

/-- A host request on BAR2, which is 1 TiB (R467): at an offset beyond it the window takes no request. An access that is held waits (R204, R288, R509,
R519). -/
def execMemoryWindowAccess (port : Fin 2) (off : Nat) (req : MemReq) (s : State) : Ans :=
  let p := port.val
  let da := s.rf .idMemwin [p] 30 18 * 2 ^ 30 + off
  let das := (List.range (MemReq.len req)).map (da + ·)
  if s.hostUp p = false ∨ 2 ^ 40 < off + MemReq.len req then .next s
  else
    match req with
    | .read n =>
      if das.any inCtlRange then ub 57
      else
        let r : HostRead := ⟨s.nextId, p, da, n, none⟩
        if s.hostHeld r then .next { s with nextId := s.nextId + 1, hostReads := s.hostReads ++ [r] } else s.serveHost r
    | .write b =>
      if das.any (fun a => inCtlRange a || inFlash a) then ub 57
      else
        let r : HostRead := ⟨s.nextId, p, da, b.length, some (b.map BitVec.toNat)⟩
        if s.hostHeld r then .next { s with nextId := s.nextId + 1, hostReads := s.hostReads ++ [r] } else s.serveHost r

/-! ### Identity, tiles, drovers -/

def execTileCfgWrite (t : TileId) (acc : Acc) (v : Word) (s : State) : Ans := s.hostReg .tileTileCfg (tix t.val) acc v
def execPaddockEnableWrite (acc : Acc) (v : Word) (s : State) : Ans := s.hostReg .idPaddock [] acc v
def execHbmRegionWrite (r : Fin 1024) (acc : Acc) (v : Word) (s : State) : Ans := s.hostReg .idHbmRegion [r.val] acc v
def execTileStart (t : TileId) (s : State) : Ans := s.hostReg .tileSeqCtrl (tix t.val) .full 1
def execTileStop (t : TileId) (s : State) : Ans := s.hostReg .tileSeqCtrl (tix t.val) .full 2
def execStartPcWrite (t : TileId) (acc : Acc) (v : Word) (s : State) : Ans := s.hostReg .tileStartPc (tix t.val) acc v
def execTokenWrite (t : TileId) (n : Fin 8) (acc : Acc) (v : Word) (s : State) : Ans := s.hostReg .tileToken (tix t.val ++ [n.val]) acc v
def execQueueDoorbell (q : Fin 256) (acc : Acc) (v : Word) (s : State) : Ans := s.hostReg .drvQueueTail [q.val] acc v
def execQueueCtrlWrite (q : Fin 256) (acc : Acc) (v : Word) (s : State) : Ans := s.hostReg .drvQueueCtrl [q.val] acc v
def execEngineOwnWrite (d : Fin 8) (acc : Acc) (v : Word) (s : State) : Ans := s.hostReg .drvEngineOwn [d.val] acc v
def execFlashEnable (acc : Acc) (v : Word) (s : State) : Ans := s.hostReg .drvFlashCtrl [] acc v
def execCompactionStart (acc : Acc) (v : Word) (s : State) : Ans := s.hostReg .drvFlashCompact [] acc v

/-! ### Ledger and flocks -/

def execNormCheck (acc : Acc) (v : Word) (s : State) : Ans := s.hostReg .ledNorm [] acc v
def execLedgerInit (acc : Acc) (v : Word) (s : State) : Ans := s.hostReg .ledInit [] acc v
def execRunLossWrite (acc : Acc) (v : Word) (s : State) : Ans := s.hostReg .ledRunLoss [] acc v
def execRunClear (acc : Acc) (v : Word) (s : State) : Ans := s.hostReg .ledRunCtrl [] acc v
def execHoldClear (s : State) : Ans := s.hostReg .ledFlockStatus [] .full 0x8000000000000000
def execFlockEnableWrite (acc : Acc) (v : Word) (s : State) : Ans := s.hostReg .ledFlock [] acc v

/-! ### Near fabric -/

def execPortEnable (n : Fin 32) (acc : Acc) (v : Word) (s : State) : Ans := s.hostReg .denPortCtrl [n.val] acc v
/-- RETRAIN with the register's other fields as they stand. -/
def execRetrain (n : Fin 32) (s : State) : Ans :=
  s.hostReg .denPortCtrl [n.val] .full (BitVec.ofNat 64 (setBits (s.reg .denPortCtrl [n.val]) 1 1 1))
def execRouteSwitch (acc : Acc) (v : Word) (s : State) : Ans := s.hostReg .denRouteCtrl [] acc v
def execWaveEnable (acc : Acc) (v : Word) (s : State) : Ans := s.hostReg .denWaveCfg [] acc v
def execWaveResolve (acc : Acc) (v : Word) (s : State) : Ans := s.hostReg .denWaveResolve [] acc v
def execShardTransfer (acc : Acc) (v : Word) (s : State) : Ans := s.hostReg .denXferCtrl [] acc v

/-! ### Far exchange -/

def execFarEnable (acc : Acc) (v : Word) (s : State) : Ans := s.hostReg .farCfg [] acc v
def execChannelEnable (c : Fin 4096) (acc : Acc) (v : Word) (s : State) : Ans := s.hostReg .farChanCfg [c.val] acc v
/-- A write of one of the quota registers (R416); at another offset the command names none of them. -/
def execFarQuota (off : Nat) (acc : Acc) (v : Word) (s : State) : Ans :=
  match regFind off with
  | some (.farClassQ, _) => s.hostWrite 0 off acc v.toNat
  | some (.farChanQuota, _) => s.hostWrite 0 off acc v.toNat
  | _ => .next s
def execAdmissionStart (acc : Acc) (v : Word) (s : State) : Ans := s.hostReg .farAdmit [] acc v

/-! ### Cipher engine -/

/-- Whether Shepherd's writes on the control rings reach the compute domain (R493): it serves, the domain is powered and no warm reset runs. -/
def State.shepReach (s : State) : Bool := s.flag .shmStatus [] 63 && s.isl.powered && !s.isl.running.any (fun r => r.kind == 2)

/-- A write of PLOCK that sets the bit of its row, by the host or by Shepherd (R452). -/
def State.lockRow (s : State) (f b : Nat) (acc : Acc) (v : Word) (shep : Bool) : Ans :=
  if acc = .other ∨ (accBits acc v.toNat).testBit b then
    if shep = false then s.hostReg .cipPlock [f] acc v
    else if acc = .other then ub 2
    else if s.shepReach then s.plockWrite 2 f acc v.toNat
    else .next s
  else .next s

def execLockAcquire (f : Fin 4) (by_ : LockAcc) (v : Word) (s : State) : Ans := s.lockRow f.val 63 by_.acc v by_.shep
def execLockRelease (f : Fin 4) (by_ : LockAcc) (v : Word) (s : State) : Ans := s.lockRow f.val 62 by_.acc v by_.shep

/-- Shepherd's writes of an engine's other operation registers, ahead of its POP (R454). -/
def State.shepArgs (s : State) (f : Nat) (r : ShepRegs) : State :=
  (((s.popArg 2 .cipPsrc f .full r.psrc.toNat).popArg 2 .cipPdst f .full r.pdst.toNat).popArg 2 .cipPlen f .full r.plen.toNat).popArg 2 .cipPseq f .full r.pseq.toNat

/-- A write of POP with GO for the operation of its row (R454, R455), by the host or by Shepherd: OP as it stands after the write. -/
def State.popRow (s : State) (f op : Nat) (acc : Acc) (v : Word) (shep : Option ShepRegs) : Ans :=
  if acc = .other ∨ ((accBits acc v.toNat).testBit 63 ∧ fld (ctlMerge .cipPop acc (s.reg .cipPop [f]) v.toNat) 54 4 = op) then
    match shep with
    | none => s.hostReg .cipPop [f] acc v
    | some r => if acc = .other then ub 2 else if s.shepReach then .next ((s.shepArgs f r).popWrite 2 f acc v.toNat) else .next s
  else .next s

def execEncrypt (f : Fin 4) (by_ : PopAcc) (v : Word) (s : State) : Ans := s.popRow f.val 1 by_.acc v by_.shep
def execDecrypt (f : Fin 4) (by_ : PopAcc) (v : Word) (s : State) : Ans := s.popRow f.val 2 by_.acc v by_.shep
def execKeyload (f : Fin 4) (by_ : PopAcc) (v : Word) (s : State) : Ans := s.popRow f.val 3 by_.acc v by_.shep
def execPkeyload (f : Fin 4) (by_ : PopAcc) (v : Word) (s : State) : Ans := s.popRow f.val 4 by_.acc v by_.shep
def execKekInstall (f : Fin 4) (by_ : PopAcc) (v : Word) (s : State) : Ans := s.popRow f.val 5 by_.acc v by_.shep
def execKeyZeroisation (acc : Acc) (v : Word) (s : State) : Ans := s.hostReg .cipKeystore [] acc v
def execRestart (f : Fin 4) (acc : Acc) (v : Word) (s : State) : Ans := s.hostReg .cipEngine [f.val] acc v

/-! ### Rings, events, tallies -/

def execWorkRingDoorbell (w : Fin 64) (acc : Acc) (v : Word) (s : State) : Ans := s.hostReg .idWringDb [w.val] acc v
/-- A write of 1 to ERROR with the register's other fields as they stand (R475). -/
def execRingResume (w : Fin 64) (s : State) : Ans :=
  s.hostReg .idWringCtrl [w.val] .full (BitVec.ofNat 64 (setBits (setBits (s.reg .idWringCtrl [w.val]) 61 1 0) 62 1 1))
def execEventRingEnable (acc : Acc) (v : Word) (s : State) : Ans := s.hostReg .evtRingCtrl [] acc v
def execEventRingHeadWrite (acc : Acc) (v : Word) (s : State) : Ans := s.hostReg .evtRingHead [] acc v
def execSnapshot (s : State) : Ans := s.hostReg .evtSnapCtrl [] .full 0x8000000000000000
def execSnapshotClear (s : State) : Ans := s.hostReg .evtSnapCtrl [] .full 0xC000000000000000
/-- A write of 1 to a tally's SATURATED (R489); an offset that holds no tally is none of this command's registers. -/
def execSaturatedClear (off : Nat) (s : State) : Ans := if isTallyOff off then s.hostWrite 0 off .full (2 ^ 32) else .next s

end Sys2Proof.Machine
end

