-- ==== Sys2Proof/Machine/Shep.lean ====
section
/-!
DEFINITION. Shepherd's commands: the mailbox (R512, R513), the service port and the SMBus (R507, R508, R514-R516), firmware update and handover
(R523, R526-R528) and SVC_ARM (R542).
-/
namespace Sys2Proof.Machine

/-- SHEPHERD_UP. -/
def State.shepUp (s : State) : Bool := s.flag .shmStatus [] 63

/-! ### The mailbox (R512) -/

/-- STATUS codes of SHM.RESULT. -/
def mailOk : Nat := 1
def mailBadOp : Nat := 2
def mailAddrFault : Nat := 5

/-- Remembers a command's result until it is written. -/
def State.mailResult (s : State) (st v : Nat) : State := s.setIsl { s.isl with result := some (st, v) }

/-- Whether Shepherd may take the command in the mailbox: it serves it, no handover runs (R512, R527), and the command has not run yet. -/
def State.mailFree (s : State) : Bool := s.shepUp && s.flag .shmCmd [] 62 && s.isl.result.isNone && s.isl.handover.isNone

/-- Runs a mailbox command that a sequencer of the island carries out, whatever Shepherd or a handover does (R507). -/
def State.mailSeq (s : State) (op : Nat) (f : State → Ans) : Ans :=
  if s.flag .shmCmd [] 62 && s.isl.result.isNone && s.rf .shmCmd [] 0 8 == op then f s else .next s

/-- Runs the mailbox command of one operation code. -/
def State.mail (s : State) (op : Nat) (f : State → Ans) : Ans :=
  if s.mailFree && s.rf .shmCmd [] 0 8 == op then f s else .next s

def execQuiesce (s : State) : Ans := s.mailSeq 1 (fun s => .next ((s.quiesce allDies).mailResult mailOk 0))

/-- POWER_OFF keeps the compute domain off until POWER_ON or a cold reset (R534). -/
def State.powerDown (s : State) : State := s.powerOff.setIsl { s.powerOff.isl with heldOff := true }

def execPowerOff (s : State) : Ans := s.mailSeq 2 (fun s => .next (s.powerDown.mailResult mailOk 0))

/-- A STATUS that the spec does not give: no record of that number (log 17). -/
def mailNoRecord : Nat := (Config.openCode 1201).toNat % 65536

/-- The addresses of the 4,096 bytes to which LAST_GASP_READ copies, modulo 2^48 (R55). -/
def State.gaspAddrs (s : State) : List Nat := (List.range 4096).map (fun i => (s.reg .shmArg [0] + i) % 2 ^ 48)

/-- LAST_GASP_READ: drover work copies one record into HBM; its mapped bytes are written, and where any byte faults, or lies outside HBM, the command ends
ADDR_FAULT (R55, R56, R512). While an emergency quiesce or a die reset holds the writes the command waits (R509, R519). -/
def execLastGaspRead (s : State) : Ans :=
  s.mail 3 (fun s =>
    let das := s.gaspAddrs
    match s.isl.gasps[s.rf .shmArg [1] 0 4]? with
    | none => .next (s.mailResult mailNoRecord 0)
    | some g =>
      if s.halted || s.wrHeld .unit das then .next s
      else
        let out := (das.zip g.bytes).filter (fun e => e.1 < 2 ^ 40)
        let as := out.map Prod.fst
        let ok := (s.lowFault .unit true das).isNone && das.all (· < 2 ^ 40)
        let s := (s.recordFaults .unit true das).guardWrite .unit as
        let s := s.checkEntries (s.raceWrite (s.pokeAll .unit out) .other (s.spKeys (.da .unit) true as)) as
        (if ok then s.mailResult mailOk g.cause else s.mailResult mailAddrFault 0).done)

def execLastGaspClear (s : State) : Ans := s.mail 4 (fun s => .next ((s.setRf .shmStatus [] 60 1 0).mailResult mailOk 0))

/-! ### The digest sweep (R513) -/

/-- Copies one entry's committed slot into the scratch range through a memory queue, with a digest into a slot. -/
def State.sweepEntry (s : State) (q scratch slot n : Nat) : State :=
  let len := s.slotBytes n
  let by_ : Issuer := .queue q
  let src := (List.range len).map (s.ringSlot n s.cv + ·)
  let dst := (List.range len).map (scratch + ·)
  let bytes := s.peeks by_ (s.ringSlot n s.cv) len
  let s := ((s.recordFaults by_ false src).recordFaults by_ true dst).pokes by_ scratch bytes
  (List.range (len / 64)).foldl (fun (s : State) j => s.digestAdd slot (digestTerm s.digestKey j ((bytes.drop (64 * j)).take 64))) s

/-- The digest slot of the entry of number `j` in a sweep; with a COUNT of 0, or slots beyond the last one, the spec does not state it (log 52). -/
def State.sweepSlot (s : State) (j : Nat) : Nat :=
  let first := s.rf .ledFlockSlots [] 0 8
  let count := s.rf .ledFlockSlots [] 8 9
  if 0 < count ∧ first + count ≤ 256 then first + j % count else Config.fieldAs 6 j % 256

/-- Whether a sweep's copies wait: for an engine of the queue's die (R264), after an emergency quiesce, or for memory that a die reset holds (R509, R519). -/
def State.sweepHeld (s : State) (q scratch big : Nat) (es : List Nat) : Bool :=
  s.halted || (s.drvEngine (s.rf .drvQueueCtrl [q] 27 3) false).isNone || s.rangeHeld (.queue q) scratch big
    || es.any (fun n => s.rangeHeld (.queue q) (s.ringSlot n s.cv) (s.slotBytes n))

def execDigestSweep (s : State) : Ans :=
  s.mail 5 (fun s =>
    let scratch := s.reg .shmArg [0]
    let q := s.rf .shmArg [2] 0 8
    let first := s.rf .ledFlockSlots [] 0 8
    let count := s.rf .ledFlockSlots [] 8 9
    let es := s.weightEntries
    let lens := es.map s.slotBytes
    let big := lens.foldl max 0
    let das := (List.range big).map (scratch + ·)
    if scratch % 64 ≠ 0 ∨ 2 ^ 40 < scratch + big ∨ (s.lowFault (.queue q) true das).isSome = true ∨ s.reg .shmArg [1] < big
        ∨ (s.wrBreach das).isSome = true then ub 60
    else if s.queueOn q = false ∨ s.flag .drvQueueCtrl [q] 30 = true ∨ s.queueHead q ≠ s.queueTail q ∨ s.queueXfers q ≠ [] then ub 60
    else if lens.any (fun l => l % 64 != 0) then ub 37
    else if s.keyBad then ub 43
    else if s.sweepHeld q scratch big es then .next s
    else
      let total := lens.sum
      let s := s.progClaim 66 6 0 total
      let s := ((List.range count).filter (fun k => first + k < 256)).foldl (fun (s : State) k => s.setDigestSlot (first + k) 0) s
      let s := es.zipIdx.foldl (fun (s : State) (e : Nat × Nat) => s.sweepEntry q scratch (s.sweepSlot e.2) e.1) s
      .next (((s.progPos 66 6 total).progEnd 66 6 true).mailResult mailOk 0))

/-! ### The state record of a handover (R527) -/

/-- What a privileged operation in progress is, as words. -/
def PrivOp.words (o : PrivOp) : List Nat :=
  [o.eng, o.lockChan, o.op, bit o.strict, o.dir, o.kslot, o.channel, o.src, o.dst, o.aadLen, o.textLen, o.seq, bit o.arm]

/-- The 4 KiB state record of a handover (R527): what it holds, laid out where the spec lays it out, with its hash. -/
def State.stateRecord (s : State) : List Nat :=
  let regs := [.clkCap, .clkThrottle, .clkTherm].flatMap (fun n => leBytes 8 (s.reg n []))
  let session : List Nat := match s.isl.session with
    | some x => [x.src, x.slot, x.size]
    | none => []
  let w := s.time :: s.isl.nonce :: s.reg .shmCmd [] :: (List.range 4).map (fun i => s.reg .shmArg [i]) ++ (List.range 4).map s.cipOwner
    ++ s.cip.ops.flatMap PrivOp.words ++ s.isl.misses ++ session
  let body := (List.range 4048).map (fun i => if 16 ≤ i ∧ i < 40 then regs.getD (i - 16) 0 else (Config.recordByte w i).toNat)
  body ++ sha384 body

/-- The D0 instance has nothing more in progress: it writes the record, which holds the update session that FW_COMMIT ends, and the D1 instance takes
control (R527). -/
def State.passToD1 (s : State) : State := s.setIsl { s.isl with record := s.stateRecord, session := none, onD1 := true }

/-- RESULT is written, BUSY clears, MAILBOX_DONE is raised (R512); a reserved command ends BAD_OP. A handover that waited for the command's end goes on
(R527). -/
def State.mailDone (s : State) (st v : Nat) : State :=
  let s := s.setIsl { s.isl with result := none }
  let s := (s.setReg .shmResult [] (st * 2 ^ 48 + v % 2 ^ 48)).setRf .shmCmd [] 62 1 0
  let s := s.raise 0x0708 0 0 0 (s.rf .shmCmd [] 0 8) st
  match s.isl.handover with
  | some (_, false) => if s.isl.onD1 then s else s.passToD1
  | _ => s

def execMailboxDone (s : State) : Ans :=
  let op := s.rf .shmCmd [] 0 8
  match s.isl.result with
  | some (st, v) => .next (if s.shepUp && s.flag .shmCmd [] 62 then s.mailDone st v else s)
  | none => .next (if s.mailFree && (op == 0 || 5 < op) then s.mailDone mailBadOp 0 else s)

/-! ### Service datagrams (R507, R508, R514) -/

/-- A service request, taken apart. -/
structure SvcReq where
  op : Nat
  nonce : Nat
  body : List Nat
  text : List Nat
  sig : List Nat
  deriving DecidableEq, Repr

/-- Reads a datagram; none where VER, the reserved fields or the length are wrong. -/
def svcParse (signed : Bool) (d : List Byte) : Option SvcReq :=
  let b := d.map BitVec.toNat
  let len := beVal ((b.drop 2).take 2)
  if b.length ≠ 16 + len + (if signed then 96 else 0) ∨ b.getD 0 0 ≠ 0x10 ∨ ((b.drop 12).take 4).any (· != 0) then none
  else some ⟨b.getD 1 0, beVal ((b.drop 4).take 8), (b.drop 16).take len, b.take (16 + len), b.drop (16 + len)⟩

/-- Statuses of a service response; the spec gives ARM_OPEN a name and no status a number (log 17). -/
def svcOk : Nat := (Config.openCode 2000).toNat % 65536
def svcArmOpen : Nat := (Config.openCode 2001).toNat % 65536
def svcNoRecord : Nat := (Config.openCode 2002).toNat % 65536
def svcRefused : Nat := (Config.openCode 2003).toNat % 65536

/-- Sends a response: OP + 0x80, a body that begins with the status; what its NONCE field holds the spec does not say (log 1). -/
def State.respond (s : State) (op st : Nat) (body : List Nat) : State :=
  let (w, s) := s.takeWord
  let len := 2 + body.length
  let bytes := [0x10, (op + 0x80) % 256] ++ beBytes 2 len ++ beBytes 8 w.toNat ++ [0, 0, 0, 0] ++ beBytes 2 st ++ body
  { s with out := s.out ++ [.service (bytes.map (BitVec.ofNat 8))] }

/-- Whether the service port answers a request: the island runs; with no slot booted only STATUS_READ, LAST_GASP_READ and the FW requests (R525). -/
def State.svcUp (s : State) (op : Nat) : Bool :=
  !s.isl.down && (!s.isl.bootFail || op == 1 || op == 3 || (0x20 ≤ op && op ≤ 0x22))

/-- An unsigned request of one operation code. -/
def State.svcOpen (s : State) (op : Nat) (d : List Byte) (f : SvcReq → State → Ans) : Ans :=
  match svcParse false d with
  | some r => if r.op = op ∧ s.svcUp op = true then f r s else .next s
  | none => .next s

/-- A signed request (R514): the operator's key, and a nonce above every nonce accepted before, which is kept. A request that needs SVC_ARM while
the header is open is answered ARM_OPEN and has no effect. -/
def State.svcSigned (s : State) (op : Nat) (arm : Bool) (d : List Byte) (f : SvcReq → State → Ans) : Ans :=
  match svcParse true d with
  | some r =>
    if r.op = op ∧ s.svcUp op = true then
      if arm ∧ s.armed = false then .next (s.respond op svcArmOpen [])
      else if s.isl.nonce < r.nonce ∧ ecdsaVerify s.isl.svcKey (sha384 r.text) r.sig = true then f r (s.setIsl { s.isl with nonce := r.nonce })
      else .next s
    else .next s
  | none => .next s

/-- The names of the body fields whose places the spec does not give (log 19). -/
def svcSnap (b : List Nat) : Nat := Config.svcField 0 (b.map (BitVec.ofNat 8))
def svcResetType (b : List Nat) : Nat := Config.svcField 1 (b.map (BitVec.ofNat 8))
def svcRecord (b : List Nat) : Nat := Config.svcField 2 (b.map (BitVec.ofNat 8))
def svcSize (b : List Nat) : Nat := Config.svcField 3 (b.map (BitVec.ofNat 8))
def svcOffset (b : List Nat) : Nat := Config.svcField 4 (b.map (BitVec.ofNat 8))
def svcOffWidth (b : List Nat) : Nat := Config.svcField 5 (b.map (BitVec.ofNat 8))
def svcRegCount (b : List Nat) : Nat := min 16 (Config.svcField 22 (b.map (BitVec.ofNat 8)))
def svcRegOff (b : List Nat) (k : Nat) : Nat := Config.svcField (6 + k) (b.map (BitVec.ofNat 8)) % 2 ^ 32

/-! ### Reads (R507, R508, R516) -/

/-- Whether a die does not answer its control ring: not while the compute domain is off; one that is being reset, or has missed its last heartbeat, may or
may not (R508; DESIGN CHOICE, log 19). -/
def State.deafDie (s : State) (d : Nat) : Bool × State :=
  if s.isl.powered = false then (true, s)
  else if s.dieDown d || 0 < s.isl.misses.getD d 0 then s.takeBool
  else (false, s)

/-- The mask of the dies that do not answer. -/
def State.deafDies (s : State) : Nat × State :=
  allDies.foldl (fun (m : Nat × State) d => let (b, s) := m.2.deafDie d; (m.1 + bit b * 2 ^ d, s)) (0, s)

/-- The 256 bytes of the status page, given the dies that do not answer: byte 63 is R508's mask, what comes from such a die is 0; the device key's public
half is among what the page shows (R515, log 18). -/
def State.statusPage (s : State) (deaf : Nat) : List Nat :=
  let temps := allDies.map (fun d => if deaf.testBit d then 0 else s.reg .clkTemp [d])
  let w := [s.reg .clkStatus [], s.reg .clkPower [] % 65536, s.reg .clkCoolant [], s.reg .shmFw []] ++ temps ++ ecPublic s.fuses.devPriv
  (List.range 256).map (fun i => if i = 63 then deaf else (Config.pageByte w i).toNat)

def execStatusRead (dgram : List Byte) (s : State) : Ans :=
  s.svcOpen 1 dgram (fun r s => let (m, s) := s.deafDies; .next (s.respond r.op svcOk (s.statusPage m)))

/-- Whether a register is one of the island's own blocks, which answer whatever the dies do. -/
def islandBlock (off : Nat) : Bool := (0x100000 ≤ off && off < 0x200000) || (0x400000 ≤ off && off < 0x800000)

/-- The die whose control ring a register hangs on: that of its unit; the others hang on D0's (DESIGN CHOICE, log 19). -/
def State.dieOf (s : State) (off : Nat) : Nat :=
  match regFind off with
  | some (n, idx) => (allDies.find? (fun d => s.regOfDie d n idx)).getD 0
  | none => 0

/-- Reads some registers for REG_READ, given the dies that do not answer: the items of R508. -/
def State.readItems (s : State) (snap : Bool) (mask : Nat) : List Nat → List Nat × State
  | [] => ([], s)
  | off :: offs =>
    let deaf := !islandBlock off && mask.testBit (s.dieOf off)
    let (v, s) := if deaf then (0, s) else s.ctlReadRc 0 off .full
    let (l, s) := s.readItems snap mask offs
    (beBytes 4 off ++ [bit deaf + 2 * bit snap, 0, 0, 0] ++ beBytes 8 v ++ l, s)

def execRegRead (dgram : List Byte) (s : State) : Ans :=
  s.svcOpen 2 dgram (fun r s =>
    let snap := svcSnap r.body != 0
    let s := if snap && s.isl.powered then (s.snapTake false).snapShow else s
    let (m, s) := s.deafDies
    let (items, s) := s.readItems snap m ((List.range (svcRegCount r.body)).map (svcRegOff r.body))
    .next (s.respond r.op svcOk items))

/-- A request that Shepherd serves: a handover holds it until control has passed (R527). The requests of R507 always finish. -/
def State.svcHold (s : State) (op src : Nat) (dgram : List Byte) (f : State → Ans) : Ans :=
  if s.isl.handover.isSome then .next (s.setIsl { s.isl with heldSvc := s.isl.heldSvc ++ [⟨op, src, dgram⟩] }) else f s

def execServiceLastGaspRead (dgram : List Byte) (s : State) : Ans :=
  s.svcHold 3 0 dgram fun s => s.svcOpen 3 dgram (fun r s =>
    match s.isl.gasps[svcRecord r.body]? with
    | some g => .next (s.respond r.op svcOk g.bytes)
    | none => .next (s.respond r.op svcNoRecord []))

/-- An SMBus block read returns the page's first 64 bytes (R516). -/
def execSmbusBlockRead (_cmd : Nat) (s : State) : Ans :=
  if s.isl.down then .next s
  else let (m, s) := s.deafDies; .next { s with out := s.out ++ [.smbus (((s.statusPage m).take 64).map (BitVec.ofNat 8))] }

/-! ### Signed requests (R514, R515) -/

def execServiceQuiesce (dgram : List Byte) (s : State) : Ans :=
  s.svcSigned 0x10 false dgram (fun r s =>
    let s := if s.isl.powered then s.quiesce allDies else s
    .next (s.respond r.op svcOk []))

def execServicePowerOff (dgram : List Byte) (s : State) : Ans :=
  s.svcSigned 0x11 false dgram (fun r s => .next (s.powerDown.respond r.op svcOk []))

/-- POWER_ON: the compute domain may start again; POWER_UP is the start. -/
def execPowerOn (dgram : List Byte) (s : State) : Ans :=
  s.svcHold 0x12 0 dgram fun s => s.svcSigned 0x12 false dgram (fun r s => .next ((s.setIsl { s.isl with heldOff := false }).respond r.op svcOk []))

/-- RESET: cold or warm; a type that is neither changes nothing. -/
def execServiceReset (dgram : List Byte) (s : State) : Ans :=
  s.svcHold 0x13 0 dgram fun s => s.svcSigned 0x13 false dgram (fun r s =>
    match svcResetType r.body with
    | 0 => .next ((s.respond r.op svcOk []).coldReset 4)
    | 1 => .next (let s := s.respond r.op svcOk []; if s.isl.powered then s.warmReset 4 else s)
    | _ => .next (s.respond r.op svcRefused []))

def execZeroise (dgram : List Byte) (s : State) : Ans :=
  s.svcSigned 0x14 false dgram (fun r s => .next ((s.zeroiseKeys trigService).respond r.op svcOk []))

/-- The KEK of a KEK_INSTALL's body (R515): an ephemeral public key of 97 bytes, 32 bytes of ciphertext and a tag of 16 bytes. -/
def State.kekOf (s : State) (body : List Nat) : Option (List Nat) :=
  if body.length ≠ 145 then none
  else
    match ecdhShared s.fuses.devPriv (body.take 97) with
    | some z => (Config.kekOpen z (((body.drop 97).take 32).map (BitVec.ofNat 8)) ((body.drop 129).map (BitVec.ofNat 8))).map (fun k => beBytes 32 k.toNat)
    | none => none

/-- KEK_INSTALL over the service port (R460, R515). -/
def execServiceKekInstall (dgram : List Byte) (s : State) : Ans :=
  s.svcHold 0x15 0 dgram fun s => s.svcSigned 0x15 true dgram (fun r s =>
    match s.kekOf r.body with
    | some k => if s.anyChannel then .next (s.respond r.op svcRefused []) else .next ((s.installKek k).respond r.op svcOk [])
    | none => .next (s.respond r.op svcRefused []))

/-- SET_SVC_KEY: the operator's key, 96 bytes. -/
def execSetSvcKey (dgram : List Byte) (s : State) : Ans :=
  s.svcHold 0x24 0 dgram fun s => s.svcOpen 0x24 dgram (fun r s =>
    if s.armed = false then .next (s.respond r.op svcArmOpen [])
    else if r.body.length ≠ 96 then .next (s.respond r.op svcRefused [])
    else .next ((s.setIsl { s.isl with svcKey := r.body }).respond r.op svcOk []))

/-! ### Firmware (R523, R526-R528) -/

/-- The length of a slot, 31 MiB. -/
def slotLen : Nat := 31 * 2 ^ 20

/-- The slot that does not run. -/
def State.idleSlot (s : State) : Nat := 1 - s.rf .clkStatus [] 35 1

/-- FW_BEGIN: the idle slot is PENDING and erased, a session opens. -/
def execFwBegin (src : Nat) (dgram : List Byte) (s : State) : Ans :=
  s.svcHold 0x20 src dgram fun s => s.svcSigned 0x20 true dgram (fun r s =>
    let b := s.idleSlot
    let s := s.setSlotSt b 4
    let s := { s with mem := tblClear s.mem (norKey (slotBase b)) (norKey (slotBase b + slotLen)) }
    .next ((s.setIsl { s.isl with session := some ⟨src, b, svcSize r.body⟩ }).respond r.op svcOk []))

/-- FW_DATA: bytes of the image, only from the session's source address. -/
def execFwData (src : Nat) (dgram : List Byte) (s : State) : Ans :=
  s.svcHold 0x21 src dgram fun s => s.svcOpen 0x21 dgram (fun r s =>
    if s.armed = false then .next (s.respond r.op svcArmOpen [])
    else
      match s.isl.session with
      | some x =>
        let off := svcOffset r.body
        let data := r.body.drop (svcOffWidth r.body)
        if x.src = src ∧ data.length ≤ 1024 ∧ off + data.length ≤ slotLen then
          .next ((s.setBytes (norKey (slotBase x.slot + off)) data).respond r.op svcOk [])
        else .next s
      | none => .next s)

/-- What FW_COMMIT checks in a slot: MAGIC, the sizes, SVN, and the header's signature (R523, R526). -/
def State.imageOk (s : State) (x : FwSession) : Bool :=
  s.magicOk x.slot && s.hdrLe x.slot 8 4 == x.size && s.headerOk x.slot

/-- The handover to a slot begins (R527): the D1 instance starts; a mailbox command that has run is finished first. The length in bytes that slot 65 reports
is not given (log 1). -/
def State.handoverBegins (s : State) (b : Nat) : State :=
  let (w, s) := s.takeWord
  let s := ((s.setRf .shmStatus [] 62 1 1).setIsl { s.isl with handover := some (b, false) }).progClaim 65 5 0 w.toNat
  if s.isl.result.isNone then s.passToD1 else s

/-- FW_COMMIT: the slot becomes NEXT and the handover starts, or it becomes FAILED. -/
def execFwCommit (src : Nat) (dgram : List Byte) (s : State) : Ans :=
  s.svcHold 0x22 src dgram fun s => s.svcSigned 0x22 true dgram (fun r s =>
    match s.isl.session with
    | some x =>
      if x.src ≠ src then .next s
      else
        let ended := s.setIsl { s.isl with session := none }
        if s.imageOk x then
          let svn := s.le (norKey (slotBase x.slot + 12)) 4
          let s := (s.setSlotSt x.slot 2).setRf .shmFw [] (if x.slot = 0 then 56 else 48) 8 svn
          let s := if s.shepUp then s.handoverBegins x.slot else s.setIsl { s.isl with session := none }
          .next (s.respond r.op svcOk [])
        else .next ((ended.setSlotSt x.slot 3).respond r.op svcRefused [])
    | none => .next s)

/-- Serves a request by its operation code. -/
def State.svcServe (s : State) (h : HeldSvc) : Ans :=
  match h.op with
  | 3 => execServiceLastGaspRead h.dgram s
  | 0x12 => execPowerOn h.dgram s
  | 0x13 => execServiceReset h.dgram s
  | 0x15 => execServiceKekInstall h.dgram s
  | 0x20 => execFwBegin h.src h.dgram s
  | 0x21 => execFwData h.src h.dgram s
  | 0x22 => execFwCommit h.src h.dgram s
  | 0x24 => execSetSvcKey h.dgram s
  | _ => .next s

/-- Control has passed: the requests that the handover held are served in order (R527). -/
def State.svcRelease (s : State) : Ans :=
  s.isl.heldSvc.foldl (fun (a : Ans) h => a.andThen (fun s => s.svcServe h)) (.next (s.setIsl { s.isl with heldSvc := [] }))

/-- The handover is done (R527): the D0 instance has taken the record back and is in control again; SLOT and BUILD name the new image, whose other components the next reset loads (R494). -/
def execFwHandoverDone (s : State) : Ans :=
  match s.isl.handover with
  | some (b, false) =>
    if s.isl.onD1 = false then .next s else
    let build := s.le (norKey (slotBase b + 16)) 8
    let s := ((s.setRf .clkStatus [] 35 1 b).setRf .shmFw [] 0 32 build).setRf .shmStatus [] 62 1 0
    let s := (s.setIsl { s.isl with handover := none, onD1 := false }).progEnd 65 5 true
    (s.raise 0x0705 0 0 0 build (s.slotSvn b)).svcRelease
  | _ => .next s

/-- Codes of the causes in FW_HANDOVER_FAIL (log 17): the image, a reset of D1. -/
def failImage : Nat := (Config.openCode 1301).toNat
def failReset : Nat := (Config.openCode 1302).toNat

/-- The handover fails (R528): the slot becomes FAILED, or stays NEXT where a reset of D1 was the cause. -/
def execFwHandoverFail (s : State) : Ans :=
  match s.isl.handover with
  | some (b, lost) =>
    let s := if lost then s else s.setSlotSt b 3
    let s := (s.setRf .shmStatus [] 62 1 0).setIsl { s.isl with handover := none, onD1 := false, session := none }
    ((s.progEnd 65 5 false).raise 0x0706 (s.slotSt b) 0 0 (if lost then failReset else failImage) 0).svcRelease
  | none => .next s

/-- A last-gasp record of Shepherd's fatal error (R507); Shepherd serves no more. -/
def execShepherdFatalError (s : State) : Ans :=
  .next (if s.shepUp && !s.isl.down then (s.lastGasp causeFatal).setRf .shmStatus [] 63 1 0 else s)

/-- ARM changes (R542); opening the header during an update makes the slot EMPTY and ends the session (R526). An update whose FW_COMMIT has begun the handover is over. -/
def execSvcArmChange (closed : Bool) (s : State) : Ans :=
  if s.isl.armed = closed ∨ s.isl.down = true then .next s
  else
    let s := s.setIsl { s.isl with armed := closed }
    let s := match s.isl.session with
      | some x => if closed || s.isl.handover.isSome then s else (s.setSlotSt x.slot 0).setIsl { s.isl with session := none }
      | none => s
    .next (s.raise 0x0709 0 0 0 (bit closed) 0)

end Sys2Proof.Machine
end

