-- ==== Sys2Proof/Machine/Dispatch.lean ====
section
/-!
DEFINITION. The dispatch: one arm per command, each one direct call of the command's meaning.
-/
namespace Sys2Proof.Machine
open Sys2Proof

def exec (i : Instr) (s : State) : Host.Outcome State Fault Refusal :=
  match i with
  | .registerWrite port off acc v => Sys2Proof.Machine.execRegisterWrite port off acc v s
  | .rcRegisterRead port off acc => Sys2Proof.Machine.execRcRegisterRead port off acc s
  | .memoryWindowAccess port off req => Sys2Proof.Machine.execMemoryWindowAccess port off req s
  | .tileCfgWrite t acc v => Sys2Proof.Machine.execTileCfgWrite t acc v s
  | .paddockEnableWrite acc v => Sys2Proof.Machine.execPaddockEnableWrite acc v s
  | .hbmRegionWrite r acc v => Sys2Proof.Machine.execHbmRegionWrite r acc v s
  | .tileStart t => Sys2Proof.Machine.execTileStart t s
  | .tileStop t => Sys2Proof.Machine.execTileStop t s
  | .startPcWrite t acc v => Sys2Proof.Machine.execStartPcWrite t acc v s
  | .tokenWrite t n acc v => Sys2Proof.Machine.execTokenWrite t n acc v s
  | .tileHalt t => Sys2Proof.Machine.execTileHalt t s
  | .tileStopComplete t => Sys2Proof.Machine.execTileStopComplete t s
  | .tileStall t => Sys2Proof.Machine.execTileStall t s
  | .icacheLineFill t => Sys2Proof.Machine.execIcacheLineFill t s
  | .engineDispatch t => Sys2Proof.Machine.execEngineDispatch t s
  | .sqAdd t => Sys2Proof.Machine.execSqAdd t s
  | .sqSub t => Sys2Proof.Machine.execSqSub t s
  | .sqAnd t => Sys2Proof.Machine.execSqAnd t s
  | .sqOr t => Sys2Proof.Machine.execSqOr t s
  | .sqXor t => Sys2Proof.Machine.execSqXor t s
  | .sqShl t => Sys2Proof.Machine.execSqShl t s
  | .sqShr t => Sys2Proof.Machine.execSqShr t s
  | .sqSra t => Sys2Proof.Machine.execSqSra t s
  | .sqMul t => Sys2Proof.Machine.execSqMul t s
  | .sqMulhu t => Sys2Proof.Machine.execSqMulhu t s
  | .sqMulhs t => Sys2Proof.Machine.execSqMulhs t s
  | .sqMin t => Sys2Proof.Machine.execSqMin t s
  | .sqMax t => Sys2Proof.Machine.execSqMax t s
  | .sqMinu t => Sys2Proof.Machine.execSqMinu t s
  | .sqMaxu t => Sys2Proof.Machine.execSqMaxu t s
  | .sqSel t => Sys2Proof.Machine.execSqSel t s
  | .sqClz t => Sys2Proof.Machine.execSqClz t s
  | .sqLi t => Sys2Proof.Machine.execSqLi t s
  | .sqPopc t => Sys2Proof.Machine.execSqPopc t s
  | .sqShori t => Sys2Proof.Machine.execSqShori t s
  | .sqDivu t => Sys2Proof.Machine.execSqDivu t s
  | .sqRemu t => Sys2Proof.Machine.execSqRemu t s
  | .sqEq t => Sys2Proof.Machine.execSqEq t s
  | .sqNe t => Sys2Proof.Machine.execSqNe t s
  | .sqLt t => Sys2Proof.Machine.execSqLt t s
  | .sqGe t => Sys2Proof.Machine.execSqGe t s
  | .sqLtu t => Sys2Proof.Machine.execSqLtu t s
  | .sqGeu t => Sys2Proof.Machine.execSqGeu t s
  | .sqFlt t => Sys2Proof.Machine.execSqFlt t s
  | .sqFge t => Sys2Proof.Machine.execSqFge t s
  | .sqPand t => Sys2Proof.Machine.execSqPand t s
  | .sqPor t => Sys2Proof.Machine.execSqPor t s
  | .sqPxor t => Sys2Proof.Machine.execSqPxor t s
  | .sqPandn t => Sys2Proof.Machine.execSqPandn t s
  | .sqFnf t => Sys2Proof.Machine.execSqFnf t s
  | .sqTst t => Sys2Proof.Machine.execSqTst t s
  | .sqB t => Sys2Proof.Machine.execSqB t s
  | .sqCall t => Sys2Proof.Machine.execSqCall t s
  | .sqJr t => Sys2Proof.Machine.execSqJr t s
  | .sqRet t => Sys2Proof.Machine.execSqRet t s
  | .sqTset t => Sys2Proof.Machine.execSqTset t s
  | .sqTadd t => Sys2Proof.Machine.execSqTadd t s
  | .sqTget t => Sys2Proof.Machine.execSqTget t s
  | .sqNop t => Sys2Proof.Machine.execSqNop t s
  | .sqHalt t => Sys2Proof.Machine.execSqHalt t s
  | .sqFence t => Sys2Proof.Machine.execSqFence t s
  | .sqEvent t => Sys2Proof.Machine.execSqEvent t s
  | .sqMode t => Sys2Proof.Machine.execSqMode t s
  | .sqSetvl t => Sys2Proof.Machine.execSqSetvl t s
  | .sqIcinv t => Sys2Proof.Machine.execSqIcinv t s
  | .sqIcpf t => Sys2Proof.Machine.execSqIcpf t s
  | .icpfComplete t => Sys2Proof.Machine.execIcpfComplete t s
  | .sqMov t => Sys2Proof.Machine.execSqMov t s
  | .sqLoad t => Sys2Proof.Machine.execSqLoad t s
  | .sqStore t => Sys2Proof.Machine.execSqStore t s
  | .sqLda t => Sys2Proof.Machine.execSqLda t s
  | .sqDld t => Sys2Proof.Machine.execSqDld t s
  | .sqDst t => Sys2Proof.Machine.execSqDst t s
  | .sqDset t => Sys2Proof.Machine.execSqDset t s
  | .sqDget t => Sys2Proof.Machine.execSqDget t s
  | .sqDadd t => Sys2Proof.Machine.execSqDadd t s
  | .mxOpen t => Sys2Proof.Machine.execMxOpen t s
  | .mxPass t => Sys2Proof.Machine.execMxPass t s
  | .mxPassr t => Sys2Proof.Machine.execMxPassr t s
  | .mxPassb t => Sys2Proof.Machine.execMxPassb t s
  | .passStreamStart t => Sys2Proof.Machine.execPassStreamStart t s
  | .passComplete t => Sys2Proof.Machine.execPassComplete t s
  | .capture t => Sys2Proof.Machine.execCapture t s
  | .spillFold t => Sys2Proof.Machine.execSpillFold t s
  | .mxClose t => Sys2Proof.Machine.execMxClose t s
  | .closeComplete t => Sys2Proof.Machine.execCloseComplete t s
  | .mxDiscard t => Sys2Proof.Machine.execMxDiscard t s
  | .discardComplete t => Sys2Proof.Machine.execDiscardComplete t s
  | .heldGroupRead id => Sys2Proof.Machine.execHeldGroupRead id s
  | .vxAdd t => Sys2Proof.Machine.execVxAdd t s
  | .vxSub t => Sys2Proof.Machine.execVxSub t s
  | .vxMul t => Sys2Proof.Machine.execVxMul t s
  | .vxMul3 t => Sys2Proof.Machine.execVxMul3 t s
  | .vxFma t => Sys2Proof.Machine.execVxFma t s
  | .vxFms t => Sys2Proof.Machine.execVxFms t s
  | .vxFnma t => Sys2Proof.Machine.execVxFnma t s
  | .vxMas t => Sys2Proof.Machine.execVxMas t s
  | .vxMax t => Sys2Proof.Machine.execVxMax t s
  | .vxMin t => Sys2Proof.Machine.execVxMin t s
  | .vxAbs t => Sys2Proof.Machine.execVxAbs t s
  | .vxCvt t => Sys2Proof.Machine.execVxCvt t s
  | .vxRcp t => Sys2Proof.Machine.execVxRcp t s
  | .vxRsqrt t => Sys2Proof.Machine.execVxRsqrt t s
  | .vxGt t => Sys2Proof.Machine.execVxGt t s
  | .vxSel t => Sys2Proof.Machine.execVxSel t s
  | .vxFill t => Sys2Proof.Machine.execVxFill t s
  | .vxRrow t => Sys2Proof.Machine.execVxRrow t s
  | .vxRcol t => Sys2Proof.Machine.execVxRcol t s
  | .vxScan t => Sys2Proof.Machine.execVxScan t s
  | .vxPerm t => Sys2Proof.Machine.execVxPerm t s
  | .vxShuf t => Sys2Proof.Machine.execVxShuf t s
  | .vxPack t => Sys2Proof.Machine.execVxPack t s
  | .vxUnpack t => Sys2Proof.Machine.execVxUnpack t s
  | .vxRescale t => Sys2Proof.Machine.execVxRescale t s
  | .vxDrain t => Sys2Proof.Machine.execVxDrain t s
  | .vxFtld t => Sys2Proof.Machine.execVxFtld t s
  | .vxFn t => Sys2Proof.Machine.execVxFn t s
  | .vxFnd t => Sys2Proof.Machine.execVxFnd t s
  | .vxDrop t => Sys2Proof.Machine.execVxDrop t s
  | .vxLengthForm t => Sys2Proof.Machine.execVxLengthForm t s
  | .vectorCompletion t => Sys2Proof.Machine.execVectorCompletion t s
  | .dvCopy t => Sys2Proof.Machine.execDvCopy t s
  | .dvGather t => Sys2Proof.Machine.execDvGather t s
  | .dvScatter t => Sys2Proof.Machine.execDvScatter t s
  | .dvScadd t => Sys2Proof.Machine.execDvScadd t s
  | .dvColdupd t => Sys2Proof.Machine.execDvColdupd t s
  | .transferComplete id => Sys2Proof.Machine.execTransferComplete id s
  | .queueDoorbell q acc v => Sys2Proof.Machine.execQueueDoorbell q acc v s
  | .queueEntryStart q => Sys2Proof.Machine.execQueueEntryStart q s
  | .queueCtrlWrite q acc v => Sys2Proof.Machine.execQueueCtrlWrite q acc v s
  | .engineOwnWrite d acc v => Sys2Proof.Machine.execEngineOwnWrite d acc v s
  | .flashEnable acc v => Sys2Proof.Machine.execFlashEnable acc v s
  | .flashReady => Sys2Proof.Machine.execFlashReady s
  | .compactionStart acc v => Sys2Proof.Machine.execCompactionStart acc v s
  | .compactionAutoStart freeBp => Sys2Proof.Machine.execCompactionAutoStart freeBp s
  | .compactionEnd left => Sys2Proof.Machine.execCompactionEnd left s
  | .normCheck acc v => Sys2Proof.Machine.execNormCheck acc v s
  | .ledgerInit acc v => Sys2Proof.Machine.execLedgerInit acc v s
  | .ledgerInitComplete => Sys2Proof.Machine.execLedgerInitComplete s
  | .runLossWrite acc v => Sys2Proof.Machine.execRunLossWrite acc v s
  | .runClear acc v => Sys2Proof.Machine.execRunClear acc v s
  | .flockDigest flock member step lo hi => Sys2Proof.Machine.execFlockDigest flock member step lo hi s
  | .flockVerdict => Sys2Proof.Machine.execFlockVerdict s
  | .flockVerdictReceived flock step verdict source => Sys2Proof.Machine.execFlockVerdictReceived flock step verdict source s
  | .flockTimeout => Sys2Proof.Machine.execFlockTimeout s
  | .holdClear => Sys2Proof.Machine.execHoldClear s
  | .flockEnableWrite acc v => Sys2Proof.Machine.execFlockEnableWrite acc v s
  | .cleared flock held => Sys2Proof.Machine.execCleared flock held s
  | .portEnable n acc v => Sys2Proof.Machine.execPortEnable n acc v s
  | .retrain n => Sys2Proof.Machine.execRetrain n s
  | .peerTraining n => Sys2Proof.Machine.execPeerTraining n s
  | .linkUp n e peer peerPort lanes => Sys2Proof.Machine.execLinkUp n e peer peerPort lanes s
  | .flitRetransmit n => Sys2Proof.Machine.execFlitRetransmit n s
  | .linkDown n => Sys2Proof.Machine.execLinkDown n s
  | .dawnOver n bytes => Sys2Proof.Machine.execDawnOver n bytes s
  | .messageArrival n m => Sys2Proof.Machine.execMessageArrival n m s
  | .dawnAck => Sys2Proof.Machine.execDawnAck s
  | .routeSwitch acc v => Sys2Proof.Machine.execRouteSwitch acc v s
  | .lkPut t => Sys2Proof.Machine.execLkPut t s
  | .lkGet t => Sys2Proof.Machine.execLkGet t s
  | .remoteAccess src id cls paddock r => Sys2Proof.Machine.execRemoteAccess src id cls paddock r s
  | .linkTransferComplete id data => Sys2Proof.Machine.execLinkTransferComplete id data s
  | .lkArm t => Sys2Proof.Machine.execLkArm t s
  | .lkGo t => Sys2Proof.Machine.execLkGo t s
  | .partialArrival m => Sys2Proof.Machine.execPartialArrival m s
  | .deadlineExpiry ctx stage chunk => Sys2Proof.Machine.execDeadlineExpiry ctx stage chunk s
  | .resultArrival m => Sys2Proof.Machine.execResultArrival m s
  | .lkGoComplete ctx => Sys2Proof.Machine.execLkGoComplete ctx s
  | .lkBarrier t => Sys2Proof.Machine.execLkBarrier t s
  | .barrierMessage src up seq => Sys2Proof.Machine.execBarrierMessage src up seq s
  | .lkCommit t => Sys2Proof.Machine.execLkCommit t s
  | .waveEnable acc v => Sys2Proof.Machine.execWaveEnable acc v s
  | .vote src kind step cv skip mismatch => Sys2Proof.Machine.execVote src kind step cv skip mismatch s
  | .prepare kind step o => Sys2Proof.Machine.execPrepare kind step o s
  | .ack src kind step => Sys2Proof.Machine.execAck src kind step s
  | .final kind step o => Sys2Proof.Machine.execFinal kind step o s
  | .waveTimeout => Sys2Proof.Machine.execWaveTimeout s
  | .waveStuck => Sys2Proof.Machine.execWaveStuck s
  | .waveResolve acc v => Sys2Proof.Machine.execWaveResolve acc v s
  | .shardTransfer acc v => Sys2Proof.Machine.execShardTransfer acc v s
  | .xferDone ok => Sys2Proof.Machine.execXferDone ok s
  | .roundendComplete => Sys2Proof.Machine.execRoundendComplete s
  | .applyComplete => Sys2Proof.Machine.execApplyComplete s
  | .applyWaitRead id => Sys2Proof.Machine.execApplyWaitRead id s
  | .farEnable acc v => Sys2Proof.Machine.execFarEnable acc v s
  | .channelEnable c acc v => Sys2Proof.Machine.execChannelEnable c acc v s
  | .farQuota off acc v => Sys2Proof.Machine.execFarQuota off acc v s
  | .data f g => Sys2Proof.Machine.execData f g s
  | .ackFrame f g => Sys2Proof.Machine.execAckFrame f g s
  | .probe f g => Sys2Proof.Machine.execProbe f g s
  | .echo f g => Sys2Proof.Machine.execEcho f g s
  | .hello f g => Sys2Proof.Machine.execHello f g s
  | .state f g => Sys2Proof.Machine.execState f g s
  | .frameAdmit c => Sys2Proof.Machine.execFrameAdmit c s
  | .frameSend c => Sys2Proof.Machine.execFrameSend c s
  | .retransmit c seq => Sys2Proof.Machine.execRetransmit c seq s
  | .ackDelay c => Sys2Proof.Machine.execAckDelay c s
  | .probeInt c => Sys2Proof.Machine.execProbeInt c s
  | .rateAdjust c => Sys2Proof.Machine.execRateAdjust c s
  | .farDark c => Sys2Proof.Machine.execFarDark c s
  | .admissionStart acc v => Sys2Proof.Machine.execAdmissionStart acc v s
  | .lockAcquire f by_ v => Sys2Proof.Machine.execLockAcquire f by_ v s
  | .lockRelease f by_ v => Sys2Proof.Machine.execLockRelease f by_ v s
  | .cipLockBreak f => Sys2Proof.Machine.execCipLockBreak f s
  | .encrypt f by_ v => Sys2Proof.Machine.execEncrypt f by_ v s
  | .decrypt f by_ v => Sys2Proof.Machine.execDecrypt f by_ v s
  | .keyload f by_ v => Sys2Proof.Machine.execKeyload f by_ v s
  | .pkeyload f by_ v => Sys2Proof.Machine.execPkeyload f by_ v s
  | .kekInstall f by_ v => Sys2Proof.Machine.execKekInstall f by_ v s
  | .privilegedResult f => Sys2Proof.Machine.execPrivilegedResult f s
  | .keyZeroisation acc v => Sys2Proof.Machine.execKeyZeroisation acc v s
  | .restart f acc v => Sys2Proof.Machine.execRestart f acc v s
  | .startUpTestsPass f => Sys2Proof.Machine.execStartUpTestsPass f s
  | .cipEntropyFail f test => Sys2Proof.Machine.execCipEntropyFail f test s
  | .reseed f => Sys2Proof.Machine.execReseed f s
  | .workRingDoorbell w acc v => Sys2Proof.Machine.execWorkRingDoorbell w acc v s
  | .wrNop w => Sys2Proof.Machine.execWrNop w s
  | .wrSliceStart w => Sys2Proof.Machine.execWrSliceStart w s
  | .wrSliceStop w => Sys2Proof.Machine.execWrSliceStop w s
  | .wrSliceWait w => Sys2Proof.Machine.execWrSliceWait w s
  | .wrRegWrite w => Sys2Proof.Machine.execWrRegWrite w s
  | .wrRegWait w => Sys2Proof.Machine.execWrRegWait w s
  | .ringDone w timeout => Sys2Proof.Machine.execRingDone w timeout s
  | .ringResume w => Sys2Proof.Machine.execRingResume w s
  | .eventRingEnable acc v => Sys2Proof.Machine.execEventRingEnable acc v s
  | .eventRingHeadWrite acc v => Sys2Proof.Machine.execEventRingHeadWrite acc v s
  | .holdoffEnd vec => Sys2Proof.Machine.execHoldoffEnd vec s
  | .snapshot => Sys2Proof.Machine.execSnapshot s
  | .snapshotClear => Sys2Proof.Machine.execSnapshotClear s
  | .snapshotComplete => Sys2Proof.Machine.execSnapshotComplete s
  | .saturatedClear off => Sys2Proof.Machine.execSaturatedClear off s
  | .powerUp clk0 clk1 => Sys2Proof.Machine.execPowerUp clk0 clk1 s
  | .ready => Sys2Proof.Machine.execReady s
  | .perst port => Sys2Proof.Machine.execPerst port s
  | .perstRelease port => Sys2Proof.Machine.execPerstRelease port s
  | .pllLoss d => Sys2Proof.Machine.execPllLoss d s
  | .powerInterval watts => Sys2Proof.Machine.execPowerInterval watts s
  | .thermalInterval dies hbm0 hbm1 coolant => Sys2Proof.Machine.execThermalInterval dies hbm0 hbm1 coolant s
  | .thermalTrip d hbm temp => Sys2Proof.Machine.execThermalTrip d hbm temp s
  | .islandOvertemp temp => Sys2Proof.Machine.execIslandOvertemp temp s
  | .tamper => Sys2Proof.Machine.execTamper s
  | .heartbeatCheck alive => Sys2Proof.Machine.execHeartbeatCheck alive s
  | .quiesce => Sys2Proof.Machine.execQuiesce s
  | .powerOff => Sys2Proof.Machine.execPowerOff s
  | .lastGaspRead => Sys2Proof.Machine.execLastGaspRead s
  | .lastGaspClear => Sys2Proof.Machine.execLastGaspClear s
  | .digestSweep => Sys2Proof.Machine.execDigestSweep s
  | .mailboxDone => Sys2Proof.Machine.execMailboxDone s
  | .statusRead dgram => Sys2Proof.Machine.execStatusRead dgram s
  | .regRead dgram => Sys2Proof.Machine.execRegRead dgram s
  | .serviceLastGaspRead dgram => Sys2Proof.Machine.execServiceLastGaspRead dgram s
  | .serviceQuiesce dgram => Sys2Proof.Machine.execServiceQuiesce dgram s
  | .servicePowerOff dgram => Sys2Proof.Machine.execServicePowerOff dgram s
  | .powerOn dgram => Sys2Proof.Machine.execPowerOn dgram s
  | .serviceReset dgram => Sys2Proof.Machine.execServiceReset dgram s
  | .zeroise dgram => Sys2Proof.Machine.execZeroise dgram s
  | .serviceKekInstall dgram => Sys2Proof.Machine.execServiceKekInstall dgram s
  | .fwBegin src dgram => Sys2Proof.Machine.execFwBegin src dgram s
  | .fwData src dgram => Sys2Proof.Machine.execFwData src dgram s
  | .fwCommit src dgram => Sys2Proof.Machine.execFwCommit src dgram s
  | .setSvcKey dgram => Sys2Proof.Machine.execSetSvcKey dgram s
  | .fwHandoverDone => Sys2Proof.Machine.execFwHandoverDone s
  | .fwHandoverFail => Sys2Proof.Machine.execFwHandoverFail s
  | .smbusBlockRead cmd => Sys2Proof.Machine.execSmbusBlockRead cmd s
  | .svcArmChange closed => Sys2Proof.Machine.execSvcArmChange closed s
  | .coldReset => Sys2Proof.Machine.execColdReset s
  | .warmReset => Sys2Proof.Machine.execWarmReset s
  | .dieReset d => Sys2Proof.Machine.execDieReset d s
  | .tileReset t => Sys2Proof.Machine.execTileReset t s
  | .linkReset port => Sys2Proof.Machine.execLinkReset port s
  | .resetDone => Sys2Proof.Machine.execResetDone s
  | .mainLoss => Sys2Proof.Machine.execMainLoss s
  | .mainValid => Sys2Proof.Machine.execMainValid s
  | .stbyLoss => Sys2Proof.Machine.execStbyLoss s
  | .overVoltage => Sys2Proof.Machine.execOverVoltage s
  | .overVoltageRecovery => Sys2Proof.Machine.execOverVoltageRecovery s
  | .inhibit => Sys2Proof.Machine.execInhibit s
  | .inhibitRelease => Sys2Proof.Machine.execInhibitRelease s
  | .plugInModuleChange f watts => Sys2Proof.Machine.execPlugInModuleChange f watts s
  | .stepCloseComplete => Sys2Proof.Machine.execStepCloseComplete s
  | .shepherdFatalError => Sys2Proof.Machine.execShepherdFatalError s
  | .farPortLinkChange f up => Sys2Proof.Machine.execFarPortLinkChange f up s

end Sys2Proof.Machine
end

