-- ==== Sys2Proof/Safety.lean ====
section
/-!
DEFINITION. What a safe state and a safe step are: the canonical forms of the stores, and a step that does not stop. The frames in whose
terms the claims say what a command leaves alone.
-/
namespace Sys2Proof.Machine

/-- The byte store is in canonical form: addresses strictly rising, no entry equal to what an unlisted address reads as. -/
abbrev Memory.wf (m : Tbl Byte) : Prop := tblWf memDefault m

/-- The register file is in canonical form. -/
abbrev Registers.wf (c : Tbl Word) : Prop := tblWf ctlReset c

/-- The stores of a state are in canonical form. -/
abbrev State.Wf (s : State) : Prop := Memory.wf s.mem ∧ Registers.wf s.ctl

/-- A state from which the next step leaves a next state. -/
def State.Safe (s : State) : Prop := ∃ s', step s = .next s'

/-! ### Undefined cases -/

/-- The registers in which the liberties of R22 show: the event ring and the records of an event that may be raised, the heads of the queues that may stall, and what a drover, a
digest and the flash leave beside the bytes that they write. -/
def strayRegs : List RegName :=
  [.evtRingCtrl, .evtRingTail, .idAddrFault, .drvHostFault, .drvQueueHead, .idWringHead, .drvDigestLo, .drvDigestHi, .drvFlashWear, .drvFlashStatus]

/-- The registers that no undefined case changes (R23): the island's, the key store's, and those that draw the paddock's border. -/
def fixedRegs : List RegName :=
  [.clkStatus, .clkCap, .clkPower, .clkThrottle, .clkTherm, .clkCoolant, .clkTemp, .shmCmd, .shmArg, .shmStatus, .shmResult, .shmFw, .cipKeystore, .idPaddock, .drvEngineOwn, .tileTileCfg]

/-- Whether an undefined case may write a key of host memory: a byte of a host buffer, or one of the event ring. -/
def State.strayHost (s : State) (k : Nat) : Prop :=
  (∃ b o, s.hostBuf b o = some k) ∨ ∃ o < 32 * 2 ^ s.rf .evtRingCtrl [] 16 5, k = hostKey (s.reg .evtRingBase [] + o)

/-- What the module may have done when an undefined case has passed (R22, R23, R549). The values of the tile stores, the accumulator stores, HBM, the flash and the host buffers that an
access can reach are free; tiles, drovers, link adders, link copies and the queues that feed them may have gone on or stall; events may be raised; tallies go on counting; at most one more
register `w` differs, the one that the undefined access itself writes. R22's list is read as whole (DEDUCED, log 23): every other unit stays, and so do (R23) the service island, the
firmware slots, the fuses and the key store; nothing but messages of vectors leaves the module, so that no plaintext does; while the paddock is on, nothing of the side that the case did not
arise on changes, nor, where the paddock is the side, flash or any further register. -/
structure UndefinedMay (s s' : State) : Prop where
  rest : s' = { s with
    pending := s.pending.tail, breach := s'.breach, free := s'.free, nextId := s'.nextId, lineGen := s'.lineGen, gen := s'.gen, out := s'.out, mem := s'.mem, ctl := s'.ctl, tally := s'.tally
    ev := s'.ev, tiles := s'.tiles, xfers := s'.xfers, hostReads := s'.hostReads, flash := s'.flash, remotes := s'.remotes, net := s'.net, ctxs := s'.ctxs, rings := s'.rings }
  plaintext : ∃ more, s'.out = s.out ++ more ∧ ∀ m ∈ more, ∃ p v a d, m = .msix p v a d
  registers : ∃ w, ∀ o, o ≠ w → (∀ n ∈ strayRegs, ∀ idx, regFind o ≠ some (n, idx)) → s'.ctlRaw o = s.ctlRaw o
  fixed : ∀ n ∈ fixedRegs, ∀ idx, s'.reg n idx = s.reg n idx
  regions : s.paddockOn = true → ∀ r, s'.rf .idHbmRegion [r] 17 1 = s.rf .idHbmRegion [r] 17 1
  counts : ∀ o, ∃ n, s'.tallyAt o = (s.tallyAt o).add n
  slots : ∀ k, 2 ^ 66 ≤ k → s'.byte k = s.byte k
  host : ∀ k, 2 ^ 64 ≤ k → k < 2 ^ 66 → ¬ s.strayHost k → s'.byte k = s.byte k
  reach : ∀ k < 2 ^ 64, (∀ da, s.locate .unit true da ≠ .mem k ∧ s.locate .unit true da ≠ .flash k) → s'.byte k = s.byte k
  sides : s.paddockOn = true → ∃ side : Bool,
    (∀ t, s.isPaddock t ≠ side → s'.tile t = s.tile t ∧ ∀ o < 0x400000, s'.byte (tileBase t + o) = s.byte (tileBase t + o) ∧ s'.byte (accBase t + o) = s.byte (accBase t + o)) ∧
    (∀ da k, da < 2 ^ 40 → s.locate .unit false da = .mem k → (s.rf .idHbmRegion [da / 2 ^ 30] 17 1 == 1) ≠ side → s'.byte k = s.byte k) ∧
    (∀ x ∈ s.xfers, s.sideOf x.by_ ≠ some side → x ∈ s'.xfers) ∧
    (∀ q < 256, s.flag .drvQueueCtrl [q] 30 ≠ side → s'.reg .drvQueueHead [q] = s.reg .drvQueueHead [q]) ∧
    (side = true → s'.flash = s.flash ∧ (∀ k, 0x400000000000 ≤ k → k < 2 ^ 64 → s'.byte k = s.byte k) ∧
      ∀ o, (∀ n ∈ strayRegs, ∀ idx, regFind o ≠ some (n, idx)) → s'.ctlRaw o = s.ctlRaw o)

/-- What the module may do in one step: the model's next state, or, where the model stops at an undefined case, whatever R22 and R23 leave. -/
def State.behaves (s s' : State) : Prop := step s = .next s' ∨ (∃ u, step s = .fault (.undefined u)) ∧ UndefinedMay s s'

/-! ### Frames -/

/-- A key of the byte store outside host memory: every store of the module (HBM, tile and accumulator stores, flash, NOR). -/
def deviceKey (k : Nat) : Prop := k < 2 ^ 64 ∨ 2 ^ 66 ≤ k

/-- The registers of the event ring, which every event may move (R478-R480). -/
def eventRegs : List Nat := [regOff .evtRingCtrl [], regOff .evtRingTail []]

/-- Only the event unit, host memory, messages to the outside, the named registers and the named tallies may differ. -/
structure Quiet (regs tals : List Nat) (s s' : State) : Prop where
  rest : s' = { s with out := s'.out, mem := s'.mem, ctl := s'.ctl, tally := s'.tally, ev := s'.ev }
  mem : ∀ k, deviceKey k → s'.byte k = s.byte k
  ctl : ∀ o, o ∉ eventRegs → o ∉ regs → s'.ctlRaw o = s.ctlRaw o
  tally : ∀ o, o ≠ regOff .evtLost [] → o ∉ tals → s'.tallyAt o = s.tallyAt o

/-- One tile at work: only that tile's record, the bytes at the keys `w` with the bookkeeping of what has been written, the free values, the event unit, host memory, messages to the
outside, the named registers and the named tallies may differ. -/
structure TileOnly (t : Nat) (w : Nat → Prop) (regs tals : List Nat) (s s' : State) : Prop where
  rest : s' = { s with
    free := s'.free, out := s'.out, mem := s'.mem, gen := s'.gen, lineGen := s'.lineGen, flash := { s.flash with zeros := s'.flash.zeros }, ctl := s'.ctl, tally := s'.tally, ev := s'.ev, tiles := s'.tiles }
  tiles : ∀ u, u ≠ t → s'.tile u = s.tile u
  mem : ∀ k, deviceKey k → ¬ w k → s'.byte k = s.byte k
  ctl : ∀ o, o ∉ eventRegs → o ∉ regs → s'.ctlRaw o = s.ctlRaw o
  tally : ∀ o, o ≠ regOff .evtLost [] → o ∉ tals → s'.tallyAt o = s.tallyAt o

/-! ### Commands by operation -/

/-- The row of an arithmetic operation. -/
def aluCmd (t : TileId) : AluOp → Instr
  | .add => .sqAdd t | .sub => .sqSub t | .and => .sqAnd t | .or => .sqOr t | .xor => .sqXor t | .shl => .sqShl t | .shr => .sqShr t
  | .sra => .sqSra t | .mul => .sqMul t | .mulhu => .sqMulhu t | .mulhs => .sqMulhs t | .min => .sqMin t | .max => .sqMax t
  | .minu => .sqMinu t | .maxu => .sqMaxu t | .sel => .sqSel t | .clz => .sqClz t | .li => .sqLi t | .popc => .sqPopc t
  | .shori => .sqShori t | .divu => .sqDivu t | .remu => .sqRemu t

/-- The row of a comparison. -/
def cmpCmd (t : TileId) : CmpOp → Instr
  | .eq => .sqEq t | .ne => .sqNe t | .lt => .sqLt t | .ge => .sqGe t | .ltu => .sqLtu t | .geu => .sqGeu t | .flt => .sqFlt t
  | .fge => .sqFge t | .pand => .sqPand t | .por => .sqPor t | .pxor => .sqPxor t | .pandn => .sqPandn t | .fnf => .sqFnf t
  | .tst => .sqTst t

/-- The row of a scalar memory operation. -/
def memCmd (t : TileId) (o : MemOp) : Instr := if o = .lda then .sqLda t else if memStores o then .sqStore t else .sqLoad t

/-- The row that runs an instruction of the sequencer; an engine instruction is dispatched. -/
def sqCmd (t : TileId) : KBody → Instr
  | .alu o _ _ _ _ => aluCmd t o
  | .aluI o _ _ _ => aluCmd t o
  | .cmp o _ _ _ => cmpCmd t o
  | .cmpI o _ _ _ => cmpCmd t o
  | .br l _ _ _ _ => if l then .sqCall t else .sqB t
  | .jr _ => .sqJr t
  | .ret => .sqRet t
  | .tset _ _ => .sqTset t
  | .tadd _ _ => .sqTadd t
  | .tget _ _ => .sqTget t
  | .nop => .sqNop t
  | .halt _ => .sqHalt t
  | .fence _ => .sqFence t
  | .event _ => .sqEvent t
  | .mode _ => .sqMode t
  | .setvl _ _ => .sqSetvl t
  | .icinv => .sqIcinv t
  | .icpf _ _ => .sqIcpf t
  | .mov _ _ _ _ => .sqMov t
  | .mem o _ _ _ => memCmd t o
  | .dld _ _ _ => .sqDld t
  | .dst _ _ _ => .sqDst t
  | .dset _ _ _ _ => .sqDset t
  | .dget _ _ _ => .sqDget t
  | .dadd _ _ _ => .sqDadd t
  | .eng _ _ _ _ _ => .engineDispatch t

/-- The row of a vector operation in descriptor mode. -/
def vxCmd (t : TileId) : VxOp → Instr
  | .add => .vxAdd t | .sub => .vxSub t | .mul => .vxMul t | .mul3 => .vxMul3 t | .fma => .vxFma t | .fms => .vxFms t | .fnma => .vxFnma t
  | .mas => .vxMas t | .max => .vxMax t | .min => .vxMin t | .abs => .vxAbs t | .cvt => .vxCvt t | .rcp => .vxRcp t | .rsqrt => .vxRsqrt t
  | .gt => .vxGt t | .sel => .vxSel t | .fill => .vxFill t | .rrow => .vxRrow t | .rcol => .vxRcol t | .scan => .vxScan t | .perm => .vxPerm t
  | .shuf => .vxShuf t | .pack => .vxPack t | .unpack => .vxUnpack t | .rescale => .vxRescale t | .drain => .vxDrain t | .ftld => .vxFtld t
  | .fn => .vxFn t | .fnd => .vxFnd t | .drop => .vxDrop t

/-- The row of a drover operation and of a link operation on a tile. -/
def dvCmd (t : TileId) : DvOp → Instr
  | .copy => .dvCopy t | .gather => .dvGather t | .scatter => .dvScatter t | .scadd => .dvScadd t | .coldupd => .dvColdupd t
def lkCmd (t : TileId) : LkOp → Instr
  | .arm => .lkArm t | .go => .lkGo t | .barrier => .lkBarrier t | .put => .lkPut t | .get => .lkGet t | .commit => .lkCommit t

/-- The row of a matrix operation, and that of an engine operation in its queue. -/
def mxCmd (t : TileId) : MxOp → Instr
  | .open => .mxOpen t | .close => .mxClose t | .discard => .mxDiscard t | .pass => .mxPass t | .passr => .mxPassr t | .passb => .mxPassb t
def engCmd (t : TileId) : EngOp → Instr
  | .mx o => mxCmd t o | .vx o => vxCmd t o | .vxl _ => .vxLengthForm t | .dv o => dvCmd t o | .lk o => lkCmd t o

/-! ### A sequencer instruction that goes -/

/-- The sequencer of a tile has an instruction before it, its WAIT token is there and its predicate holds (R113, R130); the next word lies in the
HBM window. -/
structure SqGo (t : Nat) (i : KInsn) (s : State) : Prop where
  fetch : s.fetch t = .insn i
  token : (s.tile t).tokenReady i.wait.val = true
  pred : (s.tile t).preg i.pred.val = true
  room : (s.tile t).pc + 8 < 2 ^ 40

/-- A token's count after the instruction's wait has taken one (R130). -/
def waited (x : Tile) (i : KInsn) (k : Nat) : Nat := if k = i.wait.val then x.token k - 1 else x.token k

/-- The next fetch has met an address fault: the tile drains (R169). -/
def fetchStopped (s : State) (t pc : Nat) (x : Tile) : Prop :=
  s.lineFaults t (pc / 256) = true ∧ x.seq = .draining ∧ x.cause = .fetchFault ∧ x.fetchFault = true

/-- What a sequencer instruction leaves: the tile's record `own` with its own effect; the tokens `tk` that it leaves before its signal, and the
token `sg` that rises (0: none), which stops at 255; the next program counter; the fetch of the next word; and nothing else but the bytes at
the keys `w`. -/
structure SqRetired (t : Nat) (own : Tile) (tk : Nat → Nat) (sg next : Nat) (w : Nat → Prop) (s s' : State) : Prop where
  frame : TileOnly t w [regOff .idAddrFault []] [] s s'
  pc : (s'.tile t).pc = next
  rest : s'.tile t = { own with
    pc := next, tok := (s'.tile t).tok, tokenSat := (s'.tile t).tokenSat, icache := (s'.tile t).icache, icReq := (s'.tile t).icReq
    seq := (s'.tile t).seq, cause := (s'.tile t).cause, fetchFault := (s'.tile t).fetchFault }
  token : ∀ k, (s'.tile t).token k = if k = 0 then 0 else if k = sg then min 255 (tk k + 1) else tk k
  goes : ((s'.tile t).seq = own.seq ∧ (s'.tile t).cause = own.cause ∧ (s'.tile t).fetchFault = own.fetchFault) ∨ fetchStopped s t next (s'.tile t)

/-! ### The tables of chapter 4 in plain arithmetic -/

/-- The table of R140: the result of an arithmetic minor on `a`, `b` and, for sel, a predicate, taken modulo 2^64. -/
def aluTable (op : AluOp) (a b : Word) (p : Bool) : Word :=
  let n := b.toNat % 64
  match op with
  | .add => BitVec.ofNat 64 (a.toNat + b.toNat)
  | .sub => BitVec.ofInt 64 (a.toInt - b.toInt)
  | .and => a &&& b
  | .or => a ||| b
  | .xor => a ^^^ b
  | .shl => BitVec.ofNat 64 (a.toNat * 2 ^ n)
  | .shr => BitVec.ofNat 64 (a.toNat / 2 ^ n)
  | .sra => BitVec.ofInt 64 (a.toInt / 2 ^ n)
  | .mul => BitVec.ofNat 64 (a.toNat * b.toNat)
  | .mulhu => BitVec.ofNat 64 (a.toNat * b.toNat / 2 ^ 64)
  | .mulhs => BitVec.ofInt 64 (a.toInt * b.toInt / 2 ^ 64)
  | .min => BitVec.ofInt 64 (min a.toInt b.toInt)
  | .max => BitVec.ofInt 64 (max a.toInt b.toInt)
  | .minu => BitVec.ofNat 64 (min a.toNat b.toNat)
  | .maxu => BitVec.ofNat 64 (max a.toNat b.toNat)
  | .sel => if p then a else b
  | .clz => BitVec.ofNat 64 ((List.range 64).countP (fun k => a.toNat < 2 ^ (63 - k)))
  | .li => b
  | .popc => BitVec.ofNat 64 ((List.range 64).map (fun k => a.toNat / 2 ^ k % 2)).sum
  | .shori => BitVec.ofNat 64 (a.toNat * 2 ^ 28) ||| b
  | .divu => if b.toNat = 0 then BitVec.ofNat 64 (2 ^ 64 - 1) else BitVec.ofNat 64 (a.toNat / b.toNat)
  | .remu => if b.toNat = 0 then a else BitVec.ofNat 64 (a.toNat % b.toNat)

/-- `b` of the IMM form (R141): sign-extended, but zero-extended for shori. -/
def immTable (op : AluOp) (imm : BitVec 28) : Word := if op = .shori then BitVec.ofNat 64 imm.toNat else BitVec.ofInt 64 imm.toInt

/-- The table of R143 for comparisons of s-registers. -/
def cmpTable (op : CmpOp) (a b : Word) : Bool :=
  match op with
  | .eq => a.toNat == b.toNat
  | .ne => a.toNat != b.toNat
  | .lt => a.toInt < b.toInt
  | .ge => a.toInt ≥ b.toInt
  | .ltu => a.toNat < b.toNat
  | .geu => a.toNat ≥ b.toNat
  | .flt => f32Lt (a.truncate 32) (b.truncate 32)
  | .fge => f32Ge (a.truncate 32) (b.truncate 32)
  | .fnf => fld a.toNat 23 8 == 255
  | .tst => (a &&& b).toNat != 0
  | .pand | .por | .pxor | .pandn => false

/-- The table of R143 for the logic of two predicates. -/
def predTable (op : CmpOp) (p q : Bool) : Bool :=
  match op with
  | .pand => p && q
  | .por => p || q
  | .pxor => p != q
  | .pandn => p && !q
  | _ => false

/-- The table of R145: whether a branch is taken, on its s-register and its predicate. -/
def condTable (c : Cond) (v : Word) (p : Bool) : Bool :=
  match c with
  | .always => true
  | .pt => p
  | .pf => !p
  | .z => v.toInt == 0
  | .nz => v.toInt != 0
  | .lt => v.toInt < 0
  | .ge => v.toInt ≥ 0
  | .gt => v.toInt > 0
  | .le => v.toInt ≤ 0

/-- The fabric has nothing left to send, and no undefined case has been met: so it stands after every command that answers a next state. -/
def Unsent (s : State) : Prop := s.net.outbox = [] ∧ s.net.ready = [] ∧ s.breach = none

/-! ### Host writes -/

/-- A write of the host reaches its register: the port is up, the module is ready or the block takes early writes (R500), the size is one that registers take (R12),
no reserved bit is written 1 (R8), and no command before it has left anything unsent or undefined. -/
structure HostOpen (port : Nat) (n : RegName) (idx : List Nat) (acc : Acc) (v : Nat) (s : State) : Prop where
  up : s.hostUp port = true
  size : acc ≠ .other
  ready : s.isReady = true ∨ earlyBlock (regOff n idx) = true
  reserved : accBits acc v &&& (regRow n).rsv = 0
  sent : Unsent s

/-- What a plain register holds after a write (R12-R15): a covered RW bit takes the written bit, a covered W1C bit written 1 clears, every other bit stays. -/
def writtenBit (n : RegName) (acc : Acc) (old v b : Nat) : Bool :=
  if (accMask acc).testBit b then
    if (regRow n).w1c.testBit b then old.testBit b && !(accBits acc v).testBit b
    else if (regRow n).rw.testBit b then (accBits acc v).testBit b
    else old.testBit b
  else old.testBit b

/-! ### Engines -/

/-- The head of a tile's queue may issue: the tile is not stopped, no emergency quiesce gates it, its WAIT token is there, no unit comes before it for that token,
and its predicate held at dispatch (R113, R127, R130, R132). -/
structure EngGo (t : Nat) (q : Queue) (e : QEntry) (s : State) : Prop where
  head : ((s.tile t).queue q).head? = some e
  runs : (s.tile t).seq ≠ .stopped
  clock : s.gated t = false
  token : (s.tile t).tokenReady e.wait = true
  first : s.outranked t q e.wait = false
  pred : e.pred = true

/-- The state once the head of a queue has issued: its wait has taken a token, and it has left the queue. -/
def issued (s : State) (t : Nat) (q : Queue) (e : QEntry) : State := s.setTile t (((s.tile t).takeToken e.wait).dequeue q)

/-- A vector instruction goes: it is the queue's head, no earlier one runs, no step close holds it, and where it consumes a finished tile `g` there is one
(R206, R235, R324); `s1` is the state on which it works. -/
structure VxGo (t : Nat) (e : QEntry) (g : Option Nat) (s1 s : State) : Prop where
  go : EngGo t .vx e s
  idle : (s.tile t).vxBusy = false
  open_ : s.ledgerWait e.named = false
  takes : (issued s t .vx e).takeTileQ t (ctrlCons e.ctrl) = .ok (g, s1)

/-- Some addresses of a tile's stores lie in plain memory, each read and written at its own key: none in a group that is open, whose reads give close values. -/
def OwnBytes (s : State) (t : Nat) (as : List Nat) : Prop :=
  ∀ a ∈ as, s.locate (.tile t) true a = .mem a ∧ s.locate (.tile t) false a = .mem a ∧ s.mapAt a = none ∧ ∀ u g, accGroup a = some (u, g) → ((s.tile u).group g).st ≠ .opened

/-- The exact value of an operand as a rational number; of an infinity or a NaN, zero. -/
def valRat : Val → ℚ
  | .fin n m e => (if n then -1 else 1) * (m : ℚ) * (2 : ℚ) ^ e
  | _ => 0

/-- The exact value of a result whose magnitude is not a root. -/
def resRat : Res → ℚ
  | .fin n x => (if n then -1 else 1) * ((x.num : ℚ) / x.den)
  | _ => 0

/-- The balanced tree of 2^n leaves that the rows of R239's figure draw: each level combines neighbours. -/
def treeOf (op : F32 → F32 → F32) : Nat → (Nat → F32) → F32
  | 0, f => f 0
  | n + 1, f => op (treeOf op n f) (treeOf op n (fun i => f (2 ^ n + i)))

/-- The tensor whose element order a movement's source has: its own, or of a finished tile D's with the first two extents exchanged. -/
def moveSrc (d : Tens) : VIn → Tens
  | .mem v => v.t
  | .tile _ => { d with e0 := d.e1, e1 := d.e0 }

/-! ### Drovers -/

/-- A transfer's written addresses and read addresses, row by row, with the codebook of its source (R269-R272). -/
def dvTo (r : XReq) (p : XPlan) (ix : List Nat) : List Nat := (p.pairs r.op ix).flatMap (fun q => p.d.rowAddrs p.de q.1)
def dvFrom (r : XReq) (p : XPlan) (ix : List Nat) : List Nat :=
  if p.s.empty then [] else (p.pairs r.op ix).flatMap (fun q => match q.2 with
    | some a => p.s.rowAddrs p.se a
    | none => []) ++ p.s.bookAddrs

/-- The addresses of a transfer's index list. -/
def dvList (p : XPlan) : List Nat := match p.i with
  | some t => t.dataAddrs
  | none => []

/-- No access in flight that an actor is not ordered against has written one of some keys (R87), or a unit that holds one (R68, R276). -/
def Alone (s : State) (w : Actor) (keys : List Nat) : Prop := racedUnits (s.stakesBut w) keys = [] ∧ s.recRaced w keys = false

/-- The keys that a transfer reads and writes. -/
def dvKeys (s : State) (r : XReq) (by_ : Issuer) (p : XPlan) : List Nat :=
  s.spKeys (.da by_) false (dvList p) ++ s.spKeys (r.srcSp by_) false (p.s.readAddrs p.se) ++ s.spKeys (r.dstSp by_) false p.d.bookAddrs
    ++ s.spKeys (r.dstSp by_) true (dvTo r p (s.indices by_ p))

/-- The keys of the bytes that a transfer writes and that do not fault. -/
def dvWritten (s : State) (r : XReq) (by_ : Issuer) (p : XPlan) : List Nat :=
  ((dvTo r p (s.indices by_ p)).filter (s.spLive (r.dstSp by_) true)).map (s.spKey (r.dstSp by_))

/-- A transfer among the active ones may move at once (R271, R272, R274, R279, R303, R316, R509, R519): its operands keep the rules and name elements, nothing holds its accesses, its index
list is in order, what it writes meets neither what it reads nor the list, it reads control registers in whole words and writes none, it reads no ring slot that is being written, no
unordered access has written what it reads or writes; its write reaches no flash but as a coldupd and breaks no rule, its codebooks can be read, and under DIG the key, the slot and the chunks are as they must be; the ledger's
entries are not its destination. -/
structure DvMoves (x : Xfer) (p : XPlan) (s : State) : Prop where
  plan : x.req.plan x.by_ = .ok p
  found : s.xfers.find? (fun y => y.id == x.id) = some x ∧ x.moved = false
  some_ : p.nothing x.req.op = false
  goes : s.xferHeld x p = false
  list : ixBad x.req.op (s.indices x.by_ p) = false
  apart : meets (dvWritten s x.req x.by_ p) (((p.s.readAddrs p.se).filter (s.spLive (x.req.srcSp x.by_) false)).map (s.spKey (x.req.srcSp x.by_))) = false
  fixed : meets (dvWritten s x.req x.by_ p) ((dvList p).filter (s.spLive (.da x.by_) false)) = false
  warm : s.flashBreach x.by_ x.req.op ((x.req.dstSp x.by_).das (dvTo x.req p (s.indices x.by_ p))) = false
  whole : s.ctlPartial x.by_ false ((x.req.srcSp x.by_).das (dvFrom x.req p (s.indices x.by_ p))) = false ∧ s.ctlPartial x.by_ false (dvList p) = false
  memory : s.ctlWords x.by_ true ((x.req.dstSp x.by_).das (dvTo x.req p (s.indices x.by_ p))) = []
  version : s.rdBreach x.by_ ((x.req.srcSp x.by_).das (dvFrom x.req p (s.indices x.by_ p)) ++ dvList p) = false
  alone : Alone s x.by_.actor (dvKeys s x.req x.by_ p)
  write : s.wrBreach (s.landing x.by_ ((x.req.dstSp x.by_).das (dvTo x.req p (s.indices x.by_ p)))) = none
  books : ∃ sb db, s.book (x.req.srcSp x.by_) p.s = .ok sb ∧ s.book (x.req.dstSp x.by_) p.d = .ok db
  digest : x.req.dig = true → s.keyBad = false ∧ s.digestSlot x.req.dslot < digestP ∧
    (wholeChunks (s.reg .drvDigestOrigin [x.req.dslot]) ((dvTo x.req p (s.indices x.by_ p)).map (fun a => (a, 0)))).isSome = true
  ledger : s.flag .ledBase [] 63 = true → ∀ a ∈ (x.req.dstSp x.by_).das (dvTo x.req p (s.indices x.by_ p)),
    (a < s.entryAddr 0 ∨ s.entryAddr 0 + 2 ^ 20 ≤ a) ∧ ∀ o < 2 ^ 20, ∀ k, s.locate x.by_ true a = .mem k → s.locate .unit true (s.entryAddr 0 + o) ≠ .mem k

/-- What a transfer that has moved leaves: its record, with a cold batch's bytes and the units that it wrote; each byte of a device or host destination as its rows' encodings say, the last row's
where an index repeats; every device byte outside its destination and outside the ledger entry that its destination names; and every other part of the module but registers,
tallies and events. -/
structure DvMoved (x : Xfer) (p : XPlan) (s s' : State) : Prop where
  stored : ∃ sb db os keys lines, (x.req.dstSp x.by_ = .da x.by_ → lines = s.linesOf keys) ∧ s.book (x.req.srcSp x.by_) p.s = .ok sb ∧ s.book (x.req.dstSp x.by_) p.d = .ok db ∧
    os = s.rowsGo x.by_ x.req p ⟨sb, db, x.ts, x.td, x.req.op == .coldupd ||
      (p.s.fmt == p.d.fmt && (p.s.place == 0) == (p.d.place == 0) && (p.s.place != 0 || x.ts == x.td) && sb.levels == db.levels)⟩ (p.pairs x.req.op (s.indices x.by_ p)) ∧
    (x.req.op ≠ .coldupd → x.req.dstSp x.by_ = .da x.by_ → ∀ a ∈ dvTo x.req p (s.indices x.by_ p), ∀ k, s.locate x.by_ true a = .mem k →
      (∀ b ∈ dvTo x.req p (s.indices x.by_ p), s.locate x.by_ true b = .mem k → b = a) →
      ((os.flatMap RowOut.bytes).reverse.find? (fun e => e.1 == a)).map (fun e => e.2 % 256) = some (s'.byte k)) ∧
    (s.flag .evtRingCtrl [] 63 = false → ∀ h, x.req.dstSp x.by_ = .host h → ∀ a ∈ dvTo x.req p (s.indices x.by_ p), ∀ k, s.hostBuf h a = some k →
      (∀ b ∈ dvTo x.req p (s.indices x.by_ p), s.hostBuf h b = some k → b = a) →
      ((os.flatMap RowOut.bytes).reverse.find? (fun e => e.1 == a)).map (fun e => e.2 % 256) = some (s'.byte k)) ∧
    (x.req.dstSp x.by_ = .da x.by_ → keys = if x.req.op = .coldupd then [] else s.spKeys (x.req.dstSp x.by_) true (dvTo x.req p (s.indices x.by_ p))) ∧
    s'.xfers = s.xfers.map (fun y => if y.id = x.id then
      { y with moved := true, commit := (if x.req.op = .coldupd then os.flatMap RowOut.bytes else [])
               stake := { x.stake with lines := lines, wrote := keys, adds := (x.req.op == .scadd) } } else y)
  bytes : ∀ k, deviceKey k → (x.req.op ≠ .coldupd → ∀ a ∈ (x.req.dstSp x.by_).das (dvTo x.req p (s.indices x.by_ p)), s.locate x.by_ true a ≠ .mem k) →
    (s.toEntry x.by_ p.d = true → ∀ o < 256, s.locate .unit true (s.entryAddr p.d.ledger + o) ≠ .mem k) → s'.byte k = s.byte k
  rest : s' = { s with xfers := s'.xfers, mem := s'.mem, gen := s'.gen, lineGen := s'.lineGen, flash := { s.flash with zeros := s'.flash.zeros }, ctl := s'.ctl, tally := s'.tally, ev := s'.ev, out := s'.out }

/-- A tile's drover instruction goes to engine `g` (R127, R264, R324). -/
structure DvGo (t : Nat) (o : DvOp) (e : QEntry) (g : Nat) (s : State) : Prop where
  go : EngGo t .dv e s
  op : e.op = .dv o
  closed : s.ledgerWait [e.dA, e.dB] = false
  engine : s.drvEngine (t / 160) (s.isPaddock t) = some g

/-! ### Ledger -/

/-- The ledger's 1 MiB lies in a mapped region of HBM. -/
def LedgerMapped (s : State) : Prop := s.entryAddr 0 < 2 ^ 40 ∧ fld (s.reg .idHbmRegion [s.entryAddr 0 / 2 ^ 30]) 18 2 ≠ 0

/-- The entries that an initialisation names stand as R318 says, and the others of the table as before. -/
structure Initialised (first count : Nat) (s s' : State) : Prop where
  entries : ∀ n, first ≤ n → n < first + count → s'.entryLe n 0 8 = 64 * 2 ^ 44 + 4 * 2 ^ 40 + 3 * 2 ^ 32 + 2 ∧ ∀ o, 8 ≤ o → o < 256 → s'.peek .unit (s.entryAddr n + o) = 0
  others : ∀ n < 4096, n < first ∨ first + count ≤ n → ∀ o < 256, s'.peek .unit (s.entryAddr n + o) = s.peek .unit (s.entryAddr n + o)
  tiles : s'.tiles = s.tiles

/-- The norm verdict of R309: its code, N and F, from the sum of squares and the two thresholds. -/
def normTable (x absurd clip : F32) : Nat × F32 × F32 :=
  let n := f32Round (f32Val x).abs.sqrt
  if (f32Val x).isFin = false ∨ (f32Val x).lt Val.zero = true then (2, f32Nan false, 0)
  else if (f32Val absurd).isZero = false ∧ (f32Val absurd).lt (f32Val n) = true then (3, n, 0)
  else if (f32Val clip).isZero = false ∧ (f32Val clip).lt (f32Val n) = true then (1, n, f32Round ((f32Val clip).div (f32Val n)))
  else (0, n, 0x3F800000)

/-! ### Messages of the near fabric -/

/-- Messages that leave, each port's in the order that its arbiter gives (R349). -/
def sendAll (s : State) (ms : List NetMsg) : State := (ms.foldl State.inject s).arbitrate

/-- A message of this module. -/
def ownMsg (s : State) (dst : Nat) (cls : NetClass) (body : NetBody) : NetMsg := ⟨s.selfId, dst, cls, false, body⟩

/-- A message of this module to each of the wave's children. -/
def childMsgs (s : State) (body : NetBody) : List NetMsg := s.waveChildren.map (fun c => ownMsg s c .dawn body)

/-- No module of the wave's tree is this one, and the fabric has nothing left to send. -/
def WaveOutside (s : State) : Prop := Unsent s ∧ s.isLocal s.waveParent = false ∧ ∀ c ∈ s.waveChildren, s.isLocal c = false

/-- The wave has nothing to count and lacks a vote. -/
def WaveStill (s : State) : Prop := s.wave.waiting = [] ∧ s.votes ≠ s.waveTiles

/-- A tile's link instruction goes on an ordinary tile (R127, R352). -/
structure LkGo (t : Nat) (o : LkOp) (e : QEntry) (s : State) : Prop where
  go : EngGo t .lk e s
  op : e.op = .lk o
  side : s.isPaddock t = false

/-- The step that begins when the one in progress ends. -/
def State.nextStep (s : State) : Nat := (s.stepNo + 1) % 2 ^ 48

/-- The step may end: where a flock window ends with it the window has slots of the module, meets no undefined case (UB-43, UB-44), and reports to another module or to this one's own bellwether. -/
structure StepMay (s : State) : Prop where
  unbroken : s.windowDue s.nextStep = true → (s.windowEnd s.nextStep).breach = none
  slots : s.windowDue s.nextStep = true → s.rf .ledFlockSlots [] 0 8 + s.rf .ledFlockSlots [] 8 9 ≤ 256
  member : s.windowDue s.nextStep = true → s.flockSize = 1 ∨ s.flockMember = 0 ∨ s.isLocal (s.memberModule 0) = false

/-- What the end of the step sends: at a window's end, a member's digest of the window to its bellwether (R336). -/
def stepMsgs (s : State) : List NetMsg :=
  let d := (((List.range (s.rf .ledFlockSlots [] 8 9)).map (s.rf .ledFlockSlots [] 0 8 + ·)).map s.digestSlot).sum % (2 ^ 127 - 1)
  if s.windowDue s.nextStep = true ∧ s.flockSize ≠ 1 ∧ s.flockMember ≠ 0 then
    [ownMsg s (s.memberModule 0) .dawn (.flockDigest s.flockId s.flockMember s.nextStep (BitVec.ofNat 64 d) (BitVec.ofNat 64 (d / 2 ^ 64)))]
  else []

/-- An inner step has ended (R323, R336, R388, R389, R399): the ledger's step close with the step that was in progress, from the state with the new CV and STEP; where a flock window ends, its digest, slots and
collection; where a round ends, NEXT_END advances by H, ROUNDEND begins with APPLY_WAIT as the boundary needs it, and the device posts its work into the queue. What does not end stays. -/
structure StepEnded (o : Outcome3) (s s' : State) : Prop where
  close : let r := (s.versionStep false o).stepClose s.stepNo
    (∀ k, deviceKey k → s'.byte k = r.byte k) ∧ s'.reg .ledClose [] = r.reg .ledClose [] ∧ s'.closeStep = r.closeStep ∧ s'.closeHeld = r.closeHeld
  unclosed : s.flag .ledBase [] 63 = false → (∀ k, deviceKey k → s'.byte k = s.byte k) ∧ s'.reg .ledClose [] = s.reg .ledClose []
  window : let r := if s.windowDue s.nextStep then s.windowEnd s.nextStep else s
    s'.flock = r.flock ∧ s'.reg .ledFlockDigestLo [] = r.reg .ledFlockDigestLo [] ∧ s'.reg .ledFlockDigestHi [] = r.reg .ledFlockDigestHi [] ∧ ∀ i < 256, s'.digestSlot i = r.digestSlot i
  round : s.farOn = true → s.nextStep = s.rf .farNextEnd [] 0 48 →
    s'.phase = 1 ∧ s'.rf .farNextEnd [] 0 48 = (s.nextStep + s.rf .farCfg [] 17 17) % 2 ^ 48 ∧ s'.reg .farApplyWait [] = s.roundEnd.reg .farApplyWait [] ∧
      s.far.posted < s'.far.posted ∧ s'.far = { s.far with failed := false, posted := s'.far.posted } ∧
      s'.rf .drvQueueTail [s.applyQueue] 0 32 = (s.rf .drvQueueTail [s.applyQueue] 0 32 + (s'.far.posted - s.far.posted)) % 2 ^ 32
  noRound : s.farOn = false ∨ s.nextStep ≠ s.rf .farNextEnd [] 0 48 →
    s'.phase = s.phase ∧ s'.reg .farNextEnd [] = s.reg .farNextEnd [] ∧ s'.reg .farApplyWait [] = s.reg .farApplyWait [] ∧ s'.far = s.far

/-- An inner step has been resolved (R301, R310, R380): the step advances; a commit advances CV and flips PARITY; LAST says what it was; the wave begins anew; the norm
vote is cleared; each counted lk.commit has deposited the outcome and left. -/
structure Resolved (o : Outcome3) (s s' : State) : Prop where
  step : s'.stepNo = (s.stepNo + 1) % 2 ^ 48
  version : s'.cv = if o = .committed then (s.cv + 1) % 2 ^ 48 else s.cv
  parity : s'.rf .ledCommit [] 52 1 = if o = .committed then 1 - s.rf .ledCommit [] 52 1 else s.rf .ledCommit [] 52 1
  last : s'.rf .ledCommit [] 53 1 = 0 ∧ s'.rf .ledCommit [] 54 2 = outcomeCode o
  wave : s'.wstate = 0 ∧ s'.votes = 0 ∧ s'.wave = { Wave.reset with waiting := s.wave.waiting }
  norm : s'.rf .ledNorm [] 62 2 = 0
  flights : ∀ t, (s'.tile t).flights = (s.tile t).flights.filter (fun f => !isCounted f)
  deposit : ∀ t f, (s.tile t).flights.filter isCounted = [f] → f.sdst ≠ 0 → f.overwritten = false → (s'.tile t).sreg f.sdst = BitVec.ofNat 64 (outcomeCode o)
  token : ∀ t f, (s.tile t).flights.filter isCounted = [f] → f.signal ≠ 0 → (s'.tile t).token f.signal = min 255 ((s.tile t).token f.signal + 1)
  ended : StepEnded o s s'
  net : s'.net = s.net

/-- A module's aggregated SKIP and MISMATCH over what it has collected (R377). -/
def aggSkip (s : State) (w : Wave) : Bool := (!w.kind && (w.skip || s.flag .ledNorm [] 62)) || w.votes.any (fun v => v.skip)
def aggMism (s : State) (w : Wave) : Bool :=
  w.mixed || w.votes.any (fun v => v.mismatch || v.kind != w.kind || v.step != s.stepNo || v.cv != s.cv)

/-- The reduction rings lead to other modules, and the fabric has nothing left to send. -/
def RingsOutside (s : State) : Prop := Unsent s ∧ ∀ r, s.isLocal (s.ring r).down = false

/-- RESULT of a reduction may be written: no write of it is undefined, and none reaches the ledger's table. -/
def ResultOpen (s : State) (x : Ctx) : Prop :=
  ∀ t, Tens.ofDesc x.result = .ok t → s.areaBreach (t.writeAddrs none) = none ∧
    (s.flag .ledBase [] 63 = true → ∀ a ∈ t.writeAddrs none, ∀ o < 2 ^ 20, ∀ k, s.locate (.tile x.tile) true a = .mem k → s.locate .unit true (s.entryAddr 0 + o) ≠ .mem k)

/-- Bytes at some addresses lie in plain memory of an issuer, each in a place of its own. -/
def PlainBytes (s : State) (by_ : Issuer) (as : List Nat) : Prop :=
  ∃ f : Nat → Nat, (∀ a ∈ as, s.locate by_ true a = .mem (f a) ∧ s.locate by_ false a = .mem (f a) ∧ accGroup a = none ∧ s.mapAt (f a) = none) ∧ ∀ a ∈ as, ∀ b ∈ as, f a = f b → a = b

/-- None of some addresses lies in the table of a ledger that is enabled. -/
def OffLedger (s : State) (as : List Nat) : Prop := s.flag .ledBase [] 63 = true → ∀ a ∈ as, a < s.entryAddr 0 ∨ s.entryAddr 0 + 2 ^ 20 ≤ a

/-- The undefined case that writing the status of a reduction's record is, once its context is free (R87, R199, R371). -/
def recordBreach (s : State) (n : Nat) (x : Ctx) : Option UB :=
  State.slotBreach { s with ctxs := tblSet (fun _ => none) s.ctxs n none } ((List.range 0x90).map (x.record + 0x80 + ·))

/-! ### Far frames -/

/-- A datagram brings an accepted frame of a type to a port (R408, R412, R439-R444): the link is up, no reset or quiesce holds the exchange's memory, every check of R412 holds, the engine opens it with sequence `v` and text
`pt` and leaves `s1`; its payload has the form of its type (R411), and its channel has contact. -/
structure FrameIn (f typ : Nat) (g : Datagram) (c v : Nat) (pt : List Nat) (s1 s : State) : Prop where
  link : s.farLink f = true
  reach : s.farHeld = false
  type_ : (dgBytes g).getD 0 0 % 16 = typ
  checks : s.frameOk f g = true
  chan : c = hdrF (dgBytes g) 2 2
  opened : s.cipOpen g.room f c ((dgBytes g).take 32) (hdrF (dgBytes g) 12 4) (((dgBytes g).drop 32).take ((dgBytes g).length - 48)) ((dgBytes g).drop ((dgBytes g).length - 16)) = (.ok v pt, s1)
  form : s1.payloadOk typ pt = true
  lit : s1.chanSt c ≠ 3

/-- A write of an engine's register by the host or by Shepherd reaches it (R452, R454). -/
def CipSends (shep : Bool) (n : RegName) (f : Nat) (acc : Acc) (v : Nat) (s : State) : Prop :=
  if shep then acc ≠ .other ∧ s.shepReach = true else HostOpen 0 n [f] acc v s

/-- No frame of a channel is being encrypted. -/
def Unsealed (s : State) : Prop := ∀ e ∈ s.far.chans, e.2.sealing = none ∧ (s.chan e.1).sealing = none

/-- The row of a frame type. -/
def farCmd (f : Fin 4) (g : Datagram) : Nat → Instr
  | 1 => .data f g | 2 => .ackFrame f g | 3 => .probe f g | 4 => .echo f g | 5 => .hello f g | _ => .state f g

/-- What a frame whose sequence is new adds to its channel (R413): the sequence, and the top of the tracked window. -/
def tracked (x : Chan) (v : Nat) : Chan :=
  { x with seen := (if v ∈ x.seen then x.seen else x.seen ++ [v]).filter (fun q => decide (max x.rxTop (v + 1) - 65536 ≤ q)), rxTop := max x.rxTop (v + 1) }

/-! ### Power and resets -/

/-- The compute domain has lost its power (R510, R534): its units are empty, HBM reads zero, no tally counts; the island's registers but READY, PLL_LOCK and what the cause writes, the flash and the NOR stay. -/
structure PoweredOff (s s' : State) : Prop where
  off : s'.isl.powered = false ∧ s'.isl.starting = false ∧ s'.isl.running = [] ∧ s'.isl.asked = []
  ready : s'.isReady = false
  locks : s'.rf .clkStatus [] 48 8 = 0
  units : s'.tiles = [] ∧ s'.xfers = [] ∧ s'.ctxs = [] ∧ s'.tally = [] ∧ s'.cip.cache = [] ∧ s'.cip.ops = []
  hbm : ∀ k, k < 2 ^ 40 → s'.byte k = 0
  flash : ∀ k, 0x400000000000 ≤ k → k < 2 ^ 64 → s'.byte k = s.byte k
  nor : ∀ k, 2 ^ 66 ≤ k → s'.byte k = s.byte k
  island : ∀ n ∈ [RegName.clkCap, .clkThrottle, .clkTherm, .shmResult, .shmFw], s'.reg n [] = s.reg n []
  keys : s'.cip.kekGen = s.cip.kekGen

/-- The registers that R518 keeps and that nothing in a warm reset writes. -/
def warmKept : List RegName :=
  [.idHbmRegion, .idMemwin, .tileTileCfg, .drvEngineOwn, .ledBase, .ledCommit, .ledStep, .ledDigestKeyLo, .ledDigestKeyHi, .farCfg, .farRound, .farNextEnd, .farSeg, .farArea, .farOuter,
   .farApplyCfg, .farStaleW, .farContrib, .farStatus, .denModule, .clkCap, .clkPower, .clkThrottle, .clkTherm, .clkCoolant, .clkTemp, .shmCmd, .shmArg, .shmStatus, .shmResult, .shmFw, .cipKeystore]

/-- A warm reset has begun (R517-R519, R521): the compute domain is empty and its stores read zero, HBM stays, READY is 0 and LAST_RESET and CAUSE say so; the registers of R518 stay, the ENABLE bits that it names read 0. -/
structure WarmResets (cause : Nat) (here : Bool) (s s' : State) : Prop where
  ready : s'.isReady = false
  last : s'.rf .clkStatus [] 44 4 = 2 ∧ s'.rf .clkStatus [] 40 4 = cause % 16
  runs : s'.isl.running = [⟨2, 0, cause, here⟩] ∧ s'.isl.asked = [] ∧ s'.isl.powered = s.isl.powered
  units : s'.tiles = [] ∧ s'.xfers = [] ∧ s'.hostReads = [] ∧ s'.ctxs = [] ∧ s'.cip.cache = [] ∧ s'.cip.ops = []
  hbm : ∀ k, k < 2 ^ 40 → s'.byte k = s.byte k
  stores : ∀ k, 0x200000000000 ≤ k → k < 0x280200000000 → s'.byte k = 0
  keeps : ∀ n ∈ warmKept, ∀ idx, regFind (regOff n idx) = some (n, idx) → s'.reg n idx = s.reg n idx
  paddock : s'.paddockOn = s.paddockOn ∧ ∀ q < 256, s'.flag .drvQueueCtrl [q] 30 = s.flag .drvQueueCtrl [q] 30
  enables : (∀ c, 4 ≤ c → c < 4096 → s'.chanOn c = false) ∧ (∀ q < 256, s'.queueOn q = false) ∧ s'.flag .drvFlashCtrl [] 63 = false ∧ ∀ n < 32, s'.portOn n = false
  time : s'.time = s.time
  keys : s'.cip.kek = s.cip.kek ∧ s'.cip.pkeys = s.cip.pkeys
  snap : s'.snap = none ∧ s'.flag .evtSnapCtrl [] 61 = false

/-- The commit wave has counted a vote of a tile of a die. -/
def VotesOn (d : Nat) (s : State) : Prop := s.waveOn = true ∧ s.wstate ≠ 0 ∧ ∃ t, t / 160 = d ∧ ∃ f ∈ (s.tile t).flights, isCounted f = true

/-- A last-gasp record of a cause is the newest, and is unread (R511). -/
def Gasped (cause : Nat) (s s' : State) : Prop :=
  s'.flag .shmStatus [] 60 = true ∧ s'.isl.gasps.length ≤ 16 ∧ ∃ g, s'.isl.gasps = (g :: s.isl.gasps).take 16 ∧ g.cause = cause ∧ g.time = s.time

/-- Power may be on: both supplies are valid, and nothing holds the compute domain off (R499, R534). -/
def MayPower (s : State) : Prop :=
  s.isl.mainOk = true ∧ s.isl.stbyOk = true ∧ s.isl.powered = false ∧ s.isl.heldOff = false ∧ s.isl.inhibited = false ∧ s.isl.overVolt = false ∧ s.isl.down = false

/-- The slot that the boot ROM tries first (R524): the one that is NEXT, slot A before slot B, or the only VALID one. -/
def FirstSlot (b : Nat) (s : State) : Prop :=
  (s.slotSt 0 = 2 ∧ b = 0) ∨ (s.slotSt 0 ≠ 2 ∧ s.slotSt 1 = 2 ∧ b = 1) ∨ (s.slotSt 0 ≠ 2 ∧ s.slotSt 1 ≠ 2 ∧ ((s.slotSt 0 = 1 ∧ s.slotSt 1 ≠ 1 ∧ b = 0) ∨ (s.slotSt 1 = 1 ∧ s.slotSt 0 ≠ 1 ∧ b = 1)))

/-- Power has come (R499): the start runs, with every PLL locked where J2's reference clock is good (R536), the timebase at 0 (R497), the ports' configuration spaces loaded
(R500), and in every controller and port the image of its type from the slot booted (R494). -/
def PowerCome (clk0 : Bool) (s' : State) : Prop :=
  s'.isl.powered = true ∧ s'.isl.starting = true ∧ s'.time = 0 ∧ s'.rf .clkStatus [] 48 8 = (if clk0 then 0xFF else 0) ∧
    (∀ c ∈ s'.isl.cfgs, c.loaded = true) ∧ (∀ u ∈ imageUnits, tblGet (fun _ => []) s'.isl.images u = s'.component (s'.rf .clkStatus [] 35 1) (imageType u)) ∧ s'.rf .clkStatus [] 44 4 = 1 ∧ s'.shepUp = true ∧ s'.cip.testing = [0, 1, 2, 3]

/-! ### Service datagrams -/

/-- A service request of an operation reaches the island, taken apart (R514, R525). -/
def SvcAsk (signed : Bool) (op : Nat) (d : List Byte) (r : SvcReq) (s : State) : Prop :=
  svcParse signed d = some r ∧ r.op = op ∧ s.svcUp op = true

/-- A signed request is accepted (R514): signed by the operator's key, with a nonce above every one accepted before. -/
def SvcGood (op : Nat) (d : List Byte) (r : SvcReq) (s : State) : Prop :=
  SvcAsk true op d r s ∧ s.isl.nonce < r.nonce ∧ ecdsaVerify s.isl.svcKey (sha384 r.text) r.sig = true

/-- One response has left (R507): its operation, its status and the rest of its body; what else has left are messages of vectors. -/
def Responded (op st : Nat) (body : List Nat) (s s' : State) : Prop :=
  ∃ (pre more : List Out) (l : List Byte), s'.out = s.out ++ pre ++ .service l :: more ∧ (∀ m ∈ pre ++ more, ∃ p v a d, m = .msix p v a d) ∧ l.length = 18 + body.length ∧ (l.getD 0 0).toNat = 0x10 ∧ (l.getD 1 0).toNat = (op + 0x80) % 256 ∧
    beVal (((l.map BitVec.toNat).drop 2).take 2) = (2 + body.length) % 65536 ∧ beVal (((l.map BitVec.toNat).drop 16).take 2) = st % 65536 ∧ (l.map BitVec.toNat).drop 18 = body.map (· % 256)

end Sys2Proof.Machine
end

