-- ==== Sys2Proof/WellFormed.lean ====
section
/-!
DEFINITION. Well-formedness: the Kalroko instructions that R117 lets a program hold, and the commands whose operands lie in the ranges
that the spec gives them.
-/
namespace Sys2Proof

/-- Whether an instruction body is one that an encoding spells and R117 permits. -/
def KBody.wf : KBody → Bool
  | .alu op _ _ _ c => aluOfCode (aluCode op) == some op && (op == .sel || c.val == 0)
  | .aluI op _ a _ => aluIOfCode (aluCode op) == some op && (op != .li || a.val == 0)
  | .cmp op _ a b => !op.onPreds || (a.val < 8 && b.val < 8)
  | .cmpI op _ _ _ => cmpOfCode true (cmpCode op) == some op
  | .mov m d s imm => movOk m d s imm
  | .mem op d _ _ => op != .lda || d.val < 16
  | .eng op a b c ctrl => engOfCode (engCode op).1 (engCode op).2 == some op && engOk op a b c ctrl.toNat
  | .br _ _ _ _ _ | .jr _ | .ret | .tset _ _ | .tadd _ _ | .tget _ _ | .nop | .halt _ | .fence _ | .event _ | .mode _
  | .setvl _ _ | .icinv | .icpf _ _ | .dld _ _ _ | .dst _ _ _ | .dset _ _ _ _ | .dget _ _ _ | .dadd _ _ _ => true

/-- Well-formed instructions. -/
def KInsn.wf (i : KInsn) : Bool := i.body.wf

/-- A register offset of the control window: a multiple of 8 below 64 MiB (R11, R468). -/
def offWf (off : Nat) : Bool := off % 8 == 0 && off < 2 ^ 26

/-- A module number has 14 bits (R345). -/
def moduleWf (m : Nat) : Bool := m < 2 ^ 14

/-- Bytes. -/
def bytesWf (l : List Nat) : Bool := l.all (· < 256)

/-- A tensor that crosses between memories. -/
def TensorData.wf (d : TensorData) : Bool := bytesWf d.scales

def RemoteReq.wf : RemoteReq → Bool
  | .put _ _ d => d.wf
  | .get _ _ => true

/-- A message of a reduction (R357, R363): ring and tag in their ranges, a payload of at most 4096 bytes. -/
def ChunkMsg.wf (m : ChunkMsg) : Bool := m.ring < 256 && m.tag < 2 ^ 16 && 0 < m.payload.length && m.payload.length ≤ 4096

def NetBody.wf : NetBody → Bool
  | .vote _ step cv _ _ => step < 2 ^ 48 && cv < 2 ^ 48
  | .prepare _ step _ | .ack _ step | .final _ step _ => step < 2 ^ 48
  | .barrierUp _ | .barrierDown _ => true
  | .flockDigest f m step _ _ => f < 2 ^ 16 && m < 16 && step < 2 ^ 48
  | .flockVerdict f step v src => f < 2 ^ 16 && step < 2 ^ 48 && v < 256 && src < 2 ^ 16
  | .cleared f m step => f < 2 ^ 16 && m < 16 && step < 2 ^ 48
  | .partialSum m | .resultChunk m => m.wf
  | .remote _ _ r => r.wf
  | .remoteAck _ => true
  | .remoteData _ d => d.wf
  | .shardRead da n => da < 2 ^ 48 && 0 < n
  | .shardData da b => da < 2 ^ 48 && 0 < b.length

def NetMsg.wf (m : NetMsg) : Bool := moduleWf m.src && moduleWf m.dst && m.body.wf

/-- A datagram's fields have the widths of their layers: 48-bit MAC addresses, 128-bit addresses, 16-bit ports (R408, R409). -/
def Datagram.wf (g : Datagram) : Bool :=
  g.mac < 2 ^ 48 && g.srcMac < 2 ^ 48 && g.tclass < 2 ^ 8 && g.flow < 2 ^ 20 && g.hops < 2 ^ 8 &&
  g.srcAddr < 2 ^ 128 && g.dstAddr < 2 ^ 128 && g.srcPort < 2 ^ 16 && g.dstPort < 2 ^ 16 && g.payload.length < 2 ^ 16

def MemReq.wf (off : Nat) : MemReq → Bool
  | .read n => 0 < n && off + n ≤ 2 ^ 40
  | .write b => 0 < b.length && off + b.length ≤ 2 ^ 40

/-- A service datagram fits in one UDP payload (R508). -/
def dgramWf (l : List Byte) : Bool := l.length < 2 ^ 16

/-- Whether a command's operands lie in the ranges that the spec gives them. -/
def Instr.wf : Instr → Bool
  | .registerWrite _ off _ _ => offWf off
  | .rcRegisterRead _ off _ => offWf off
  | .memoryWindowAccess _ off r => r.wf off
  | .compactionAutoStart bp => bp ≤ 10000
  | .compactionEnd left => left.freeBp ≤ 10000
  | .flockDigest f m step _ _ => f < 2 ^ 16 && m < 16 && step < 2 ^ 48
  | .flockVerdictReceived f step v src => f < 2 ^ 16 && step < 2 ^ 48 && v < 256 && src < 2 ^ 16
  | .cleared f x => f < 2 ^ 16 && x.member < 16 && x.step < 2 ^ 48
  | .linkUp _ _ peer port lanes => moduleWf peer && port < 32 && lanes < 2 ^ 64
  | .dawnOver _ n => 0 < n
  | .messageArrival _ m => m.wf
  | .remoteAccess src _ _ _ r => moduleWf src && r.wf
  | .linkTransferComplete _ d => d.wf
  | .partialArrival m => m.wf
  | .resultArrival m => m.wf
  | .barrierMessage src _ _ => moduleWf src
  | .vote src _ step cv _ _ => moduleWf src && step < 2 ^ 48 && cv < 2 ^ 48
  | .prepare _ step _ => step < 2 ^ 48
  | .ack src _ step => moduleWf src && step < 2 ^ 48
  | .final _ step _ => step < 2 ^ 48
  | .farQuota off _ _ => offWf off
  | .data _ g => g.wf
  | .ackFrame _ g => g.wf
  | .probe _ g => g.wf
  | .echo _ g => g.wf
  | .hello _ g => g.wf
  | .state _ g => g.wf
  | .saturatedClear off => offWf off
  | .powerInterval w => w < 2 ^ 16
  | .thermalInterval a b c d => a.length == 8 && b.length == 8 && c.length == 8 && d.length == 4
  | .thermalTrip _ _ t => t < 256
  | .islandOvertemp t => t < 256
  | .heartbeatCheck l => l.length == 8
  | .statusRead d => dgramWf d
  | .regRead d => dgramWf d
  | .serviceLastGaspRead d => dgramWf d
  | .serviceQuiesce d => dgramWf d
  | .servicePowerOff d => dgramWf d
  | .powerOn d => dgramWf d
  | .serviceReset d => dgramWf d
  | .zeroise d => dgramWf d
  | .serviceKekInstall d => dgramWf d
  | .fwBegin src d => src < 2 ^ 128 && dgramWf d
  | .fwData src d => src < 2 ^ 128 && dgramWf d
  | .fwCommit src d => src < 2 ^ 128 && dgramWf d
  | .setSvcKey d => dgramWf d
  | .smbusBlockRead c => c < 256
  | .linkReset p => p < 36
  | .tileCfgWrite _ _ _ | .paddockEnableWrite _ _ | .hbmRegionWrite _ _ _ | .tileStart _ | .tileStop _ 
  | .startPcWrite _ _ _ | .tokenWrite _ _ _ _ | .tileHalt _ | .tileStopComplete _ | .tileStall _ | .icacheLineFill _ 
  | .engineDispatch _ | .sqAdd _ | .sqSub _ | .sqAnd _ | .sqOr _ | .sqXor _ | .sqShl _ | .sqShr _ | .sqSra _ | .sqMul _ 
  | .sqMulhu _ | .sqMulhs _ | .sqMin _ | .sqMax _ | .sqMinu _ | .sqMaxu _ | .sqSel _ | .sqClz _ | .sqLi _ | .sqPopc _ 
  | .sqShori _ | .sqDivu _ | .sqRemu _ | .sqEq _ | .sqNe _ | .sqLt _ | .sqGe _ | .sqLtu _ | .sqGeu _ | .sqFlt _ | .sqFge _ 
  | .sqPand _ | .sqPor _ | .sqPxor _ | .sqPandn _ | .sqFnf _ | .sqTst _ | .sqB _ | .sqCall _ | .sqJr _ | .sqRet _ 
  | .sqTset _ | .sqTadd _ | .sqTget _ | .sqNop _ | .sqHalt _ | .sqFence _ | .sqEvent _ | .sqMode _ | .sqSetvl _ 
  | .sqIcinv _ | .sqIcpf _ | .icpfComplete _ | .sqMov _ | .sqLoad _ | .sqStore _ | .sqLda _ | .sqDld _ | .sqDst _ 
  | .sqDset _ | .sqDget _ | .sqDadd _ | .mxOpen _ | .mxPass _ | .mxPassr _ | .mxPassb _ | .passStreamStart _ 
  | .passComplete _ | .capture _ | .spillFold _ | .mxClose _ | .closeComplete _ | .mxDiscard _ | .discardComplete _ 
  | .heldGroupRead _ | .vxAdd _ | .vxSub _ | .vxMul _ | .vxMul3 _ | .vxFma _ | .vxFms _ | .vxFnma _ | .vxMas _ | .vxMax _ 
  | .vxMin _ | .vxAbs _ | .vxCvt _ | .vxRcp _ | .vxRsqrt _ | .vxGt _ | .vxSel _ | .vxFill _ | .vxRrow _ | .vxRcol _ 
  | .vxScan _ | .vxPerm _ | .vxShuf _ | .vxPack _ | .vxUnpack _ | .vxRescale _ | .vxDrain _ | .vxFtld _ | .vxFn _ 
  | .vxFnd _ | .vxDrop _ | .vxLengthForm _ | .vectorCompletion _ | .dvCopy _ | .dvGather _ | .dvScatter _ | .dvScadd _ 
  | .dvColdupd _ | .transferComplete _ | .queueDoorbell _ _ _ | .queueEntryStart _ | .queueCtrlWrite _ _ _ 
  | .engineOwnWrite _ _ _ | .flashEnable _ _ | .flashReady | .compactionStart _ _ | .normCheck _ _ | .ledgerInit _ _ 
  | .ledgerInitComplete | .runLossWrite _ _ | .runClear _ _ | .flockVerdict | .flockTimeout | .holdClear 
  | .flockEnableWrite _ _ | .portEnable _ _ _ | .retrain _ | .peerTraining _ | .flitRetransmit _ | .linkDown _ | .dawnAck 
  | .routeSwitch _ _ | .lkPut _ | .lkGet _ | .lkArm _ | .lkGo _ | .deadlineExpiry _ _ _ | .lkGoComplete _ | .lkBarrier _ 
  | .lkCommit _ | .waveEnable _ _ | .waveTimeout | .waveStuck | .waveResolve _ _ | .shardTransfer _ _ | .xferDone _ 
  | .roundendComplete | .applyComplete | .applyWaitRead _ | .farEnable _ _ | .channelEnable _ _ _ | .frameAdmit _ 
  | .frameSend _ | .retransmit _ _ | .ackDelay _ | .probeInt _ | .rateAdjust _ | .farDark _ | .admissionStart _ _ 
  | .lockAcquire _ _ _ | .lockRelease _ _ _ | .cipLockBreak _ | .encrypt _ _ _ | .decrypt _ _ _ | .keyload _ _ _ 
  | .pkeyload _ _ _ | .kekInstall _ _ _ | .privilegedResult _ | .keyZeroisation _ _ | .restart _ _ _ | .startUpTestsPass _ 
  | .cipEntropyFail _ _ | .reseed _ | .workRingDoorbell _ _ _ | .wrNop _ | .wrSliceStart _ | .wrSliceStop _ 
  | .wrSliceWait _ | .wrRegWrite _ | .wrRegWait _ | .ringDone _ _ | .ringResume _ | .eventRingEnable _ _ 
  | .eventRingHeadWrite _ _ | .holdoffEnd _ | .snapshot | .snapshotClear | .snapshotComplete | .powerUp _ _ | .ready 
  | .perst _ | .perstRelease _ | .pllLoss _ | .tamper | .quiesce | .powerOff | .coldReset | .lastGaspRead | .lastGaspClear 
  | .digestSweep | .mailboxDone | .fwHandoverDone | .fwHandoverFail | .svcArmChange _ | .warmReset | .dieReset _ 
  | .tileReset _ | .resetDone | .mainLoss | .mainValid | .stbyLoss | .overVoltage | .overVoltageRecovery | .inhibit 
  | .inhibitRelease | .plugInModuleChange _ _ | .stepCloseComplete | .shepherdFatalError | .farPortLinkChange _ _ => true

end Sys2Proof
end

