-- ==== Sys2Proof/Certificates/Slice0/Obligations.lean ====
section
/-!
DEFINITION. The statements for the provers: what the commands of the module do, by family, what they leave alone, and what every step keeps.
-/
section
open Sys2Proof Sys2Proof.Machine

/-! ### The block's step and its queue -/

/-- A step runs the command at the front of the queue on the state with the queue's rest (the block form); with no command waiting it moves the
timebase by one edge (the model's choice, log 11). -/
def Obligations.StepRunsFront : Prop :=
  (∀ (c : Instr) (s : State) (rest : List Instr), s.pending = c :: rest → step s = exec c { s with pending := rest }) ∧
    ∀ s : State, s.pending = [] → step s = .next { s with time := (s.time + 1) % 2 ^ 64 }

/-! ### Sequencer (chapter 4) -/

/-- The scalar register files (R118): s0 reads 0 and p0 reads 1 whatever is written, k0 reads 0, every other register reads back what was written, an a-register
its low 48 bits; no other register moves. A sequencer's read takes the register's value unless a deposit into it is pending. -/
def Obligations.RegisterFiles : Prop :=
  (∀ (x : Tile) (r q : Nat) (v : Word), (x.setSreg r v).sreg q = if q = r ∧ q ≠ 0 then v else x.sreg q) ∧
  (∀ (x : Tile), x.sreg 0 = 0 ∧ x.preg 0 = true ∧ x.token 0 = 0) ∧
  (∀ (x : Tile) (r q : Nat) (v : Bool), (x.setPreg r v).preg q = if q = r ∧ q ≠ 0 then v else x.preg q) ∧
  (∀ (x : Tile) (r q v : Nat), (x.setAreg r v).areg q = if q = r then BitVec.ofNat 48 v else x.areg q) ∧
  (∀ (x : Tile) (r q : Nat) (v : Desc), (x.setDreg r v).dreg q = if q = r then v else x.dreg q) ∧
  (∀ (x : Tile) (k j n : Nat), (x.setToken k n).token j = if j = k ∧ j ≠ 0 then n else x.token j) ∧
  (∀ (s : State) (t r q : Nat) (v : Word), ((s.writeS t r v).tile t).sreg q = if q = r ∧ q ≠ 0 then v else (s.tile t).sreg q) ∧
  (∀ (s : State) (t r : Nat), (∀ f ∈ (s.tile t).flights, f.sdst ≠ r) → (s.readS t r).1 = (s.tile t).sreg r) ∧
  ∀ (s : State) (t r : Nat) (f : Flight), r ≠ 0 → (s.tile t).flights = [f] → f.sdst = r → f.hasDep = true →
    ((s.readS t r).1 = (s.tile t).sreg r ∨ (s.readS t r).1 = f.dep)

/-- The arithmetic minors (R140, R141), both forms: the result of the table stands in DST, the tokens act, the next word follows, and nothing else of the tile or
the module moves but what fetching moves. -/
def Obligations.SequencerArithmetic : Prop :=
  ∀ (t : TileId) (s : State) (i : KInsn), SqGo t i s →
    (∀ op d a b c, i.body = .alu op d a b c → ∃ s', exec (aluCmd t op) s = .next s' ∧
      SqRetired t ((s.writeS t d.val (aluTable op (s.readS t a.val).1 ((s.readS t a.val).2.readS t b.val).1 ((s.tile t).preg c.val))).tile t)
        (waited (s.tile t) i) i.signal.val ((s.tile t).pc + 8) (fun _ => False) s s') ∧
    ∀ op d a imm, i.body = .aluI op d a imm → ∃ s', exec (aluCmd t op) s = .next s' ∧
      SqRetired t ((s.writeS t d.val (aluTable op (s.readS t a.val).1 (immTable op imm) false)).tile t)
        (waited (s.tile t) i) i.signal.val ((s.tile t).pc + 8) (fun _ => False) s s'

/-- The comparison minors and the predicate logic (R143, R144), both forms: the condition of the table stands in the destination predicate. -/
def Obligations.SequencerComparison : Prop :=
  ∀ (t : TileId) (s : State) (i : KInsn), SqGo t i s →
    (∀ op d a b, i.body = .cmp op d a b → op.onPreds = false → ∃ s', exec (cmpCmd t op) s = .next s' ∧
      SqRetired t ((s.tile t).setPreg d.val (cmpTable op (s.readS t a.val).1 ((s.readS t a.val).2.readS t b.val).1))
        (waited (s.tile t) i) i.signal.val ((s.tile t).pc + 8) (fun _ => False) s s') ∧
    (∀ op d a b, i.body = .cmp op d a b → op.onPreds = true → ∃ s', exec (cmpCmd t op) s = .next s' ∧
      SqRetired t ((s.tile t).setPreg d.val (predTable op ((s.tile t).preg a.val) ((s.tile t).preg b.val)))
        (waited (s.tile t) i) i.signal.val ((s.tile t).pc + 8) (fun _ => False) s s') ∧
    ∀ op d a imm, i.body = .cmpI op d a imm → ∃ s', exec (cmpCmd t op) s = .next s' ∧
      SqRetired t ((s.tile t).setPreg d.val (cmpTable op (s.readS t a.val).1 (BitVec.ofInt 64 imm.toInt)))
        (waited (s.tile t) i) i.signal.val ((s.tile t).pc + 8) (fun _ => False) s s'

/-- The branches (R145, R146): taken when the condition holds, to the branch's address plus 8 × OFFSET modulo 2^48; call also writes the
address after it into a15; jr and ret go to the word that holds the register's address. Each target lies in the HBM window. -/
def Obligations.SequencerBranches : Prop :=
  ∀ (t : TileId) (s : State) (i : KInsn), SqGo t i s →
    (∀ link c r p off, i.body = .br link c r p off →
      let v := if condOnReg c then (s.readS t r.val).1 else 0
      let target := (((s.tile t).pc : Int) + 8 * off.toInt) % 2 ^ 48
      (condTable c v ((s.tile t).preg p.val) = true → target.toNat < 2 ^ 40 → ∃ s', exec (if link then .sqCall t else .sqB t) s = .next s' ∧
        SqRetired t (if link then (s.tile t).setAreg 15 ((s.tile t).pc + 8) else s.tile t)
          (waited (s.tile t) i) i.signal.val target.toNat (fun _ => False) s s') ∧
      (condTable c v ((s.tile t).preg p.val) = false → ∃ s', exec (if link then .sqCall t else .sqB t) s = .next s' ∧
        SqRetired t (s.tile t) (waited (s.tile t) i) i.signal.val ((s.tile t).pc + 8) (fun _ => False) s s')) ∧
    (∀ a, i.body = .jr a → ((s.tile t).areg a.val).toNat < 2 ^ 40 → ∃ s', exec (.sqJr t) s = .next s' ∧
      SqRetired t (s.tile t) (waited (s.tile t) i) i.signal.val (((s.tile t).areg a.val).toNat / 8 * 8) (fun _ => False) s s') ∧
    (i.body = .ret → ((s.tile t).areg 15).toNat < 2 ^ 40 → ∃ s', exec (.sqRet t) s = .next s' ∧
      SqRetired t (s.tile t) (waited (s.tile t) i) i.signal.val (((s.tile t).areg 15).toNat / 8 * 8) (fun _ => False) s s')

/-- tset, tadd and tget (R148, R149): the set comes before the instruction's own signal, the addition stops at 255, a token k0 is not written, and the
count read is zero-extended. -/
def Obligations.SequencerTokens : Prop :=
  ∀ (t : TileId) (s : State) (i : KInsn), SqGo t i s →
    (∀ k n, i.body = .tset k n → ∃ s', exec (.sqTset t) s = .next s' ∧
      SqRetired t (s.tile t) (fun j => if j = k.val then n.val else waited (s.tile t) i j) i.signal.val ((s.tile t).pc + 8) (fun _ => False) s s') ∧
    (∀ k n, i.body = .tadd k n → ∃ s', exec (.sqTadd t) s = .next s' ∧
      SqRetired t (s.tile t) (fun j => if j = k.val then min 255 (waited (s.tile t) i j + n.val) else waited (s.tile t) i j) i.signal.val
        ((s.tile t).pc + 8) (fun _ => False) s s') ∧
    ∀ d k, i.body = .tget d k → ∃ s', exec (.sqTget t) s = .next s' ∧
      SqRetired t ((s.writeS t d.val (BitVec.ofNat 64 (waited (s.tile t) i k.val))).tile t)
        (waited (s.tile t) i) i.signal.val ((s.tile t).pc + 8) (fun _ => False) s s'

/-- The system minors (R150, R161): halt stops fetching and takes HALT_CODE; fence goes when the named queues have completed; event raises PROGRAM with the register's
low half; mode goes when the vector queue has completed; setvl; icinv; icpf holds its lines and signals when they have come, at once for none. -/
def Obligations.SequencerSystem : Prop :=
  ∀ (t : TileId) (s : State) (i : KInsn), SqGo t i s →
    (i.body = .nop → ∃ s', exec (.sqNop t) s = .next s' ∧
      SqRetired t (s.tile t) (waited (s.tile t) i) i.signal.val ((s.tile t).pc + 8) (fun _ => False) s s') ∧
    (∀ a, i.body = .halt a → ∃ s', exec (.sqHalt t) s = .next s' ∧ (s'.tile t).seq = .draining ∧ (s'.tile t).cause = .halt ∧
      (s'.tile t).haltCode = (s.readS t a.val).1.toNat % 2 ^ 32 ∧ (s'.tile t).icReq = [] ∧ (s'.tile t).pc = (s.tile t).pc + 8 ∧
      (∀ k, (s'.tile t).token k = if k = 0 then 0 else if k = i.signal.val then min 255 (waited (s.tile t) i k + 1) else waited (s.tile t) i k) ∧
      (s'.tile t).s = (s.tile t).s ∧ (s'.tile t).a = (s.tile t).a ∧ (s'.tile t).p = (s.tile t).p ∧ (s'.tile t).d = (s.tile t).d ∧
      TileOnly t (fun _ => False) [] [] s s') ∧
    (∀ m, i.body = .fence m →
      (m.val.testBit 0 = true → (s.tile t).queueBusy .mx = false) → (m.val.testBit 1 = true → (s.tile t).queueBusy .vx = false) →
      (m.val.testBit 2 = true → (s.tile t).queueBusy .dv = false) → (m.val.testBit 3 = true → (s.tile t).queueBusy .lk = false) →
      ∃ s', exec (.sqFence t) s = .next s' ∧
        SqRetired t (s.tile t) (waited (s.tile t) i) i.signal.val ((s.tile t).pc + 8) (fun _ => False) s s') ∧
    (∀ a, i.body = .event a → ∃ s', exec (.sqEvent t) s = .next s' ∧
      SqRetired t (s.tile t) (waited (s.tile t) i) i.signal.val ((s.tile t).pc + 8) (fun _ => False) s s' ∧
      (i.signal.val = 0 → (s.tile t).cached (((s.tile t).pc + 8) / 256) = true →
        s'.ev = (s.raise 0x0106 0 1 (s.logical t) ((s.readS t a.val).1.toNat % 2 ^ 32) 0).ev)) ∧
    (∀ m, i.body = .mode m → (s.tile t).queueBusy .vx = false → ∃ s', exec (.sqMode t) s = .next s' ∧
      SqRetired t { s.tile t with mode := m } (waited (s.tile t) i) i.signal.val ((s.tile t).pc + 8) (fun _ => False) s s') ∧
    (∀ d a, i.body = .setvl d a → ∃ s', exec (.sqSetvl t) s = .next s' ∧
      SqRetired t { (s.writeS t d.val (BitVec.ofNat 64 (min (s.readS t a.val).1.toNat 4096))).tile t with vl := min (s.readS t a.val).1.toNat 4096 }
        (waited (s.tile t) i) i.signal.val ((s.tile t).pc + 8) (fun _ => False) s s') ∧
    (i.body = .icinv → ∃ s', exec (.sqIcinv t) s = .next s' ∧
      SqRetired t { s.tile t with icGen := s.gen } (waited (s.tile t) i) i.signal.val ((s.tile t).pc + 8) (fun _ => False) s s' ∧
      (s'.tile t).icache = []) ∧
    (∀ a n, i.body = .icpf a n → (s.readS t n.val).1.toNat = 0 → ∃ s', exec (.sqIcpf t) s = .next s' ∧
      SqRetired t (s.tile t) (waited (s.tile t) i) i.signal.val ((s.tile t).pc + 8) (fun _ => False) s s') ∧
    (∀ a n, i.body = .icpf a n → (s.readS t n.val).1.toNat ≠ 0 → ∃ s', exec (.sqIcpf t) s = .next s' ∧
      SqRetired t { s.tile t with flights := (s.tile t).flights ++ [⟨.sq, i.signal.val, 0, 0, false, false,
          .icpf ((List.range (min (s.readS t n.val).1.toNat 256)).map (fun j => (((s.tile t).areg a.val).toNat / 256 + j) % 2 ^ 40)), Stake.none⟩] }
        (waited (s.tile t) i) 0 ((s.tile t).pc + 8) (fun _ => False) s s')

/-- The lines of a tile's oldest icpf arrive (R150), whatever memory each lies in: every line that does not fault is in the cache with the bytes it has in memory, unless four
later lines of its set have displaced it (R165); every line that faults is not filled and raises ADDR_FAULT, the first of them recorded (R55); the instruction is complete and
its token has risen. A line of the control range would be read other than in aligned words (UB-03). Under an emergency quiesce and on a die without an engine of
the tile's class nothing happens (R266). Which lines outside HBM are filled is the model's choice (DESIGN CHOICE, log 51, R53/R150), and that a line of the control range is UB-03 its reading (log 25). -/
def Obligations.IcpfCompletes : Prop :=
  (∀ (t : TileId) (s : State), s.gated t = true ∨ s.fillEngine t = none → exec (.icpfComplete t) s = .next s) ∧
  ∀ (t : TileId) (s : State) (pre fs : List Flight) (f : Flight) (ls : List Nat), s.gated t = false → s.fillEngine t ≠ none →
    (s.tile t).flights = pre ++ f :: fs → (∀ g ∈ pre, ∀ l, g.work ≠ .icpf l) → f.work = .icpf ls → f.sdst = 0 → (∀ l ∈ ls, s.lineHeld t l = false) →
    ((∃ l ∈ ls, ∃ o, s.locate (.tile t) false (256 * l) = .ctl o) → exec (.icpfComplete t) s = .fault (.undefined (.ub 3))) ∧
    ((∀ l ∈ ls, ∀ o, s.locate (.tile t) false (256 * l) ≠ .ctl o) → ((s.tile t).seq = .running → (s.tile t).pc < 2 ^ 40) →
      ∃ s', exec (.icpfComplete t) s = .next s' ∧ (s'.tile t).flights = pre ++ fs ∧
        (∀ k, (s'.tile t).token k = if k = 0 then 0 else if k = f.signal then min 255 ((s.tile t).token k + 1) else (s.tile t).token k) ∧
        (∀ a l b, ls = a ++ l :: b → (∀ k, s.locate (.tile t) false (256 * l) ≠ .fault k) →
          (b.filter (fun q => q ≠ l ∧ icSet q = icSet l)).dedup.length < 4 →
          (s'.tile t).cached l = true ∧ (s'.tile t).lineBytes l = s.peeks (.tile t) (256 * l) 256) ∧
        (∀ l ∈ ls, ∀ k, s.locate (.tile t) false (256 * l) = .fault k → s'.flag .idAddrFault [] 63 = true ∧
          ((s.tile t).cached l = false → (s'.tile t).cached l = false)) ∧
        (∀ a l b k, ls = a ++ l :: b → s.locate (.tile t) false (256 * l) = .fault k → (∀ q ∈ a, ∀ j, s.locate (.tile t) false (256 * q) ≠ .fault j) →
          s.flag .idAddrFault [] 63 = false → s'.rf .idAddrFault [] 0 48 = min (256 * l) (2 ^ 48 - 1) ∧ s'.rf .idAddrFault [] 56 2 = k % 4) ∧
        TileOnly t (fun _ => False) [regOff .idAddrFault []] [] s s')

/-- The permitted moves (R152), with the system registers of R120; CYCLE never falls (how far it has risen since its last read is free, log 12). -/
def Obligations.SequencerMoves : Prop :=
  ∀ (t : TileId) (s : State) (i : KInsn) (m : MovPair) (d r : Fin 32) (imm : BitVec 16), SqGo t i s → i.body = .mov m d r imm →
    ∃ s', exec (.sqMov t) s = .next s' ∧
      SqRetired t
        (match m with
          | .ss => (s.writeS t d.val (BitVec.ofInt 64 ((s.readS t r.val).1.toInt + imm.toInt))).tile t
          | .sa => (s.writeS t d.val (BitVec.ofInt 64 (((s.tile t).areg r.val).toNat + imm.toInt))).tile t
          | .as => (s.tile t).setAreg d.val (BitVec.ofInt 64 ((s.readS t r.val).1.toInt + imm.toInt)).toNat
          | .aa => (s.tile t).setAreg d.val ((((s.tile t).areg r.val).toNat + imm.toInt) % 2 ^ 48).toNat
          | .sp => (s.writeS t d.val (if (s.tile t).preg r.val then 1 else 0)).tile t
          | .ps => (s.tile t).setPreg d.val ((s.readS t r.val).1.toNat % 2 == 1)
          | .pp => (s.tile t).setPreg d.val ((s.tile t).preg r.val)
          | .ssys => ((s.sysReg t r.val).2.writeS t d.val (s.sysReg t r.val).1).tile t
          | .dd => (s.tile t).setDreg d.val ((s.tile t).dreg r.val))
        (waited (s.tile t) i) i.signal.val ((s.tile t).pc + 8) (fun _ => False) s s' ∧
      ((s.tile t).cycle < 2 ^ 64 → (s.tile t).cycle ≤ (s'.tile t).cycle ∧ (s'.tile t).cycle < 2 ^ 64)

/-- Scalar loads, stores and lda (R153, R154): the address is a(SRCA) + sext(IMM) modulo 2^48; an access in the tile's own tile store and aligned to its size
completes, little-endian, a store changing its own bytes alone; every other access is undefined (UB-17). A store that meets a group in use, a spill slot, an armed reduction's record or a record in use
is undefined (UB-06, UB-23, UB-47, UB-13). Of a 16-byte line that an unordered access in flight has written a load sees the old or the new one, and a store leaves one whole line (R68). -/
def Obligations.SequencerMemory : Prop :=
  ∀ (t : TileId) (s : State) (i : KInsn) (op : MemOp) (d : Fin 32) (a : Fin 16) (imm : BitVec 28), SqGo t i s → i.body = .mem op d a imm →
    let da := ((((s.tile t).areg a.val).toNat + imm.toInt) % 2 ^ 48).toNat
    let n := (memWidth op).1
    (da % n = 0 → inTileStore t da n = true →
      let v := (s.readS t d.val).1.toNat % 256 ^ n
      let w := (s.scalarLoad t da n).1
      (memStores op = true → s.storeBreach (scalarAddrs da n) = none → ∃ s', exec (memCmd t op) s = .next s' ∧
        SqRetired t (s.tile t) (waited (s.tile t) i) i.signal.val ((s.tile t).pc + 8) (fun k => k / 16 = da / 16) s s' ∧
        (Alone s (.sq t) (scalarAddrs da n) → s'.le da n = v ∧ ∀ k, deviceKey k → ¬ (da ≤ k ∧ k < da + n) → s'.byte k = s.byte k) ∧
        ∀ u ∈ racedUnits (s.stakesBut (.sq t)) (scalarAddrs da n), u.1 = da / 16 * 16 ∧
          ((∀ j < 16, s'.byte (u.1 + j) = s.byte (u.1 + j)) ∨
            ∀ j < 16, s'.byte (u.1 + j) = if da ≤ u.1 + j ∧ u.1 + j < da + n then v / 256 ^ (u.1 + j - da) % 256 else u.2.getD j 0 % 256)) ∧
      (memStores op = true → ∀ u, s.storeBreach (scalarAddrs da n) = some u → exec (memCmd t op) s = .fault (.undefined u)) ∧
      (Alone s (.sq t) (scalarAddrs da n) → w = s.le da n) ∧
      (∀ u b, racedUnits (s.stakesBut (.sq t)) (scalarAddrs da n) = [(u, b)] → w = s.le da n ∨ w = (s.setBytes u b).le da n) ∧
      (op = .lda → ∃ s', exec (memCmd t op) s = .next s' ∧
        SqRetired t ((s.tile t).setAreg d.val w) (waited (s.tile t) i) i.signal.val ((s.tile t).pc + 8) (fun _ => False) s s') ∧
      (memStores op = false → op ≠ .lda → ∃ s', exec (memCmd t op) s = .next s' ∧
        SqRetired t ((s.writeS t d.val (if (memWidth op).2 = true ∧ 2 ^ (8 * n - 1) ≤ w then BitVec.ofInt 64 ((w : Int) - 2 ^ (8 * n))
            else BitVec.ofNat 64 w)).tile t)
          (waited (s.tile t) i) i.signal.val ((s.tile t).pc + 8) (fun _ => False) s s')) ∧
    (da % n ≠ 0 ∨ inTileStore t da n = false → exec (memCmd t op) s = .fault (.undefined (.ub 17)))

/-- Descriptor registers (R157-R160): dld and dst move 32 bytes at a(SRC) + 32 × sext(IMM16) in the tile's own store, aligned to 32 (UB-17 elsewhere); dset replaces
one field by the truncated sum, dget reads one, STRIDE1 to STRIDE3 by sign, dadd moves BASE modulo 2^48. -/
def Obligations.SequencerDescriptors : Prop :=
  ∀ (t : TileId) (s : State) (i : KInsn), SqGo t i s →
    (∀ d a imm, i.body = .dld d a imm → let da := ((((s.tile t).areg a.val).toNat + 32 * imm.toInt) % 2 ^ 48).toNat
      (da % 32 = 0 → inTileStore t da 32 = true → ∃ s', exec (.sqDld t) s = .next s' ∧
        SqRetired t ((s.tile t).setDreg d.val (BitVec.ofNat 256 (s.scalarLoad t da 32).1)) (waited (s.tile t) i) i.signal.val ((s.tile t).pc + 8) (fun _ => False) s s' ∧
        (Alone s (.sq t) (scalarAddrs da 32) → (s.scalarLoad t da 32).1 = s.le da 32)) ∧
      (da % 32 ≠ 0 ∨ inTileStore t da 32 = false → exec (.sqDld t) s = .fault (.undefined (.ub 17)))) ∧
    (∀ d a imm, i.body = .dst d a imm → let da := ((((s.tile t).areg a.val).toNat + 32 * imm.toInt) % 2 ^ 48).toNat
      (da % 32 = 0 → inTileStore t da 32 = true → s.storeBreach (scalarAddrs da 32) = none → ∃ s', exec (.sqDst t) s = .next s' ∧
        SqRetired t (s.tile t) (waited (s.tile t) i) i.signal.val ((s.tile t).pc + 8) (fun k => da ≤ k ∧ k < da + 32) s s' ∧
        (Alone s (.sq t) (scalarAddrs da 32) → s'.le da 32 = ((s.tile t).dreg d.val).toNat)) ∧
      (da % 32 = 0 → inTileStore t da 32 = true → ∀ u, s.storeBreach (scalarAddrs da 32) = some u → exec (.sqDst t) s = .fault (.undefined u)) ∧
      (da % 32 ≠ 0 ∨ inTileStore t da 32 = false → exec (.sqDst t) s = .fault (.undefined (.ub 17)))) ∧
    (∀ d r f imm, i.body = .dset d r f imm → ∃ s', exec (.sqDset t) s = .next s' ∧
      let old := (s.tile t).dreg d.val
      let v := (((s.readS t r.val).1.toInt + imm.toInt) % 2 ^ (descField f.val).2).toNat
      SqRetired t ((s.tile t).setDreg d.val (BitVec.ofNat 256
          (old.toNat - fld old.toNat (descField f.val).1 (descField f.val).2 * 2 ^ (descField f.val).1 + v * 2 ^ (descField f.val).1)))
        (waited (s.tile t) i) i.signal.val ((s.tile t).pc + 8) (fun _ => False) s s') ∧
    (∀ r d f, i.body = .dget r d f → ∃ s', exec (.sqDget t) s = .next s' ∧
      let v := fld ((s.tile t).dreg d.val).toNat (descField f.val).1 (descField f.val).2
      SqRetired t ((s.writeS t r.val (if 11 ≤ f.val ∧ 2 ^ 31 ≤ v then BitVec.ofInt 64 ((v : Int) - 2 ^ 32) else BitVec.ofNat 64 v)).tile t)
        (waited (s.tile t) i) i.signal.val ((s.tile t).pc + 8) (fun _ => False) s s') ∧
    (∀ d r imm, i.body = .dadd d r imm → ∃ s', exec (.sqDadd t) s = .next s' ∧
      let old := (s.tile t).dreg d.val
      let b := ((fld old.toNat 0 48 : Int) + (s.readS t r.val).1.toInt + imm.toInt) % 2 ^ 48
      SqRetired t ((s.tile t).setDreg d.val (BitVec.ofNat 256 (old.toNat - fld old.toNat 0 48 + b.toNat)))
        (waited (s.tile t) i) i.signal.val ((s.tile t).pc + 8) (fun _ => False) s s')

/-- An engine instruction goes to the end of its queue with copies of what it names (R124-R126): OPA, OPB and OPC with the registers after them, MODE and VL;
its tokens wait for its issue. A length-form instruction in descriptor mode is undefined (R162, UB-16);
that one whose predicate is 0 is not is the model's choice (DESIGN CHOICE, log 51). -/
def Obligations.EngineDispatch : Prop :=
  ∀ (t : TileId) (s : State) (i : KInsn) (op : EngOp) (a b c : Fin 32) (ctrl : BitVec 23), s.fetch t = .insn i → i.body = .eng op a b c ctrl →
    ((s.tile t).queue (engQueue op)).length < 16 → (s.tile t).pc + 8 < 2 ^ 40 →
    let x := s.tile t
    let p := x.preg i.pred.val
    ((∀ o, op ≠ .vxl o) ∨ x.mode = true ∨ p = false → ∃ s' e, exec (.engineDispatch t) s = .next s' ∧
      (s'.tile t).queue (engQueue op) = x.queue (engQueue op) ++ [e] ∧
      (∀ q, q ≠ engQueue op → (s'.tile t).queue q = x.queue q) ∧
      e.op = op ∧ e.pred = p ∧ e.wait = i.wait.val ∧ e.signal = i.signal.val ∧ e.opa = a.val ∧ e.opb = b.val ∧ e.opc = c.val ∧
      e.ctrl = ctrl.toNat ∧ e.dA = x.dreg a.val ∧ e.dB = x.dreg b.val ∧ e.dC = x.dreg c.val ∧ e.eA = x.dreg ((a.val + 1) % 32) ∧
      e.eB = x.dreg ((b.val + 1) % 32) ∧ e.eC = x.dreg ((c.val + 1) % 32) ∧ e.mode = x.mode ∧ e.vl = x.vl ∧
      (engReadsS op = true → p = true → e.sv = (s.readS t (ctrlOpd ctrl.toNat)).1) ∧
      (s'.tile t).pc = x.pc + 8 ∧ (∀ k, (s'.tile t).token k = x.token k) ∧ (s'.tile t).s = x.s ∧ (s'.tile t).a = x.a ∧ (s'.tile t).p = x.p ∧
      (s'.tile t).d = x.d ∧ (s'.tile t).flights = x.flights ∧ TileOnly t (fun _ => False) [regOff .idAddrFault []] [] s s') ∧
    ((∃ o, op = .vxl o) → x.mode = false → p = true → exec (.engineDispatch t) s = .fault (.undefined (.ub 16)))

/-- An instruction whose predicate reads 0 acts only through its tokens (R113): the wait takes one, the signal rises at once, the next word
follows. An engine instruction whose predicate was 0 at dispatch leaves the head of its queue in the same way once its token is there (R126, R127); while the token is not there it stays (R130). -/
def Obligations.PredicateOff : Prop :=
  (∀ (t : TileId) (s : State) (e : QEntry), ((s.tile t).queue (engQueue e.op)).head? = some e → (s.tile t).seq ≠ .stopped → s.gated t = false →
    (s.tile t).unitFree (engQueue e.op) = true → (engQueue e.op = .lk → Unsent s) →
    ((s.tile t).tokenReady e.wait = false → exec (engCmd t e.op) s = .next s) ∧
    ((s.tile t).tokenReady e.wait = true → s.outranked t (engQueue e.op) e.wait = false → e.pred = false → ∃ s', exec (engCmd t e.op) s = .next s' ∧
      (s'.tile t).queue (engQueue e.op) = ((s.tile t).queue (engQueue e.op)).tail ∧ (∀ q, q ≠ engQueue e.op → (s'.tile t).queue q = (s.tile t).queue q) ∧
      (∀ k, (s'.tile t).token k = if k = 0 then 0 else
        let n := if k = e.wait then (s.tile t).token k - 1 else (s.tile t).token k
        if k = e.signal then min 255 (n + 1) else n) ∧
      (s'.tile t).flights = (s.tile t).flights ∧ (s'.tile t).s = (s.tile t).s ∧ (s'.tile t).a = (s.tile t).a ∧ (s'.tile t).p = (s.tile t).p ∧ (s'.tile t).d = (s.tile t).d ∧
      (s'.tile t).pc = (s.tile t).pc ∧ (∀ g, (s'.tile t).group g = (s.tile t).group g) ∧ TileOnly t (fun _ => False) [] [] s s')) ∧
  ∀ (t : TileId) (s : State) (i : KInsn), s.fetch t = .insn i → (s.tile t).tokenReady i.wait.val = true → (s.tile t).preg i.pred.val = false →
    (s.tile t).pc + 8 < 2 ^ 40 → (∀ op a b c ctrl, i.body ≠ .eng op a b c ctrl) →
    ∃ s', exec (sqCmd t i.body) s = .next s' ∧
      SqRetired t (s.tile t) (waited (s.tile t) i) i.signal.val ((s.tile t).pc + 8) (fun _ => False) s s'

/-- Where a sequencer's row does nothing or stops: a token that is not there holds the instruction (R130); while the tile does not run, or an emergency quiesce
gates it, nothing happens; a word that is no instruction is undefined (R117, UB-15), a line written since the last icinv too (R170, UB-18). -/
def Obligations.SequencerHolds : Prop :=
  ∀ (t : TileId) (s : State) (b : KBody),
    (∀ i, s.fetch t = .insn i → i.body = b → (s.tile t).tokenReady i.wait.val = false → (∀ op x y z c, b ≠ .eng op x y z c) → exec (sqCmd t b) s = .next s) ∧
    ((s.tile t).seq ≠ .running ∨ s.gated t = true → exec (sqCmd t b) s = .next s) ∧
    ((s.tile t).seq = .running → s.gated t = false → (s.tile t).cached ((s.tile t).pc / 256) = true →
      (s.lineWritten ((s.tile t).pc / 256) (s.tile t).icGen = true → exec (sqCmd t b) s = .fault (.undefined (.ub 18))) ∧
      (s.lineWritten ((s.tile t).pc / 256) (s.tile t).icGen = false → kDecode (BitVec.ofNat 64 (leVal ((((s.tile t).lineBytes ((s.tile t).pc / 256)).drop ((s.tile t).pc % 256)).take 8))) = none →
        exec (sqCmd t b) s = .fault (.undefined (.ub 15))))

/-- Whenever a sequencer row or a dispatch answers a next state, only its tile, the event unit, ID.ADDR_FAULT and, for a store, bytes of the tile's own tile
store may have moved. -/
def Obligations.SequencerFrame : Prop :=
  ∀ (t : TileId) (s s' : State) (b : KBody), exec (sqCmd t b) s = .next s' →
    TileOnly t (fun k => tileBase t ≤ k ∧ k < tileBase t + 0x400000 ∧
      ((∃ o d a imm, b = .mem o d a imm ∧ memStores o = true) ∨ ∃ d a imm, b = .dst d a imm)) [regOff .idAddrFault []] [] s s'

/-- Kalroko instructions survive their encoding (R112, R117): every well-formed instruction, with every operand at every value, decodes from its word
to itself. -/
def Obligations.KalrokoEncoding : Prop := ∀ i : KInsn, i.wf = true → kDecode (kEncode i) = some i

/-- Words written out from the encoding tables of chapter 4 (R112, R124, R140-R160), one per major, decode to the instructions that they stand for; the first is
the worked example that follows R142. -/
def Obligations.KalrokoWords : Prop :=
  kDecode 0x040801C840000001 = some ⟨2, 0, 7, .aluI .add 4 4 1⟩ ∧
  kDecode 0x01E0000621880000 = some ⟨0, 0, 0, .alu .sel 3 2 3 2⟩ ∧
  kDecode 0x0280000221800000 = none ∧
  kDecode 0x0840300463800000 = some ⟨0, 3, 0, .cmp .lt 2 6 7⟩ ∧
  kDecode 0x0900000281000000 = none ∧
  kDecode 0x1000400A13FFFFFE = some ⟨0, 4, 0, .br false .nz 5 0 (-2)⟩ ∧
  kDecode 0x1400000002400004 = some ⟨0, 0, 0, .tset 9 4⟩ ∧
  kDecode 0x1840050800000000 = some ⟨0, 0, 20, .fence 4⟩ ∧
  kDecode 0x1C00000888800040 = some ⟨0, 0, 0, .mov .aa 2 2 64⟩ ∧
  kDecode 0x2040000E30000040 = some ⟨0, 0, 0, .mem .ld32u 7 3 64⟩ ∧
  kDecode 0x2400001908800001 = some ⟨0, 0, 0, .dld 4 2 1⟩ ∧
  kDecode 0x4020000000100500 = some ⟨0, 0, 0, .eng (.mx .close) 0 0 0 0x100500⟩

/-- A host write of a control register (R8, R12-R15, R500): reserved bits written 1 and accesses of another size are undefined (UB-01, UB-02), a write before READY outside CLK, SHM and
EVT is ignored, an offset that no block defines ignores writes (R469); the merge keeps the bits that the access does not cover and the RO bits, clears the W1C bits written 1; a plain
register takes the merge and nothing else moves. A register that may not change while what it sets is at work takes the merge too, and stops as undefined where its rule forbids the write: host buffers (R286), ring bases (R282, R476, R483),
digest slots and keys (R280, R334), LED.BASE, LED.COMMIT and LED.STEP (R303, R306, R313, R316), the rounds, segments and area of the far exchange (R395, R396), STALE_W (R404). -/
def Obligations.RegisterWrites : Prop :=
  (∀ (port : Fin 2) (off : Nat) (v : Word) (s : State), s.hostUp port = true → exec (.registerWrite port off .other v) s = .fault (.undefined (.ub 2))) ∧
  (∀ (port : Fin 2) (off : Nat) (acc : Acc) (v : Word) (s : State), s.hostUp port = true → acc ≠ .other → regFind off = none →
    exec (.registerWrite port off acc v) s = .next s) ∧
  (∀ (port : Fin 2) (off : Nat) (acc : Acc) (v : Word) (s : State) n idx, s.hostUp port = true → acc ≠ .other → regFind off = some (n, idx) →
    (s.isReady = false → earlyBlock off = false → exec (.registerWrite port off acc v) s = .next s) ∧
    (s.isReady = true → accBits acc v.toNat &&& (regRow n).rsv ≠ 0 → exec (.registerWrite port off acc v) s = .fault (.undefined (.ub 1)))) ∧
  (∀ (port : Fin 2) (off : Nat) (acc : Acc) (v : Word) (s : State), s.hostUp port = false → exec (.registerWrite port off acc v) s = .next s) ∧
  (∀ n acc old v b, b < 64 → old < 2 ^ 64 → (ctlMerge n acc old v).testBit b = writtenBit n acc old v b) ∧
  (∀ (port : Fin 2) (acc : Acc) (v : Word) (s : State) n idx,
    n ∈ [RegName.idMemwin, .idAddrFault, .evtModerate, .evtEnable, .evtRoute, .shmStatus, .denModule, .denArb, .denRouteCtrl, .denStatus, .denRing, .denPortStatus, .farTimers, .farJob, .farOuter, .farApplyCfg,
        .farPortCfg, .farPortAddrHi, .farPortAddrLo, .farPortMac, .farChanRate, .ledNormTh, .ledFlockSlots, .drvDigestOrigin, .drvHostFault, .tileWatchdog] →
    regFind (regOff n idx) = some (n, idx) → HostOpen port n idx acc v.toNat s →
    exec (.registerWrite port (regOff n idx) acc v) s = .next (s.setReg n idx (ctlMerge n acc (s.reg n idx) v.toNat))) ∧
  (∀ (port : Fin 2) (acc : Acc) (v : Word) (s : State) n idx, regFind (regOff n idx) = some (n, idx) → HostOpen port n idx acc v.toNat s →
    let w := s.setReg n idx (ctlMerge n acc (s.reg n idx) v.toNat)
    let i := idx.headD 0
    let changes : Prop := w.reg n idx ≠ s.reg n idx
    let out := exec (.registerWrite port (regOff n idx) acc v) s
    (n ∈ [RegName.drvHostBufBase, .drvHostBufSize] → idx = [i] → out = if s.hostBufUsed i then .fault (.undefined (.ub 38)) else .next w) ∧
    (n = .drvQueueBase → idx = [i] → (changes ∧ (s.queueOn i = true ∨ s.queueHead i ≠ s.queueTail i) → out = .fault (.undefined (.ub 36))) ∧
      (¬ (changes ∧ (s.queueOn i = true ∨ s.queueHead i ≠ s.queueTail i)) → out = .next w)) ∧
    (n = .idWringBase → idx = [i] → (changes ∧ (s.flag .idWringCtrl [i] 63 = true ∨ s.ringHead i ≠ s.ringTail i) → out = .fault (.undefined (.ub 58))) ∧
      (¬ (changes ∧ (s.flag .idWringCtrl [i] 63 = true ∨ s.ringHead i ≠ s.ringTail i)) → out = .next w)) ∧
    (n = .evtRingBase → idx = [] → (changes → s.flag .evtRingCtrl [] 63 = true → out = .fault (.undefined (.ub 59))) ∧ (¬ changes ∨ s.flag .evtRingCtrl [] 63 = false → out = .next w)) ∧
    (n ∈ [RegName.drvDigestLo, .drvDigestHi] → idx = [i] → (s.digBusy (some i) = true → out = .fault (.undefined (.ub 37))) ∧
      (s.digBusy (some i) = false → out = if 2 ^ 63 ≤ w.reg .drvDigestHi [i] then .fault (.undefined (.ub 43)) else .next w)) ∧
    (n ∈ [RegName.ledDigestKeyLo, .ledDigestKeyHi] → idx = [] → (changes → s.digBusy none = true → out = .fault (.undefined (.ub 43))) ∧ (¬ changes ∨ s.digBusy none = false → out = .next w)) ∧
    (n = .ledBase → idx = [] → s.flag .ledBase [] 63 = true → w.flag .ledBase [] 63 = true → changes → out = .fault (.undefined (.ub 41))) ∧
    (n = .ledBase → idx = [] → s.flag .ledBase [] 63 = true → w.flag .ledBase [] 63 = false ∨ ¬ changes → out = .next w) ∧
    (n = .ledBase → idx = [] → s.flag .ledBase [] 63 = false → out = if (List.range 4096).any w.entryBad then .fault (.undefined (.ub 41))
      else if w.flag .ledBase [] 63 && w.areasClash then .fault (.undefined (.ub 40)) else .next w) ∧
    (n = .ledCommit → idx = [] → out = if acc = .full then (if s.wstate = 0 then .next w else .fault (.undefined (.ub 42))) else .fault (.undefined .r4)) ∧
    (n = .ledStep → idx = [] → out = if s.wstate = 0 then .next w else .fault (.undefined (.ub 42))) ∧
    (n ∈ [RegName.farRound, .farNextEnd, .farArea, .farSeg] → idx = [] → changes → s.farOn = true → out = .fault (.undefined (.ub 51))) ∧
    (n ∈ [RegName.farRound, .farNextEnd, .farArea] → idx = [] → ¬ changes ∨ s.farOn = false → out = .next w) ∧
    (n = .farSeg → idx = [] → ¬ changes ∨ s.farOn = false → out = .next w.setAreaSize) ∧
    (n = .farStaleW → idx = [i] → let x := f32Val (BitVec.ofNat 32 (w.rf .farStaleW idx 0 32))
      out = if x.isFin && !(x.lt Val.zero) then .next w else .fault (.undefined (.ub 53))))

/-- A host read returns the register's value, or the half that the access names, and clears its read-to-clear bits there (R12, R17); undefined offsets read zero
(R469); another size is undefined (UB-02). -/
def Obligations.RegisterReads : Prop :=
  (∀ (port : Fin 2) (off : Nat) (s : State), s.hostUp port = true → exec (.rcRegisterRead port off .other) s = .fault (.undefined (.ub 2))) ∧
  ∀ (port : Fin 2) (off : Nat) (acc : Acc) (s : State), s.hostUp port = true → acc ≠ .other → ∃ s', exec (.rcRegisterRead port off acc) s = .next s' ∧
    s'.out = s.out ++ [.regData port (BitVec.ofNat 64 (match acc with
      | .full => s.ctlRead port off
      | .low => s.ctlRead port off % 2 ^ 32
      | .high => s.ctlRead port off / 2 ^ 32
      | .other => 0))] ∧
    (regFind off = none → s.ctlRead port off = 0) ∧
    (∀ b < 64, (s'.ctlRaw off).toNat.testBit b = ((s.ctlRaw off).toNat.testBit b && !((rcMask off).testBit b && (accMask acc).testBit b))) ∧
    (∀ o, o ≠ off → s'.ctlRaw o = s.ctlRaw o) ∧ s' = { s with ctl := s'.ctl, out := s'.out }

/-- Starting and stopping a tile (R44, R151, R172-R177). A permitted START leaves the registers, predicates, descriptors, queues, groups and tables of R174 as a start leaves them, keeps tokens and
sticky bits and goes to START_PC; a refused one sets WRITE_REJECT and nothing else; STOP drains, with empty queues; START_PC and the tokens take a write while the tile does not run and reject
it while it runs; a drained tile stops, with TILE_HALT after a halt; the watchdog marks the tile. -/
def Obligations.TileControl : Prop :=
  ∀ (t : TileId) (s : State),
    (HostOpen 0 .tileSeqCtrl (tix t) .full 1 s → s.tileRunning t = false → s.startForbidden t = false → s.reg .tileStartPc (tix t) < 2 ^ 40 →
      ∃ s', exec (.tileStart t) s = .next s' ∧
        SqRetired t { Tile.reset with
            seq := .running, cause := (s.tile t).cause, watchdog := (s.tile t).watchdog, fetchFault := (s.tile t).fetchFault
            writeReject := (s.tile t).writeReject, cfgReject := (s.tile t).cfgReject, icGen := s.gen }
          (s.tile t).token 0 (s.reg .tileStartPc (tix t)) (fun _ => False) s s' ∧ (s'.tile t).tokenSat = (s.tile t).tokenSat) ∧
    (HostOpen 0 .tileSeqCtrl (tix t) .full 1 s → s.tileRunning t = true ∨ s.startForbidden t = true →
      exec (.tileStart t) s = .next (s.setTile t { s.tile t with writeReject := true })) ∧
    (s.startForbidden t = true ↔ s.slice t = 0 ∨ (s.slice t = 63 ∧ s.paddockOn = false)) ∧
    (HostOpen 0 .tileSeqCtrl (tix t) .full 2 s → s.tileRunning t = true → ∃ s', exec (.tileStop t) s = .next s' ∧
      (s'.tile t).seq = .draining ∧ (s'.tile t).cause = .stop ∧ (s'.tile t).qMx = [] ∧ (s'.tile t).qVx = [] ∧ (s'.tile t).qDv = [] ∧
      (s'.tile t).qLk = [] ∧ (s'.tile t).icReq = [] ∧ (s'.tile t).s = (s.tile t).s ∧ (s'.tile t).tok = (s.tile t).tok ∧
      (∀ f ∈ (s.tile t).flights, f.queue ≠ .lk → f ∈ (s'.tile t).flights) ∧ (∀ f ∈ (s'.tile t).flights, f ∈ (s.tile t).flights) ∧
      (∀ u, u ≠ t.val → s'.tile u = s.tile u) ∧ (∀ k, s'.byte k = s.byte k) ∧ s'.ctl = s.ctl) ∧
    (HostOpen 0 .tileSeqCtrl (tix t) .full 2 s → s.tileRunning t = false → exec (.tileStop t) s = .next s) ∧
    (∀ acc v, HostOpen 0 .tileStartPc (tix t) acc v.toNat s →
      (s.tileRunning t = false → exec (.startPcWrite t acc v) s =
        .next (s.setReg .tileStartPc (tix t) (ctlMerge .tileStartPc acc (s.reg .tileStartPc (tix t)) v.toNat))) ∧
      (s.tileRunning t = true → exec (.startPcWrite t acc v) s = .next (s.setTile t { s.tile t with writeReject := true }))) ∧
    (∀ (n : Fin 8) acc v, HostOpen 0 .tileToken (tix t ++ [n.val]) acc v.toNat s →
      (s.tileRunning t = false → ∃ s', exec (.tokenWrite t n acc v) s = .next s' ∧
        (∀ b < 8, 8 * n.val + b ≠ 0 → (s'.tile t).token (8 * n.val + b) = accMerge acc ((s.tile t).tokenReg n) v.toNat / 256 ^ b % 256) ∧
        (∀ k, k / 8 ≠ n.val → (s'.tile t).token k = (s.tile t).token k) ∧
        s'.tile t = { s.tile t with tok := (s'.tile t).tok } ∧ s' = { s with tiles := s'.tiles } ∧ ∀ u, u ≠ t.val → s'.tile u = s.tile u) ∧
      (s.tileRunning t = true → exec (.tokenWrite t n acc v) s = .next (s.setTile t { s.tile t with writeReject := true }))) ∧
    ((s.tile t).seq = .draining → s.gated t = false → (s.tile t).drained = true →
      ((s.tile t).cause = .halt → exec (.tileHalt t) s =
        .next ((s.setTile t { s.tile t with seq := .stopped }).raise 0x0104 0 1 (s.logical t) (s.tile t).haltCode 0)) ∧
      ((s.tile t).cause = .fetchFault → exec (.tileHalt t) s = .next (s.setTile t { s.tile t with seq := .stopped })) ∧
      ((s.tile t).cause = .stop → exec (.tileStopComplete t) s = .next (s.setTile t { s.tile t with seq := .stopped }))) ∧
    ((s.tile t).seq ≠ .stopped → s.gated t = false → s.rf .tileWatchdog (tix t) 0 32 ≠ 0 → exec (.tileStall t) s =
      .next ((s.setTile t { s.tile t with watchdog := true }).raise 0x0105 0 1 (s.logical t) 0 0))

/-- A requested line arrives (R165, R166, R169, R266): it is the most recently used line, with the bytes that it has in memory, and its set keeps at most four; where it meets an address fault
nothing is filled, and a fetch for execution stops the running tile. A held line (R509, R519) waits, and so does a tile with no engine of its class on its die. -/
def Obligations.CacheFill : Prop :=
  ∀ (t : TileId) (s : State) (r : LineReq) (rest : List LineReq), s.gated t = false → (s.tile t).icReq = r :: rest →
    (s.fillEngine t = none → exec (.icacheLineFill t) s = .next s) ∧ (s.fillEngine t ≠ none →
    (s.lineFaults t r.line = false → s.rdHeld (.tile t) (lineAddrs r.line) = true → exec (.icacheLineFill t) s = .next s) ∧
    (s.lineFaults t r.line = false → s.rdHeld (.tile t) (lineAddrs r.line) = false → ((s.tile t).seq = .running → (s.tile t).pc < 2 ^ 40) →
      ∃ s', exec (.icacheLineFill t) s = .next s' ∧ (s'.tile t).icache.head? = some (r.line, s.peeks (.tile t) (256 * r.line) 256) ∧
      (((s'.tile t).icache.filter (fun l => icSet l.1 == icSet r.line)).map Prod.fst).dedup.length ≤ 4 ∧
      (∀ l, icSet l ≠ icSet r.line → ((s'.tile t).cached l = (s.tile t).cached l) ∧ (s'.tile t).lineBytes l = (s.tile t).lineBytes l) ∧
      TileOnly t (fun _ => False) [regOff .idAddrFault []] [] s s' ∧
      ((s.tile t).seq ≠ .running ∨ (s.tile t).pc / 256 = r.line →
        s'.tile t = { s.tile t with icReq := rest, icache := (s'.tile t).icache } ∧ s' = { s with tiles := s'.tiles })) ∧
    (s.lineFaults t r.line = true → r.exec = true → (s.tile t).seq = .running → ∃ s', exec (.icacheLineFill t) s = .next s' ∧
      (s'.tile t).seq = .draining ∧ (s'.tile t).cause = .fetchFault ∧ (s'.tile t).fetchFault = true ∧ (s'.tile t).icache = (s.tile t).icache ∧
      TileOnly t (fun _ => False) [regOff .idAddrFault []] [] s s') ∧
    (s.lineFaults t r.line = true → r.exec = false ∨ (s.tile t).seq ≠ .running → exec (.icacheLineFill t) s = .next (s.setTile t { s.tile t with icReq := rest })))

/-- Slices, the paddock and the HBM regions (R46-R49, R52, R57, R59). TILE_CFG moves the slice of a stopped tile and rejects a running tile's, and while the paddock is enabled a move into or out of it;
ENABLE needs 8 to 152 paddock tiles in eights and clearing it needs none running; a region's word is whole, keeps its PADDOCK bit while the paddock is enabled, stores a MODE of 0b11 as 0b00, and names no
frame of another region; a region in use is not written (R60, UB-05). Where COUNT is above 152 and no multiple of 8, ERR reports 0b01 (the model's reading, log 25). -/
def Obligations.SlicesAndRegions : Prop :=
  (∀ (t : TileId) acc v (s : State), HostOpen 0 .tileTileCfg (tix t) acc v.toNat s → s.present t = true →
    let new := ctlMerge .tileTileCfg acc (s.reg .tileTileCfg (tix t)) v.toNat
    (s.tileRunning t = false → (s.paddockOn = false ∨ fld new 0 6 = s.slice t ∨ (fld new 0 6 ≠ 63 ∧ s.slice t ≠ 63)) →
      ∃ s', exec (.tileCfgWrite t acc v) s = .next s' ∧ s' = s.setReg .tileTileCfg (tix t) new ∧ s'.slice t = fld new 0 6) ∧
    (s.tileRunning t = true ∨ (s.paddockOn = true ∧ fld new 0 6 ≠ s.slice t ∧ (fld new 0 6 = 63 ∨ s.slice t = 63)) →
      exec (.tileCfgWrite t acc v) s = .next (s.setTile t { s.tile t with cfgReject := true }))) ∧
  (∀ acc v (s : State), HostOpen 0 .idPaddock [] acc v.toNat s → acc ≠ .high → v.toNat.testBit 20 = false →
    (v.toNat.testBit 16 = true → ∃ s', exec (.paddockEnableWrite acc v) s = .next s' ∧
      s'.paddockOn = (if s.paddockCount ≠ 0 ∧ s.paddockCount % 8 = 0 ∧ s.paddockCount ≤ 152 then true else s.paddockOn) ∧
      s'.rf .idPaddock [] 18 2 = (if s.paddockCount = 0 ∨ s.paddockCount % 8 ≠ 0 then 1 else if 152 < s.paddockCount then 2 else 0) ∧
      (∀ o, o ≠ regOff .idPaddock [] → s'.ctlRaw o = s.ctlRaw o) ∧ s' = { s with ctl := s'.ctl }) ∧
    (v.toNat.testBit 16 = false → ∃ s', exec (.paddockEnableWrite acc v) s = .next s' ∧
      (s'.paddockOn = true ↔ s.paddockOn = true ∧ ∃ t < 1280, s.isPaddock t = true ∧ s.tileRunning t = true) ∧
      s'.rf .idPaddock [] 18 2 = (if s'.paddockOn then 3 else 0) ∧ s' = { s with ctl := s'.ctl })) ∧
  (∀ (r : Fin 1024) acc v (s : State), HostOpen 0 .idHbmRegion [r.val] acc v.toNat s →
    (acc ≠ .full → exec (.hbmRegionWrite r acc v) s = .fault (.undefined .r4)) ∧
    (acc = .full →
      let word := ctlMerge .idHbmRegion .full (s.reg .idHbmRegion [r.val]) v.toNat
      let new := if fld word 18 2 = 3 then setBits word 18 2 0 else word
      (s.paddockOn = true → fld (s.reg .idHbmRegion [r.val]) 17 1 ≠ fld new 17 1 →
        exec (.hbmRegionWrite r acc v) s = .next (s.setRf .idPaddock [] 20 1 1)) ∧
      (s.paddockOn = false ∨ fld (s.reg .idHbmRegion [r.val]) 17 1 = fld new 17 1 →
        (s.regionBad r new = true → exec (.hbmRegionWrite r acc v) s = .fault (.undefined (.ub 4))) ∧
        (s.regionBad r new = false → s.regionBusy r = false → exec (.hbmRegionWrite r acc v) s = .next (s.setReg .idHbmRegion [r.val] new)) ∧
        (s.regionBad r new = false → s.regionBusy r = true → exec (.hbmRegionWrite r acc v) s = .fault (.undefined (.ub 5))))))

/-! ### Matrix engine (chapter 5) -/

/-- Opening, closing and discarding a group (R195, R196, R199, R203, R205, R206, R218, R219): open makes a free group open with +0 elements; close and discard take an open group to closing; a close's completion
gives each element its close value, sets the status word, puts the group at the tile queue's end and deposits the status; a discard's leaves the values and frees the group. Other groups stay. -/
def Obligations.MatrixGroups : Prop :=
  (∀ (r : Group) (g sat nf : Nat), g < 8 → sat + nf ≤ 16384 → fld (closeStatus r g sat nf).toNat 62 1 = (if r.captures = 0 then 0 else 1) ∧
    fld (closeStatus r g sat nf).toNat 63 1 = (if r.long then 1 else 0) ∧ fld (closeStatus r g sat nf).toNat 56 3 = g ∧
    fld (closeStatus r g sat nf).toNat 32 16 = min r.passes 0xFFFF ∧ fld (closeStatus r g sat nf).toNat 16 16 = sat ∧
    fld (closeStatus r g sat nf).toNat 0 16 = nf) ∧
  ∀ (t : TileId) (s : State) (e : QEntry), s.gated t = false →
    (EngGo t .mx e s → (s.tile t).mxHeld = false →
      let x := s.tile t
      let g := ctrlGroup e.ctrl
      let iv := fld e.ctrl 13 7
      let slot := descBase e.dA
      (e.op = .mx .open → (x.group g).st = .free →
        (iv = 0 ∨ (slot % 512 = 0 ∧ inTileStore t slot 0x20000 = true ∧ ∀ o ∈ x.openSlots g, slot + 0x20000 ≤ o ∨ o + 0x20000 ≤ slot)) →
        ∃ s', exec (.mxOpen t) s = .next s' ∧ (s'.tile t).group g = { Group.reset with st := .opened, interval := iv, slot := slot } ∧
          (∀ i < 128, ∀ j < 128, s'.acc t g i j = 0) ∧ (∀ h, h ≠ g → (s'.tile t).group h = x.group h) ∧ (s'.tile t).qMx = x.qMx.tail ∧
          (∀ k, (s'.tile t).token k = if k = 0 then 0 else
            let n := if k = e.wait then x.token k - 1 else x.token k
            if k = e.signal then min 255 (n + 1) else n) ∧
          TileOnly t (fun k => accBase t + g * 0x10000 ≤ k ∧ k < accBase t + (g + 1) * 0x10000) [] [] s s') ∧
      (∀ close : Bool, e.op = .mx (if close then .close else .discard) → (x.group g).st = .opened →
        ∃ s', exec (if close then .mxClose t else .mxDiscard t) s = .next s' ∧ (s'.tile t).group g = { x.group g with st := .closing } ∧
          (∀ h, h ≠ g → (s'.tile t).group h = x.group h) ∧ (s'.tile t).qMx = x.qMx.tail ∧
          (s'.tile t).flights = x.flights ++ [⟨.mx, e.signal, if close then fld e.ctrl 8 5 else 0, 0, false, false, if close then .close g else .discard g, Stake.none⟩] ∧
          TileOnly t (fun _ => False) [] [] s s') ∧
      (e.op = .mx .open → (x.group g).st ≠ .free → exec (.mxOpen t) s = .fault (.undefined (.ub 22))) ∧
      (e.op = .mx .close → (x.group g).st ≠ .opened → exec (.mxClose t) s = .fault (.undefined (.ub 22))) ∧
      (e.op = .mx .discard → (x.group g).st ≠ .opened → exec (.mxDiscard t) s = .fault (.undefined (.ub 22)))) ∧
    (∀ f rest g, (s.tile t).mxFirst = some (f, rest) →
      (f.work = .close g → g ∉ (s.tile t).capWait → ((s.tile t).staging = none ∨ ((s.tile t).group g).captures = 0) →
        (((s.tile t).group g).captures ≠ 0 → inTileStore t ((s.tile t).group g).slot 0x20000 = true) →
        ∃ s', exec (.closeComplete t) s = .next s' ∧ ((s'.tile t).group g).st = .queued ∧ (s'.tile t).tileQueue = (s.tile t).tileQueue ++ [g] ∧
          (s'.tile t).flights = rest ∧
          (∀ i < 128, ∀ j < 128, s'.acc t g i j = (s.closeElem t g i j).1) ∧
          (s'.tile t).lastClose = closeStatus ((s.tile t).group g) g
            ((List.range 16384).countP (fun i => let a := s.closeElem t g (i / 128) (i % 128)
              !f32NonFinite a.1 && (a.2 == .sat || tblGet (fun _ => false) ((s.tile t).group g).sat i)))
            ((List.range 16384).countP (fun i => f32NonFinite (s.closeElem t g (i / 128) (i % 128)).1)) ∧
          (f.sdst ≠ 0 → f.overwritten = false → (s'.tile t).sreg f.sdst = (s'.tile t).lastClose) ∧
          (∀ h, h ≠ g → (s'.tile t).group h = (s.tile t).group h) ∧
          TileOnly t (fun k => accBase t + g * 0x10000 ≤ k ∧ k < accBase t + (g + 1) * 0x10000) []
            [regOff .tileNumSat (tix t), regOff .tileNumFtz (tix t), regOff .tileNumNf (tix t)] s s') ∧
      (f.work = .discard g → g ∉ (s.tile t).capWait → (∀ c, (s.tile t).staging = some c → c.group ≠ g) →
        ∃ s', exec (.discardComplete t) s = .next s' ∧ (s'.tile t).group g = { (s.tile t).group g with st := .free } ∧ (s'.tile t).flights = rest ∧
          (∀ h, h ≠ g → (s'.tile t).group h = (s.tile t).group h) ∧ TileOnly t (fun _ => False) [] [] s s'))

/-- Passes (R178, R182, R196-R198, R205, R211-R217, R220): a pass, with a row mask, a block mask or none, counts toward its open group and loads its weights, keeps them under KEEPW, or is skipped when nothing is kept; its
rows then stream through the array with the weights exchanged; its completion adds the partial sums into the group, each element once, rounded to nearest even, and marks what saturated. KEEPW with other weights than the front buffer's is undefined (UB-25); into a group that is not open a pass is (UB-22); so is one whose codebook an unordered access in flight has written (R87, UB-13). -/
def Obligations.MatrixPasses : Prop :=
  ∀ (t : TileId) (s : State),
    (∀ (o : MxOp) (c : Instr) (e : QEntry) p rows blocks,
      (o, c) ∈ [(MxOp.pass, Instr.mxPass t), (.passr, .mxPassr t), (.passb, .mxPassb t)] →
      EngGo t .mx e s → (s.tile t).mxHeld = false → e.op = .mx o → s.ledgerWait [e.dA, e.dB] = false →
      ((s.tile t).group (ctrlGroup e.ctrl)).st = .opened → passOps t e = .ok p → let m := s.look (.unit t .mx) (maskAddrs o e)
      m.1.passMask t o e = .ok (rows, blocks) → let books := p.x.bookAddrs ++ if ctrlKeepw e.ctrl then [] else p.w.bookAddrs
      (ctrlKeepw e.ctrl = true → (s.tile t).kept e = false → exec c s = .fault (.undefined (.ub 25))) ∧
      ((s.tile t).kept e = true ↔ (s.tile t).front.valid = true ∧ keepFields (s.tile t).front.desc = keepFields e.dB ∧ (s.tile t).front.trw = ctrlTrw e.ctrl) ∧
      ((ctrlKeepw e.ctrl = true → (s.tile t).kept e = true) →
      let g := ctrlGroup e.ctrl
      let r := (s.tile t).group g
      let cap := r.interval != 0 && r.interval ≤ r.since
      let counted (s' : State) : Prop := (s'.tile t).group g =
          { r with passes := r.passes + 1, k := r.k + p.kp, since := (if cap then 0 else r.since) + 1, long := r.long || 2 ^ 20 < r.k + p.kp } ∧ (s'.tile t).qMx = (s.tile t).qMx.tail ∧ (∀ h, h ≠ g → (s'.tile t).group h = (s.tile t).group h) ∧
        TileOnly t (fun _ => False) [] [regOff .tileMxAccLong (tix t)] s s'
      (passSkips p rows blocks (ctrlRow0 e.ctrl) = true → ∃ s', exec c s = .next s' ∧ counted s' ∧
        (s'.tile t).flights = (s.tile t).flights ++ [⟨.mx, e.signal, 0, 0, false, false, .passSkipped g cap, { Stake.none with entries := namedEntries [e.dA, e.dB] }⟩]) ∧
      (passSkips p rows blocks (ctrlRow0 e.ctrl) = false → s.recRaced (.unit t .mx) books = true → exec c s = .fault (.undefined (.ub 13))) ∧
      (passSkips p rows blocks (ctrlRow0 e.ctrl) = false → s.recRaced (.unit t .mx) books = false → ctrlKeepw e.ctrl = true → ∃ s', exec c s = .next s' ∧ counted s' ∧
        (s'.tile t).shadow = (s.tile t).shadow ∧ (s'.tile t).front = (s.tile t).front ∧
        (s'.tile t).flights = (s.tile t).flights ++ [⟨.mx, e.signal, 0, 0, false, false, .passLoaded g e rows blocks cap (s.tScale p.x), { Stake.none with recs := books, entries := namedEntries [e.dA, e.dB] }⟩]) ∧
      (passSkips p rows blocks (ctrlRow0 e.ctrl) = false → s.recRaced (.unit t .mx) books = false → ctrlKeepw e.ctrl = false → ∀ cells, (m.2.look (.unit t .mx) (p.w.readAddrs p.ws)).1.readWeights t p (ctrlTrw e.ctrl) = .ok cells →
        ∃ s', exec c s = .next s' ∧ counted s' ∧ (s'.tile t).shadow = ⟨true, cells, e.dB, ctrlTrw e.ctrl⟩ ∧ (s'.tile t).front = (s.tile t).front ∧
        (s'.tile t).flights = (s.tile t).flights ++ [⟨.mx, e.signal, 0, 0, false, false, .passLoaded g e rows blocks cap (s.tScale p.x), { Stake.none with recs := books, entries := namedEntries [e.dA, e.dB] }⟩]) ∧
      (Alone s (.unit t .mx) (maskAddrs o e) → m = (s, s)) ∧ (Alone s (.unit t .mx) (p.w.readAddrs p.ws) → m.2.look (.unit t .mx) (p.w.readAddrs p.ws) = (m.2, m.2)))) ∧
    (∀ f g e rows blocks p xs ts, s.gated t = false → (s.tile t).nextPass = some f → f.work = .passLoaded g e rows blocks false ts → (s.tile t).capAhead g f = false → passOps t e = .ok p →
      (s.look (.unit t .mx) (p.x.readAddrs p.xs)).1.readActs t p (ctrlTra e.ctrl) ts = .ok xs →
      ∃ s', exec (.passStreamStart t) s = .next s' ∧
        (s'.tile t).front = (if ctrlKeepw e.ctrl then (s.tile t).front else (s.tile t).shadow) ∧
        (s'.tile t).shadow = (if ctrlKeepw e.ctrl then (s.tile t).shadow else WBuf.empty) ∧
        (s'.tile t).flights.length = (s.tile t).flights.length ∧
        { f with work := .passStreamed g (passSums p (ctrlRow0 e.ctrl) rows blocks xs (s'.tile t).front.cells) } ∈ (s'.tile t).flights ∧
        s' = { s with tiles := s'.tiles, free := s'.free } ∧ ∀ u, u ≠ t.val → s'.tile u = s.tile u) ∧
    (∀ f rest g, s.gated t = false → (s.tile t).mxFirst = some (f, rest) →
      (∀ ps : List (Nat × Nat × Bool), f.work = .passStreamed g ps → (ps.map Prod.fst).Nodup → (∀ a ∈ ps, a.1 < 16384) →
        ∃ s', exec (.passComplete t) s = .next s' ∧ (s'.tile t).flights = rest ∧
          (∀ a ∈ ps, s'.acc t g (a.1 / 128) (a.1 % 128) =
            f32Round ((f32Val (s.acc t g (a.1 / 128) (a.1 % 128))).add (f32Val (BitVec.ofNat 32 a.2.1))).toRes) ∧
          (∀ a ∈ ps, tblGet (fun _ => false) ((s'.tile t).group g).sat a.1 = (tblGet (fun _ => false) ((s.tile t).group g).sat a.1 || a.2.2 ||
            (f32RoundC .rne ((f32Val (s.acc t g (a.1 / 128) (a.1 % 128))).add (f32Val (BitVec.ofNat 32 a.2.1))).toRes).2 == .sat)) ∧
          (∀ i < 16384, i ∉ ps.map Prod.fst → s'.acc t g (i / 128) (i % 128) = s.acc t g (i / 128) (i % 128)) ∧
          (∀ h, h ≠ g → (s'.tile t).group h = (s.tile t).group h) ∧
          (∀ k, (s'.tile t).token k = if k = 0 then 0 else if k = f.signal then min 255 ((s.tile t).token k + 1) else (s.tile t).token k) ∧
          TileOnly t (fun k => accBase t + g * 0x10000 ≤ k ∧ k < accBase t + (g + 1) * 0x10000) [] [] s s') ∧
      (∀ cap : Bool, f.work = .passSkipped g cap → ∃ s', exec (.passComplete t) s = .next s' ∧ (s'.tile t).flights = rest ∧
        (s'.tile t).capWait = (if cap then (s.tile t).capWait ++ [g] else (s.tile t).capWait) ∧
        (∀ h, (s'.tile t).group h = (s.tile t).group h) ∧ TileOnly t (fun _ => False) [] [] s s'))

/-- Captures and folds (R198, R200, R201): a capture moves the group's words to the empty staging buffer and leaves +0; the fold puts the first capture into its pair as it is, with error +0, and
folds a later one by the compensated sum; the staging buffer empties. -/
def Obligations.MatrixSpill : Prop :=
  ∀ (t : TileId) (s : State), s.gated t = false →
    (∀ g f gs, (s.tile t).staging = none → (s.tile t).capWait = g :: gs ∨ ((s.tile t).capWait = [] ∧ gs = [] ∧ nextCapture [] (s.tile t).flights = some (g, f)) →
      ∃ s', exec (.capture t) s = .next s' ∧ (s'.tile t).capWait = gs ∧
      (∃ c, (s'.tile t).staging = some c ∧ c.group = g ∧
        ∀ i < 16384, (c.vals.lookup i).getD 0 = (s.acc t g (i / 128) (i % 128)).toNat) ∧
      (∀ i < 128, ∀ j < 128, s'.acc t g i j = 0) ∧ (s'.tile t).group g = { (s.tile t).group g with captures := ((s.tile t).group g).captures + 1 } ∧
      (∀ h, h ≠ g → (s'.tile t).group h = (s.tile t).group h) ∧
      TileOnly t (fun k => accBase t + g * 0x10000 ≤ k ∧ k < accBase t + (g + 1) * 0x10000) [] [] s s') ∧
    (∀ c, (s.tile t).staging = some c →
      let r := (s.tile t).group c.group
      inTileStore t r.slot 0x20000 = true →
      ∃ s', exec (.spillFold t) s = .next s' ∧ (s'.tile t).staging = none ∧ ((s'.tile t).group c.group).folds = r.folds + 1 ∧
        (∀ i < 16384, let x : F32 := BitVec.ofNat 32 ((c.vals.lookup i).getD 0)
          let p := foldPair (r.folds == 0) x (BitVec.ofNat 32 (s.le (r.slot + 4 * i) 4)) (BitVec.ofNat 32 (s.le (r.slot + 4 * i + 0x10000) 4))
          s'.le (r.slot + 4 * i) 4 = p.1.toNat ∧ s'.le (r.slot + 4 * i + 0x10000) 4 = p.2.1.toNat ∧
          tblGet (fun _ => false) ((s'.tile t).group c.group).sat i = (tblGet (fun _ => false) r.sat i || p.2.2)) ∧
        TileOnly t (fun k => r.slot ≤ k ∧ k < r.slot + 0x20000) [] [] s s') ∧
    (∀ x a b, foldPair true x a b = (x, 0, false)) ∧
    (∀ x sum err, let y := f32Round ((f32Val x).add (f32Val err)).toRes
      let u := f32Round ((f32Val sum).add (f32Val y)).toRes
      (f32Val u).isFin = true → let d := f32Round ((f32Val sum).sub (f32Val u)).toRes
      (foldPair false x sum err).1 = u ∧ (foldPair false x sum err).2.1 = f32Round ((f32Val d).add (f32Val y)).toRes)

/-- The arithmetic of a group of products (R185, R186, R190): a NaN product gives a NaN, infinities of both signs a NaN, one kind of infinity that infinity; where no product loses bits below 2^(E - 26),
the sum is exact. -/
def Obligations.MatrixGroupSum : Prop :=
  (∀ ps : List Val, (∃ v ∈ ps, v.isNan = true) → (groupSum ps).1.isNan = true) ∧
  (∀ ps : List Val, (∀ v ∈ ps, v.isNan = false) → (.inf true) ∈ ps → (.inf false) ∈ ps → (groupSum ps).1 = .nan false) ∧
  (∀ (ps : List Val) (n : Bool), (∀ v ∈ ps, v.isNan = false) → (.inf n) ∈ ps → (.inf !n) ∉ ps → (groupSum ps).1 = .inf n) ∧
  (∀ ps : List Val, (∀ v ∈ ps, v.isFin = true) → (groupSum ps).2 = false → valRat (groupSum ps).1 = (ps.map valRat).sum) ∧
  ∀ (g : Nat) (xs : List Val) (ws : List Weight), (∀ w ∈ ws, w = .zeroCode) → (∀ x ∈ xs, x.isFin = true) → (columnSum g xs ws).1 = 0

/-! ### Vector engine (chapter 6) -/

/-- Element-wise instructions in both forms (R206, R224-R230, R233, R235-R237, R258): with operands that keep the rules, each element of D receives the table's exact value of its sources' elements times 2^EXP (of NaN sources the first, which log 27 names), and the write of R233
follows; fill takes its register's low word; an instruction that breaks a rule stops as undefined under that rule's number. -/
def Obligations.VectorElementWise : Prop :=
  ∀ (t : TileId) (s s1 : State) (e : QEntry) (g : Option Nat), VxGo t e g s1 s →
    ∀ (len : Option Nat) (op : VxOp) (c : Instr),
      (len = none ∧ e.op = .vx op ∧ c = vxCmd t op) ∨ (len = some e.vl ∧ e.op = .vxl op ∧ c = .vxLengthForm t) →
      op ∈ [VxOp.add, .sub, .mul, .mul3, .fma, .fms, .fnma, .mas, .max, .min, .abs, .cvt, .rcp, .rsqrt, .gt, .sel, .fill] →
      ∀ d ded ins, vxOperand len e.dA e.eA = .ok (d, ded) → vxInputs len e g (if op = .fill then 0 else op.sources) = .ok ins → tileShape g d = true →
        (∀ u, s1.vxCheck t true d d ded ins [] [] = some u → exec c s = .fault (.undefined u)) ∧
        (s1.vxCheck t true d d ded ins [] [] = none → ∀ vs book, let look := s1.look (.unit t .vx) (vxReads ins)
          look.1.vxAll t d ins = .ok vs → s1.book (.da (.tile t)) d = .ok book →
          let a (i : Nat) : Val := (vs.getD 0 []).getD i Val.zero
          let b (i : Nat) : Val := (vs.getD 1 []).getD i Val.zero
          let z (i : Nat) : Val := (vs.getD 2 []).getD i Val.zero
          let results : List Res := (List.range d.size).map (fun i => if op = .fill then (f32Val (e.sv.truncate 32)).toRes else
            (match op with
              | .add => ((a i).add (b i)).toRes
              | .sub => ((a i).sub (b i)).toRes
              | .mul => ((a i).mul (b i)).toRes
              | .mul3 => (nanFirst [a i, b i, z i] (((a i).mul (b i)).mul (z i))).toRes
              | .fma => (nanFirst [a i, b i, z i] (((a i).mul (b i)).add (z i))).toRes
              | .fms => (nanFirst [a i, b i, z i] (((a i).mul (b i)).sub (z i))).toRes
              | .fnma => (nanFirst [a i, b i, z i] ((z i).sub ((a i).mul (b i)))).toRes
              | .mas => (nanFirst [a i, b i, z i] (((a i).sub (b i)).mul (z i))).toRes
              | .max => ((a i).max (b i)).toRes
              | .min => ((a i).min (b i)).toRes
              | .abs => (a i).abs.toRes
              | .rcp => (a i).rcp
              | .rsqrt => (a i).rsqrt
              | .gt => (if (b i).lt (a i) then Val.fin false 1 0 else Val.zero).toRes
              | .sel => (if (a i).isZero then z i else b i).toRes
              | _ => (a i).toRes).shift (ctrlExp e.ctrl))
          ∃ s', exec c s = .next s' ∧
            look.2.vxWrite t e d ded (op != .fill && ctrlRtz e.ctrl) g (vxBooks d ins) (results.map (fun r => (r, false))) = .next s')

/-- What the write of a vector instruction leaves (R68, R102, R233-R235, R244, R245, R319, R552): the codes and scales of D's encoding at D's places in D's element order; a flight that holds the
summary that SUMK names, the consumed group, the token, the records in use and the lines written; outside D, its scales, the ledger entry that D names and the tile's own counts nothing; an empty D writes
nothing. Where an unordered access in flight has written a line of D, that whole line or this write's remains (R68). -/
def Obligations.VectorWrite : Prop :=
  (∀ (vals : List Val) (nf miss : Nat), summary 1 vals nf miss = BitVec.ofNat 64 nf ∧ summary 6 vals nf miss = BitVec.ofNat 64 miss ∧
    summary 2 vals nf miss = BitVec.ofNat 64 (vals.countP (fun v => !v.isZero)) ∧ summary 3 vals nf miss = ((reduce .max (vals.map f32Of)).1.zeroExtend 64) ∧
    summary 4 vals nf miss = (if vals = [] then 0 else (reduce .sum (vals.map f32Of)).1.zeroExtend 64) ∧ summary 5 vals nf miss = ((reduce .amax (vals.map f32Of)).1.zeroExtend 64)) ∧
  ∀ (t : TileId) (s : State) (e : QEntry) (d : Tens) (ded : Option Tens) (rtz : Bool) (g : Option Nat) (recs : List Nat) (rs : List (Res × Bool)) (book : Book),
    s.book (.da (.tile t)) d = .ok book →
    let out := d.writeAddrs ded
    OwnBytes s t out → (s.flag .ledBase [] 63 = true → s.entryAddr 0 + 2 ^ 20 ≤ 2 ^ 40) → rs.length = d.size →
    let enc := encode d (s.tScale d) book.levels rtz (rs.map Prod.fst)
    let counts := List.zipWith (fun c p => chainCount c p.1 p.2) enc.counts ((rs.map Prod.snd).zip enc.drowned)
    let dep := summary (ctrlSumk e.ctrl) (enc.vals d (s.tScale d) book) (rs.countP (fun r => !r.1.isFin)) (counts.count .sat + counts.count .ftz)
    ∃ s', s.vxWrite t e d ded rtz g recs rs = .next s' ∧
      (s'.tile t).flights = (s.tile t).flights ++ [⟨.vx, e.signal, ctrlSdst e.ctrl, dep, decide (ctrlSumk e.ctrl ≠ 0), false, .vector g none, ⟨recs, [], s.linesOf out, namedEntries e.named, out, false⟩⟩] ∧
      s'.tile t = { s.tile t with flights := (s'.tile t).flights } ∧
      (rs = [] → (∀ k, s'.byte k = s.byte k) ∧ s'.tally = s.tally) ∧
      (Alone s (.unit t .vx) out → d.writeDup ded = false →
        (∀ i x, d.indices[i]? = some x → let c := enc.codes.getD i 0
          (d.fmt.bits = 4 → s'.byte (d.addr x).1 / (if (d.addr x).2 then 16 else 1) % 16 = c % 16) ∧
          (d.fmt.bits ≠ 4 → ∀ k < d.bytesPer, s'.byte (((d.addr x).1 + k) % 2 ^ 48) = c / 256 ^ k % 256)) ∧
        (∀ j a, (d.scaleAddrs ded)[j]? = some a → s'.byte a = enc.scales.getD j 0 % 256)) ∧
      TileOnly t (fun k => (∃ a ∈ out, unitOf k = unitOf a) ∨
          (s.toEntry (.tile t) d = true ∧ ∃ o < 256, s.locate .unit true (s.entryAddr d.ledger + o) = .mem k)) []
        [regOff .tileNumSat (tix t), regOff .tileNumFtz (tix t), regOff .tileNumNf (tix t)] s s' ∧
      (Alone s (.unit t .vx) out → ∀ k, deviceKey k → k ∉ out →
        (s.toEntry (.tile t) d = true → ∀ o < 256, s.locate .unit true (s.entryAddr d.ledger + o) ≠ .mem k) → s'.byte k = s.byte k) ∧
      (s.toEntry (.tile t) d = true → s'.tally = s.tally)

/-- Reductions (R238-R241, R552): rrow and rcol write a fold of the rounded leaves of each row or column, with D's old value under ACC; scan reads all of S1, writes nothing, counts in the tile's own tallies and deposits its
summary, in both forms. The fold is the fixed tree of R239 along a row and the order of the column otherwise. That a RANK 0 S1 has a D
of RANK 0, and what RANK D may have, are the model's choices (DESIGN CHOICE, log 51, R240). -/
def Obligations.VectorReductions : Prop :=
  (∀ (t : TileId) (s s1 : State) (e : QEntry) (g : Option Nat), VxGo t e g s1 s → ∀ row : Bool, e.op = .vx (if row then .rrow else .rcol) →
    ∀ d ded x ed ins vs book, vxOperand none e.dA e.eA = .ok (d, ded) → vxOperand none e.dB e.eB = .ok (x, ed) →
      vxInputs none e none (redSources (ctrlImm e.ctrl)) = .ok ins →
      (if row then d.rank = x.rank - 1 ∧ d.exts = [x.e1, x.e2, x.e3, 1] else d.exts = [x.e0, x.e2, x.e3, 1]) →
      let acc := decide (ctrlImm e.ctrl / 32 % 2 = 1)
      (acc = true → d.fmt = .fp32) → s1.vxCheck t false x d ded ins [] [] = none →
      let look := s1.look (.unit t .vx) (vxReads ins ++ if acc then d.dataAddrs else [])
      look.1.vxAll t x ins = .ok vs → s1.book (.da (.tile t)) d = .ok book →
      let leaf (i : Nat) : F32 × Count := (leaves (ctrlImm e.ctrl) x.size vs).getD i (0, .none)
      let old (i : Nat) : Option F32 := if acc then some (BitVec.ofNat 32 (look.1.elemCode (.da (.tile t)) d (d.indices.getD i ⟨0, 0, 0, 0⟩))) else none
      let rs := if x.empty then [] else (List.range d.size).map (fun i =>
        if row then rowResult (redOp (ctrlImm e.ctrl)) ((List.range x.e0).map (fun j => leaf (x.e0 * i + j))) (old i)
        else colResult (redOp (ctrlImm e.ctrl)) ((List.range x.e1).map (fun j => leaf (i % x.e0 + x.e0 * (j + x.e1 * (i / x.e0))))) (old i))
      ∃ s', exec (if row then .vxRrow t else .vxRcol t) s = .next s' ∧ look.2.vxWrite t e d ded false none (vxBooks d ins) rs = .next s') ∧
  (∀ (t : TileId) (s s1 : State) (e : QEntry) (g : Option Nat), VxGo t e g s1 s → ∀ (len : Option Nat) (c : Instr),
    (len = none ∧ e.op = .vx .scan ∧ c = .vxScan t) ∨ (len = some e.vl ∧ e.op = .vxl .scan ∧ c = .vxLengthForm t) →
    ∀ x ed ins vs, vxOperand len e.dB e.eB = .ok (x, ed) → vxInputs len e none (redSources (ctrlImm e.ctrl)) = .ok ins →
      s1.vxCheck t false x { x with e0 := 0, place := 0 } ed ins [] [] = none → (s1.look (.unit t .vx) (vxReads ins)).1.vxAll t x ins = .ok vs →
      let l := leaves (ctrlImm e.ctrl) x.size vs
      let sat := l.countP (fun y => y.2 == .sat) + (reduce .sum (l.map Prod.fst)).2
      let ftz := l.countP (fun y => y.2 == .ftz)
      let nf := l.countP (fun y => y.2 == .nf)
      ∃ s', exec c s = .next s' ∧
        (s'.tile t).flights = (s1.tile t).flights ++ [⟨.vx, e.signal, ctrlSdst e.ctrl, summary (ctrlSumk e.ctrl) (l.map (fun y => f32Val y.1)) nf (sat + ftz),
          decide (ctrlSumk e.ctrl ≠ 0), false, .vector none none, { Stake.none with recs := vxBooks { x with e0 := 0, place := 0 } ins, entries := namedEntries e.named }⟩] ∧
        TileOnly t (fun _ => False) [] [regOff .tileNumSat (tix t), regOff .tileNumFtz (tix t), regOff .tileNumNf (tix t)] s s') ∧
  (∀ (s : State) (w : Actor) (as : List Nat), Alone s w as → s.look w as = (s, s)) ∧
  (∀ (o : RedOp) (l : List F32), l ≠ [] → l.length ≤ 64 →
    (reduce o l).1 = treeOf (fun a b => (o.apply a b).1) 6 (fun i => l.getD i o.ident)) ∧
  (∀ (o : RedOp) (l m : List F32), l ≠ [] → l.length % 64 = 0 → m ≠ [] → m.length ≤ 64 → (reduce o (l ++ m)).1 = (o.apply (reduce o l).1 (reduce o m).1).1) ∧
  ∀ o : RedOp, (reduce o []).1 = o.ident

/-- Movement (R242): perm exchanges the first two indices, shuf picks along the first by the carrier's 16-bit indices (beyond the extent: +0), pack interleaves two sources, unpack takes
every second element; the write of R233 follows. -/
def Obligations.VectorMovement : Prop :=
  ∀ (t : TileId) (s s1 : State) (e : QEntry) (g : Option Nat), VxGo t e g s1 s → ∀ op c n,
    (op, c, n) ∈ [(VxOp.perm, Instr.vxPerm t, 1), (.shuf, .vxShuf t, 2), (.pack, .vxPack t, 2), (.unpack, .vxUnpack t, 1)] → e.op = .vx op →
    ∀ d ded ins vs book, vxOperand none e.dA e.eA = .ok (d, ded) → vxInputs none e g n = .ok ins → tileShape g d = true →
      s1.vxCheck t false d d ded [] ins [] = none → s1.book (.da (.tile t)) d = .ok book →
      let look := s1.look (.unit t .vx) (vxReads ins)
      let recs := vxBooks d ins
      (ins.mapM (fun v => look.1.vxValues t (moveSrc d v) v) : Except UB (List (List Val))) = .ok vs →
      let ts := ins.map (moveSrc d)
      let at_ (k : Nat) (x : Ix) : Res := (pickAt ts vs k x).toRes
      (op = .perm → ts.all (fun x => x.rank == d.rank && x.exts == [d.e1, d.e0, d.e2, d.e3]) = true → ∃ s', exec c s = .next s' ∧
        look.2.vxWrite t e d ded false g recs (d.indices.map (fun x => (at_ 0 ⟨x.i1, x.i0, x.i2, x.i3⟩, false))) = .next s') ∧
      (op = .shuf → ∀ a cr, ts = [a, cr] → a.rank = d.rank → [a.e1, a.e2, a.e3] = [d.e1, d.e2, d.e3] → cr.rank = d.rank → cr.exts = d.exts → cr.fmt = .bf16 →
        ∃ s', exec c s = .next s' ∧ look.2.vxWrite t e d ded false g recs (d.indices.map (fun x =>
          let j := look.1.shufIndex t e x
          (if a.e0 ≤ j then Val.zero.toRes else at_ 0 ⟨j, x.i1, x.i2, x.i3⟩, false))) = .next s') ∧
      (op = .pack → ts.all (fun x => x.rank == d.rank && 2 * x.e0 == d.e0 && [x.e1, x.e2, x.e3] == [d.e1, d.e2, d.e3]) = true → ∃ s', exec c s = .next s' ∧
        look.2.vxWrite t e d ded false g recs (d.indices.map (fun x => (at_ (x.i0 % 2) ⟨x.i0 / 2, x.i1, x.i2, x.i3⟩, false))) = .next s') ∧
      (op = .unpack → ts.all (fun x => x.rank == d.rank && x.e0 == 2 * d.e0 && [x.e1, x.e2, x.e3] == [d.e1, d.e2, d.e3]) = true → ∃ s', exec c s = .next s' ∧
        look.2.vxWrite t e d ded false g recs (d.indices.map (fun x => (at_ 0 ⟨2 * x.i0 + ctrlImm e.ctrl % 2, x.i1, x.i2, x.i3⟩, false))) = .next s')

/-- Rescale, drain, the function tables, drop-out and completion (R105-R107, R206, R235, R243-R257): rescale multiplies by its record's M and 2^-S; drain frees a finished tile unread; ftld takes a valid record at its
completion; fn applies the value table and fnd the derivative table; drop keeps an element where its random word reaches THRESH; a reserved bit in the descriptor that names a record is UB-01 (R8); a completion frees the consumed tile, loads the
table, deposits the summary and signals. Which NaN fnd passes on where both operands are NaN follows R84 as the model reads it (DEDUCED, log 27). -/
def Obligations.VectorSpecial : Prop :=
  ∀ (t : TileId) (s s1 : State) (e : QEntry) (g : Option Nat),
    (VxGo t e g s1 s →
      (e.op = .vx .drain → ∃ s', exec (.vxDrain t) s = .next s' ∧ (∀ k, s'.byte k = s.byte k) ∧
        ∃ dep, (s'.tile t).flights = (s1.tile t).flights ++ [⟨.vx, e.signal, ctrlSdst e.ctrl, dep, decide (ctrlSumk e.ctrl ≠ 0), false, .vector g none, { Stake.none with entries := namedEntries e.named }⟩]) ∧
      ((e.op = .vx .ftld ∧ descPlain e.dB = false → exec (.vxFtld t) s = .fault (.undefined (.ub 1))) ∧
        (e.op = .vx .rescale ∧ descPlain e.dC = false → exec (.vxRescale t) s = .fault (.undefined (.ub 1))) ∧
        (e.op = .vx .drop ∧ descPlain e.dC = false → exec (.vxDrop t) s = .fault (.undefined (.ub 1)))) ∧
      (e.op = .vx .ftld → descPlain e.dB = true → let r := descBase e.dB
        (r % 16 = 0 → inTileStore t r 3136 = true → s1.recRaced (.unit t .vx) (recBytes r 3136) = true → exec (.vxFtld t) s = .fault (.undefined (.ub 13))) ∧
        (r % 16 = 0 → inTileStore t r 3136 = true → s1.recRaced (.unit t .vx) (recBytes r 3136) = false → ∀ T, tableOf (s1.bytes r 3136) = .ok T → ∃ s', exec (.vxFtld t) s = .next s' ∧
          (s'.tile t).vt = (s.tile t).vt ∧ (s'.tile t).dt = (s.tile t).dt ∧
          ∃ dep, (s'.tile t).flights = (s1.tile t).flights ++
            [⟨.vx, e.signal, ctrlSdst e.ctrl, dep, decide (ctrlSumk e.ctrl ≠ 0), false, .vector none (some (decide (ctrlImm e.ctrl % 2 = 1), s1.bytes r 3136)), { Stake.none with recs := recBytes r 3136, entries := namedEntries e.named }⟩])) ∧
      (∀ d ded, vxOperand none e.dA e.eA = .ok (d, ded) → tileShape g d = true → ∀ n ins vs book, vxInputs none e g n = .ok ins →
        let look := s1.look (.unit t .vx) (vxReads ins)
        let recs := vxBooks d ins
        look.1.vxAll t d ins = .ok vs → s1.book (.da (.tile t)) d = .ok book →
        (e.op = .vx .rescale → descPlain e.dC = true → n = 1 → let r := descBase e.dC
          r % 16 = 0 → inTileStore t r 528 = true → d.empty = true ∨ (s1.byte (r + 0x200) < 64 ∧ s1.byte (r + 0x201) < 2 ∧ (s1.bytes (r + 0x202) 14).any (· ≠ 0) = false) →
          let rec_ := if d.empty then [] else recBytes r 528
          s1.vxCheck t true d d ded ins [] rec_ = none → ∃ s', exec (.vxRescale t) s = .next s' ∧
            look.2.vxWrite t e d ded false g (recs ++ rec_) ((d.indices.zip (vs.headD [])).map (fun xa =>
              let m := sext 32 (s1.le (r + 4 * (if s1.byte (r + 0x201) = 1 then 0 else xa.1.i0)) 4)
              (((xa.2.mul (.fin (m < 0) m.natAbs 0)).toRes).shift (-(s1.byte (r + 0x200) : Int)), false))) = .next s') ∧
        (e.op = .vx .fn → n = (if ctrlImm e.ctrl / 32 = 1 then 2 else 1) → s1.vxCheck t true d d ded ins [] [] = none → ∃ s', exec (.vxFn t) s = .next s' ∧
          look.2.vxWrite t e d ded false g recs ((List.range d.size).map (fun i =>
            let a := (vs.getD 0 []).getD i Val.zero
            let b := (vs.getD 1 []).getD i Val.zero
            let y := tableAt (s.tile t).vt (if ctrlImm e.ctrl / 32 = 1 then a.sub b else a)
            ((f32Val y.1).toRes, y.2))) = .next s') ∧
        (e.op = .vx .fnd → n = 2 → s1.vxCheck t true d d ded ins [] [] = none → ∃ s', exec (.vxFnd t) s = .next s' ∧
          look.2.vxWrite t e d ded false g recs ((List.range d.size).map (fun i =>
            let y := tableAt (s.tile t).dt ((vs.getD 0 []).getD i Val.zero)
            ((nanFirst [(vs.getD 0 []).getD i Val.zero, (vs.getD 1 []).getD i Val.zero] (((vs.getD 1 []).getD i Val.zero).mul (f32Val y.1))).toRes, y.2))) = .next s') ∧
        (e.op = .vx .drop → descPlain e.dC = true → n = 1 → let r := descBase e.dC
          r % 32 = 0 → inTileStore t r 32 = true → d.empty = true ∨ s1.le (r + 22) 2 = 0 → let rec_ := if d.empty then [] else recBytes r 32
          s1.vxCheck t true d d ded ins [] rec_ = none →
          ∃ s', exec (.vxDrop t) s = .next s' ∧
            look.2.vxWrite t e d ded false g (recs ++ rec_) ((d.indices.zip (vs.headD [])).map (fun xa =>
              let kept := s1.le (r + 12) 4 ≤ dropWord (s1.le r 8) (s1.le (r + 8) 4) (s1.le (r + 16) 6) (dropIndex d e.sv.toNat (s1.le (r + 28) 4) xa.1)
              (((xa.2.mul (if kept then f32Val (BitVec.ofNat 32 (s1.le (r + 24) 4)) else Val.zero)).toRes).shift (ctrlExp e.ctrl), false))) = .next s'))) ∧
    (∀ f rest, s.gated t = false → takeFlight (fun f => f.queue == .vx) (s.tile t).flights = some (f, rest) → f.overwritten = false →
      ∃ s', exec (.vectorCompletion t) s = .next s' ∧ (s'.tile t).flights = rest ∧
        (∀ h tb, f.work = .vector (some h) tb → ((s'.tile t).group h) = { (s.tile t).group h with st := .free }) ∧
        (∀ fr der b T, f.work = .vector fr (some (der, b)) → tableOf b = .ok T →
          (s'.tile t).dt = (if der then T else (s.tile t).dt) ∧ (s'.tile t).vt = (if der then (s.tile t).vt else T)) ∧
        (f.sdst ≠ 0 → f.hasDep = true → (s'.tile t).sreg f.sdst = f.dep) ∧
        (∀ k, (s'.tile t).token k = if k = 0 then 0 else if k = f.signal then min 255 ((s.tile t).token k + 1) else (s.tile t).token k) ∧
        TileOnly t (fun _ => False) [] [] s s')

/-- The exact arithmetic under the engines (R82, R90, R185, R236): sum, difference, product and scaling of finite values are exact rationals, comparison is the rationals', infinities and NaNs propagate; the value of every FP32 word that is no NaN rounds to that word. -/
def Obligations.ExactArithmetic : Prop :=
  (∀ x : F32, (f32Val x).isNan = false → f32Of (f32Val x) = x) ∧ ∀ a b : Val, (a.isFin = true → b.isFin = true →
      (a.add b).isFin = true ∧ valRat (a.add b) = valRat a + valRat b ∧ (a.sub b).isFin = true ∧ valRat (a.sub b) = valRat a - valRat b ∧
      (a.mul b).isFin = true ∧ valRat (a.mul b) = valRat a * valRat b ∧ (a.lt b = true ↔ valRat a < valRat b) ∧
      (a.isZero = true ↔ valRat a = 0) ∧ resRat a.toRes = valRat a ∧ ∀ k : Int, resRat (a.toRes.shift k) = valRat a * 2 ^ k) ∧
    (a.isNan = true → (a.add b).isNan = true ∧ (b.add a).isNan = true ∧ (a.mul b).isNan = true ∧ (b.mul a).isNan = true ∧ a.lt b = false) ∧
    (∀ n, a = .inf n → b.isFin = true → a.add b = .inf n ∧ (b.isZero = true → (a.mul b).isNan = true)) ∧
    (∀ n, a = .inf n → b = .inf n → a.add b = .inf n) ∧ (∀ n, a = .inf n → b = .inf (!n) → (a.add b).isNan = true)

/-! ### Drovers (chapter 7) -/

/-- Transfers of tiles (R262-R275, R100, R291, R299, R509, R519): a transfer starts on the least loaded engine of the tile's die and class, with its operands' tensor scales; it moves its rows at once, or keeps them while its
accesses are held; one whose operands name no element moves nothing; one that breaks a rule stops as undefined. A copied row is S's codes, a gathered row beyond the table is +0, scadd rounds the sum of the old value and S's to nearest even. A completion signals, and is held while its die is quiesced, a host port that it is read back over is down, an earlier batch has not committed, or
the page map cannot be reached (R275, R284, R292, R509, R537); the bytes of a batch that fault program nothing (R51). Operands that name no element move, read and count nothing (log 51, R74); a row beyond the table takes no conversion counts (log 28). -/
def Obligations.DroverTransfers : Prop :=
  (∀ (t : TileId) (s : State) (e : QEntry) (o : DvOp) (g : Nat), DvGo t o e g s →
    let r : XReq := ⟨o, e.dA, e.dB, e.dC, e.eA, e.eB, e.ctrl⟩
    let f : Flight := ⟨.dv, e.signal, 0, 0, false, false, .transfer s.nextId, Stake.none⟩
    let x (p : XPlan) : Xfer := ⟨s.nextId, .tile t, t.val / 160, g, r, false, 0, 0, 0, false, [], s.tScale p.d, s.tScale p.s, s.xferStake (.tile t) r p⟩
    let began (p : XPlan) : State := { (issued s t .dv e).addFlight t f with nextId := s.nextId + 1, xfers := s.xfers ++ [x p] }
    (∀ y ∈ s.xfers, y.id ≠ s.nextId) →
    (∀ u, r.plan (.tile t) = .error u → exec (dvCmd t o) s = .fault (.undefined u)) ∧
    (∀ p, r.plan (.tile t) = .ok p → p.nothing o = true →
      exec (dvCmd t o) s = .next { began p with xfers := s.xfers ++ [{ x p with moved := true }] }) ∧
    (∀ p, r.plan (.tile t) = .ok p → p.nothing o = false → (began p).xferHeld (x p) p = true → exec (dvCmd t o) s = .next (began p)) ∧
    (∀ p, DvMoves (x p) p (began p) → ∃ s', exec (dvCmd t o) s = .next s' ∧ DvMoved (x p) p (began p) s')) ∧
  (∀ (s : State) (by_ : Issuer) (r : XReq) (p : XPlan) (m : XMode) (q : Ix × Option Ix) (a : Ix), q.2 = some a → r.op ≠ .scadd → m.same = true → p.s.place = 0 → p.s.fmt.bits ≠ 4 →
    p.d.fmt = p.s.fmt → p.d.place = 0 → p.d.e0 = p.s.e0 →
      (s.rowOut by_ r p m q).counts = [] ∧ (s.rowOut by_ r p m q).bytes.map Prod.fst = p.d.rowAddrs p.de q.1 ∧
      ∀ i < p.d.e0, leVal (((s.rowOut by_ r p m q).bytes.map Prod.snd).drop (i * p.d.bytesPer) |>.take p.d.bytesPer) =
        canonCode p.s.fmt (s.elemCode (r.srcSp by_) p.s { a with i0 := i })) ∧
  (∀ (s : State) (by_ : Issuer) (r : XReq) (p : XPlan) (m : XMode) (row : Ix), r.op ≠ .scadd → (s.rowOut by_ r p m (row, none)).counts = [] ∧
    (s.rowOut by_ r p m (row, none)).exact.length = p.d.e0 ∧ ∀ v ∈ (s.rowOut by_ r p m (row, none)).exact, v.2 = Val.zero.toRes) ∧
  (∀ (s : State) (by_ : Issuer) (r : XReq) (p : XPlan) (m : XMode) (q : Ix × Option Ix) (a : Ix), q.2 = some a → r.op = .scadd → p.d.fmt = .fp32 → p.d.place = 0 → p.s.fmt = .fp32 → p.s.place = 0 →
    m.st = 0 → p.d.e0 = p.s.e0 → ∀ i < p.d.e0,
      leVal (((s.rowOut by_ r p m q).bytes.map Prod.snd).drop (4 * i) |>.take 4) =
        (f32Round (((f32Val (BitVec.ofNat 32 (s.elemCode (r.dstSp by_) p.d { q.1 with i0 := i }))).add
          (f32Val (BitVec.ofNat 32 (s.elemCode (r.srcSp by_) p.s { a with i0 := i })))).toRes)).toNat) ∧
  (∀ (s : State) (id : Nat) (x : Xfer) (t : Nat) (f : Flight) (rest : List Flight), s.xfers.find? (fun x => x.id == id) = some x → x.moved = true → x.done = false →
    (s.endHeld x = true → exec (.transferComplete id) s = .next s) ∧ (s.endHeld x = false → x.by_ = .tile t → takeFlight (fun f => f.queue == .dv && f.work == .transfer id) (s.tile t).flights = some (f, rest) → f.sdst = 0 →
    (x.req.op ≠ .coldupd → ∃ s', exec (.transferComplete id) s = .next s' ∧ s'.xfers = s.xfers.filter (fun y => y.id != id) ∧ (s'.tile t).flights = rest ∧
      (∀ k, (s'.tile t).token k = if k = 0 then 0 else if k = f.signal then min 255 ((s.tile t).token k + 1) else (s.tile t).token k) ∧
      (∀ u, u ≠ t → s'.tile u = s.tile u) ∧ ∀ k, deviceKey k → s'.byte k = s.byte k) ∧
    (x.req.op = .coldupd → (x.commit.map Prod.fst).Nodup → s.rangeMapped s.mapBase mapLen = true → ∃ s', exec (.transferComplete id) s = .next s' ∧ s'.xfers = s.xfers.filter (fun y => y.id != id) ∧ (s'.tile t).flights = rest ∧
      (∀ e ∈ x.commit, s.locate x.by_ true e.1 = .flash e.1 → s'.byte e.1 = e.2 % 256) ∧
      (∀ k, deviceKey k → (∀ e ∈ x.commit, s.locate x.by_ true e.1 ≠ .flash k) → (∀ o < mapLen, s.locate .unit false (s.mapBase + o) ≠ .mem k) → s'.byte k = s.byte k) ∧
      (s.batch x = [] → (∀ k, s'.byte k = s.byte k) ∧ s'.reg .drvFlashWearBytes [] = s.reg .drvFlashWearBytes []) ∧
      (s.batch x ≠ [] → s'.rf .drvFlashStatus [] 0 14 ≤ 10000 ∧ ∃ j < 2 ^ 32, s'.reg .drvFlashWearBytes [] =
        (s.reg .drvFlashWearBytes [] + 16384 * ((s.batch x).map (fun e => e.1 / 16384)).dedup.length + j) % 2 ^ 64))))

/-- Memory queues (R281-R284, R295, R36): the doorbell and the control word are taken where the ring's rules hold and rejected or undefined elsewhere; as what a LOG2N that is not 4 to 16 or an INFLIGHT of 0 acts is open (log 52); a posted entry starts once INFLIGHT, FENCE, the ledger and an engine allow
it, but not one that the far exchange posted (R399), nor while the ring's memory is out of reach (log 28); one whose operands name no element moves nothing (log 51, R74); its completion raises DRV_DONE where it asks for it, ends its progress slot, and moves HEAD in order. ENGINE_OWN holds while the paddock is enabled. -/
def Obligations.DroverQueues : Prop :=
  (∀ (q : Fin 256) acc v (s : State), HostOpen 0 .drvQueueTail [q.val] acc v.toNat s →
    let s' := s.ctlApply .drvQueueTail [q.val] acc v.toNat
    (s'.queueOver q = true → exec (.queueDoorbell q acc v) s = .fault (.undefined (.ub 36))) ∧
    (s'.queueOver q = false → s.farOn = true → s.rf .farApplyCfg [] 48 8 = q.val → s'.queueTail q ≠ s.queueTail q → exec (.queueDoorbell q acc v) s = .fault (.undefined (.ub 52))) ∧
    (s'.queueOver q = false → ¬ (s.farOn = true ∧ s.rf .farApplyCfg [] 48 8 = q.val ∧ s'.queueTail q ≠ s.queueTail q) →
      exec (.queueDoorbell q acc v) s = .next s' ∧ (acc = .full → s'.queueTail q = v.toNat % 2 ^ 32) ∧ s' = { s with ctl := s'.ctl } ∧
      ∀ o, o ≠ regOff .drvQueueTail [q.val] → s'.ctlRaw o = s.ctlRaw o)) ∧
  (∀ (q : Fin 256) acc v (s : State), HostOpen 0 .drvQueueCtrl [q.val] acc v.toNat s →
    let s' := s.ctlApply .drvQueueCtrl [q.val] acc v.toNat
    (s.paddockOn = true → s'.rf .drvQueueCtrl [q.val] 30 1 ≠ s.rf .drvQueueCtrl [q.val] 30 1 → ∃ s2, exec (.queueCtrlWrite q acc v) s = .next s2 ∧
      s2.rf .drvQueueCtrl [q.val] 40 1 = 1 ∧ s2.rf .drvQueueCtrl [q.val] 0 40 = s.rf .drvQueueCtrl [q.val] 0 40 ∧ s2 = { s with ctl := s2.ctl }) ∧
    (¬ (s.paddockOn = true ∧ s'.rf .drvQueueCtrl [q.val] 30 1 ≠ s.rf .drvQueueCtrl [q.val] 30 1) →
      (s'.rf .drvQueueCtrl [q.val] 16 5 = s.rf .drvQueueCtrl [q.val] 16 5 ∧ s'.rf .drvQueueCtrl [q.val] 27 3 = s.rf .drvQueueCtrl [q.val] 27 3 ∧
        s'.rf .drvQueueCtrl [q.val] 31 9 = s.rf .drvQueueCtrl [q.val] 31 9 ∨ (s.queueOn q = false ∧ s.queueHead q = s.queueTail q)) →
      exec (.queueCtrlWrite q acc v) s = if s'.queueOn q && s'.queueOver q then .fault (.undefined (.ub 36)) else .next s')) ∧
  (∀ (s : State) (q : Nat), (4 ≤ s.rf .drvQueueCtrl [q] 16 5 → s.rf .drvQueueCtrl [q] 16 5 ≤ 16 → s.queueLog q = s.rf .drvQueueCtrl [q] 16 5) ∧
    (s.rf .drvQueueCtrl [q] 4 4 ≠ 0 → s.queueInflight q = s.rf .drvQueueCtrl [q] 4 4)) ∧
  (∀ (d : Fin 8) acc v (s : State), HostOpen 0 .drvEngineOwn [d.val] acc v.toNat s →
    let s' := s.ctlApply .drvEngineOwn [d.val] acc v.toNat
    (s.paddockOn = false ∨ s'.rf .drvEngineOwn [d.val] 0 16 = s.rf .drvEngineOwn [d.val] 0 16 → exec (.engineOwnWrite d acc v) s = .next s') ∧
    (s.paddockOn = true → s'.rf .drvEngineOwn [d.val] 0 16 ≠ s.rf .drvEngineOwn [d.val] 0 16 → ∃ s2, exec (.engineOwnWrite d acc v) s = .next s2 ∧
      s2.rf .drvEngineOwn [d.val] 0 16 = s.rf .drvEngineOwn [d.val] 0 16 ∧ s2.rf .drvEngineOwn [d.val] 16 1 = 1 ∧ s2 = { s with ctl := s2.ctl })) ∧
  (∀ (q : Fin 256) (s : State) (g : Nat) (r : XReq) (c : Nat) (p : XPlan), let by_ : Issuer := .queue q
    let n := s.queueNext q
    let live := (s.queueXfers q).filter (fun x => !x.done)
    let die := s.rf .drvQueueCtrl [q.val] 27 3
    let read := s.spFaults (s.queueSp q) false (s.queueAddrs q n)
    let s1 : State := match progSlot c with
      | none => read
      | some k => read.progClaim k 1 0 (read.toWrite by_ r)
    let claim : Nat := match progSlot c with
      | none => 0
      | some k => s1.rf .evtProgState [k] 0 32
    let x : Xfer := ⟨s.nextId, by_, die, g, r, false, n, BitVec.ofNat 64 c, claim, false, [], s1.tScale p.d, s1.tScale p.s, s1.xferStake by_ r p⟩
    let began : State := { s1 with nextId := s.nextId + 1, xfers := s.xfers ++ [x] }
    let held : Prop := s.queueOwn q n = true ∨ s.queueInflight q ≤ live.length ∨ s.dieHalted die = true ∨ s.queueCut q = true ∨ s.rdHeld by_ ((s.queueSp q).das (s.queueAddrs q n)) = true
    (s.queueOn q = false ∨ n = s.queueTail q ∨ held ∨ s.drvEngine die (s.flag .drvQueueCtrl [q.val] 30) = none → exec (.queueEntryStart q) s = .next s) ∧
    (s.queueOn q = true → n ≠ s.queueTail q → ¬ held → s.drvEngine die (s.flag .drvQueueCtrl [q.val] 30) = some g →
    queueReq ((s.queueAddrs q n).map (s.spPeek (s.queueSp q))) = .ok (r, c) → (fld c 28 1 = 0 ∨ live = []) → s.ledgerWait [r.d, r.s] = false → (∀ y ∈ s.xfers, y.id ≠ s.nextId) →
    (Quiet [regOff .idAddrFault [], regOff .drvHostFault []] [] s read) ∧
    (∀ k, progSlot c = some k → s1.rf .evtProgState [k] 62 2 = 1 ∧ s1.rf .evtProgState [k] 56 4 = 1 ∧ s1.rf .evtProgState [k] 32 14 = 0 ∧ s1.reg .evtProgPos [k] = 0 ∧
      s1.reg .evtProgTotal [k] = read.toWrite by_ r % 2 ^ 64 ∧ claim = (read.rf .evtProgState [k] 0 32 + 1) % 2 ^ 32 ∧ s1 = { read with ctl := s1.ctl }) ∧
    (r.plan by_ = .ok p → p.nothing r.op = true → exec (.queueEntryStart q) s = .next { began with xfers := s.xfers ++ [{ x with moved := true }] }) ∧
    (r.plan by_ = .ok p → p.nothing r.op = false → began.xferHeld x p = true → exec (.queueEntryStart q) s = .next began) ∧
    (DvMoves x p began → ∃ s', exec (.queueEntryStart q) s = .next s' ∧ DvMoved x p began s' ∧
      (∀ k, progSlot c = some k → r.op ≠ .coldupd → s'.reg .evtProgPos [k] = (dvTo r p (began.indices by_ p)).length % 2 ^ 64)))) ∧
  (∀ (s : State) (id : Nat) (x : Xfer) (q : Fin 256), s.xfers.find? (fun x => x.id == id) = some x → x.moved = true → x.done = false → s.endHeld x = false → x.by_ = .queue q →
    (x.req.op = .coldupd → (x.commit.map Prod.fst).Nodup) →
    (s.xfers.map Xfer.id).Nodup → (∀ y ∈ s.xfers, y.by_ = .queue q → y.done = false) →
    ∃ s', exec (.transferComplete id) s = .next s' ∧ (x.req.op ≠ .coldupd → ∀ k, deviceKey k → s'.byte k = s.byte k) ∧ s'.tiles = s.tiles ∧
      (x.req.op = .coldupd → ∀ e ∈ x.commit, s.locate x.by_ true e.1 = .flash e.1 → s'.byte e.1 = e.2 % 256) ∧
      (x.entry = s.queueHead q → s'.queueHead q = (x.entry + 1) % 2 ^ 32 ∧ s'.xfers = s.xfers.filter (fun y => y.id != id)) ∧
      (x.entry ≠ s.queueHead q → s'.queueHead q = s.queueHead q ∧ s'.xfers = s.xfers.map (fun y => if y.id = id then { y with done := true } else y)) ∧
      (∀ k, s.xferSlot x = some k → s.progOwned k 1 = true → s'.rf .evtProgState [k] 62 2 = 2 ∧ s'.rf .evtProgState [k] 32 14 = 10000) ∧
      (x.req.op ≠ .coldupd → fld x.control.toNat 27 1 = 0 → let t := if fld x.control.toNat 29 1 = 1 then s.raise 0x0201 0 2 q x.entry 0 else s
        s'.ev = t.ev ∧ s'.out = t.out))

/-- The flash cold store (R287, R288, R294, R295, R484): ENABLE going to 0 takes READY away, the page map may not move while it is enabled, READY lets held reads go on; a compaction pass starts when it is asked for or when spare space
runs low, reports in slot 64, and ends with the spare space it has found; neither runs while the map cannot be reached (R509, R519). What the map's bytes hold, and that WEAR grows by the slot's TOTAL, is the model's choice (log 6); a pass runs
whatever ENABLE says (log 30). -/
def Obligations.FlashStore : Prop :=
  (∀ acc v (s : State), HostOpen 0 .drvFlashCtrl [] acc v.toNat s →
    let s' := s.ctlApply .drvFlashCtrl [] acc v.toNat
    (s.flag .drvFlashCtrl [] 63 = true → s'.rf .drvFlashCtrl [] 12 36 ≠ s.rf .drvFlashCtrl [] 12 36 → exec (.flashEnable acc v) s = .fault (.undefined (.ub 39))) ∧
    (s.flag .drvFlashCtrl [] 63 = false → s'.flag .drvFlashCtrl [] 63 = false ∨ s'.rangeMapped s'.mapBase mapLen = true → exec (.flashEnable acc v) s = .next s') ∧
    (s.flag .drvFlashCtrl [] 63 = false → s'.flag .drvFlashCtrl [] 63 = true → s'.rangeMapped s'.mapBase mapLen = false → exec (.flashEnable acc v) s = .fault (.undefined .r4)) ∧
    (s.flag .drvFlashCtrl [] 63 = true → s'.rf .drvFlashCtrl [] 12 36 = s.rf .drvFlashCtrl [] 12 36 → ∃ s2, exec (.flashEnable acc v) s = .next s2 ∧
      s2.flashReady = (s.flashReady && s'.flag .drvFlashCtrl [] 63) ∧ s2.reg .drvFlashCtrl [] = s'.reg .drvFlashCtrl [] ∧ s2 = { s with ctl := s2.ctl })) ∧
  (∀ s : State, s.flag .drvFlashCtrl [] 63 = true → s.flashReady = false → s.halted = false → s.mapHeld = false → (∀ x ∈ s.xfers, x.moved = true) → (s.hostReads.map HostRead.id).Nodup → (∀ r ∈ s.hostReads, r.put = none) →
    s.rangeMapped s.mapBase mapLen = true →
    ∃ s', exec .flashReady s = .next s' ∧ s'.flashReady = true ∧ (∀ k, deviceKey k → (∀ o < mapLen, s.locate .unit false (s.mapBase + o) ≠ .mem k) → s'.byte k = s.byte k) ∧
      (∀ o < mapLen, ∀ k, s.locate .unit false (s.mapBase + o) = .mem k → (∀ j < mapLen, s.locate .unit false (s.mapBase + j) = .mem k → j = o) → s'.memByte k = (Config.mapByte s.free o).toNat) ∧
      s'.hostReads = s.hostReads.filter (fun r => (s.mapLoad.setRf .drvFlashStatus [] 63 1 1).hostHeld r)) ∧
  (∀ s : State, s.flag .drvFlashCtrl [] 63 = false ∨ s.flashReady = true ∨ s.halted = true ∨ s.mapHeld = true → exec .flashReady s = .next s) ∧
  (∀ acc v (s : State), HostOpen 0 .drvFlashCompact [] acc v.toNat s →
    ((accBits acc v.toNat).testBit 63 = true → s.halted = false → s.flash.compacting = false → ∃ s', exec (.compactionStart acc v) s = .next s' ∧ s'.flash.compacting = true ∧ s'.flag .drvFlashCompact [] 62 = true ∧
      s'.rf .evtProgState [64] 62 2 = 1 ∧ s'.rf .evtProgState [64] 56 4 = 4 ∧ s'.reg .evtProgPos [64] = 0 ∧ s' = { s with ctl := s'.ctl, flash := s'.flash, free := s.free + 1 }) ∧
    ((accBits acc v.toNat).testBit 63 = false ∨ s.halted = true ∨ s.flash.compacting = true → exec (.compactionStart acc v) s = .next (s.ctlApply .drvFlashCompact [] acc v.toNat))) ∧
  (∀ (n : Nat) (s : State), n < s.rf .drvFlashCompact [] 0 14 → s.halted = false → s.flash.compacting = false → ∃ s', exec (.compactionAutoStart n) s = .next s' ∧ s'.flash.compacting = true ∧
    s'.flag .drvFlashCompact [] 62 = true ∧ s'.rf .drvFlashStatus [] 0 14 = n ∧ s'.rf .evtProgState [64] 62 2 = 1 ∧ s' = { s with ctl := s'.ctl, flash := s'.flash, free := s.free + 1 }) ∧
  (∀ (n : Nat) (stale : Bool) (s : State), s.flash.compacting = false ∨ s.halted = true ∨ s.mapHeld = true ∨ (stale = true ∧ min 10000 n < 2 * s.rf .drvFlashCompact [] 0 14) → exec (.compactionEnd ⟨n, stale⟩) s = .next s) ∧
  (∀ (n : Nat) (stale : Bool) (s : State), s.flash.compacting = true → s.halted = false → s.mapHeld = false → 2 * s.rf .drvFlashCompact [] 0 14 ≤ min 10000 n ∨ stale = false → s.rangeMapped s.mapBase mapLen = true →
    ∃ s', exec (.compactionEnd ⟨n, stale⟩) s = .next s' ∧ s'.flash.compacting = false ∧ s'.flag .drvFlashCompact [] 62 = false ∧
    s'.rf .drvFlashStatus [] 0 14 = min 10000 n ∧ (s.progOwned 64 4 = true → s'.rf .evtProgState [64] 62 2 = 2 ∧ s'.rf .evtProgState [64] 32 14 = 10000) ∧
    s'.reg .drvFlashWearBytes [] = (s.reg .drvFlashWearBytes [] + s.reg .evtProgTotal [64]) % 2 ^ 64 ∧
    ∀ k, deviceKey k → (∀ o < mapLen, s.locate .unit false (s.mapBase + o) ≠ .mem k) → s'.byte k = s.byte k)

/-- The host's memory window (R53-R56, R68, R204, R288, R391, R467, R470, R509, R519): a read returns the bytes of its window, faulting bytes as zero, or is held; a write stores its bytes and nothing else, or is held, or is undefined by what it
meets; a request beyond the window's 1 TiB is none. A held access goes on once nothing holds it, and so does a held transfer. What a read of a port whose link is held down would return is lost (log 10); a transfer whose operands name no element moves nothing (log 51, R74). -/
def Obligations.HostMemory : Prop :=
  (∀ (port : Fin 2) (off : Nat) (req : MemReq) (s : State), s.hostUp port = false ∨ 2 ^ 40 < off + (match req with | .read n => n | .write b => b.length) →
    exec (.memoryWindowAccess port off req) s = .next s) ∧
  (∀ (port : Fin 2) (off : Nat) (s : State), s.hostUp port = true →
    let da := s.rf .idMemwin [port.val] 30 18 * 2 ^ 30 + off
    let das (n : Nat) := (List.range n).map (da + ·)
    let h : Issuer := .host port
    (∀ n, off + n ≤ 2 ^ 40 → (∀ a, da ≤ a → a < da + n → inCtlRange a = false) →
      let seen := (s.look .other (s.spKeys (.da h) false (das n))).1
      (s.rdHeld h (das n) = true → exec (.memoryWindowAccess port off (.read n)) s = .next { s with nextId := s.nextId + 1, hostReads := s.hostReads ++ [⟨s.nextId, port, da, n, none⟩] }) ∧
      (s.rdHeld h (das n) = false → ∃ s' l, exec (.memoryWindowAccess port off (.read n)) s = .next s' ∧ Quiet [regOff .idAddrFault []] [] s { s' with out := s.out, free := s.free } ∧
        s'.out = s.out ++ l ++ [.memData port ((List.range n).map (fun i => BitVec.ofNat 8 (seen.peek h (da + i))))]) ∧
      (Alone s .other (s.spKeys (.da h) false (das n)) → seen = s)) ∧
    ∀ b : List Byte, off + b.length ≤ 2 ^ 40 → (∀ a, da ≤ a → a < da + b.length → inCtlRange a = false ∧ inFlash a = false) →
      (s.wrHeld h (das b.length) = true → exec (.memoryWindowAccess port off (.write b)) s =
        .next { s with nextId := s.nextId + 1, hostReads := s.hostReads ++ [⟨s.nextId, port, da, b.length, some (b.map BitVec.toNat)⟩] }) ∧
      (s.wrHeld h (das b.length) = false → s.breach = none → (s.flag .ledBase [] 63 = true → ∀ a, da ≤ a → a < da + b.length → a < s.entryAddr 0 ∨ s.entryAddr 0 + 2 ^ 20 ≤ a) →
        (∀ u, s.wrBreach (s.landing h (das b.length)) = some u → exec (.memoryWindowAccess port off (.write b)) s = .fault (.undefined u)) ∧
        (s.wrBreach (s.landing h (das b.length)) = none → Alone s .other (s.spKeys (.da h) true (das b.length)) →
          ∃ s', exec (.memoryWindowAccess port off (.write b)) s = .next s' ∧
            (∀ i, (hi : i < b.length) → ∀ k, s.locate h true (da + i) = .mem k → (∀ j, i < j → j < b.length → s.locate h true (da + j) ≠ .mem k) → s'.byte k = (b[i]'hi).toNat) ∧
            (∀ k, deviceKey k → (∀ i, i < b.length → s.locate h true (da + i) ≠ .mem k) → s'.byte k = s.byte k) ∧
            (∀ o, o ∉ eventRegs → o ≠ regOff .idAddrFault [] → s'.ctlRaw o = s.ctlRaw o) ∧ s'.tiles = s.tiles))) ∧
  ∀ (id : Nat) (c : Instr) (s : State), c = .heldGroupRead id ∨ c = .applyWaitRead id →
    (∀ r, s.hostReads.find? (fun r => r.id == id) = some r → let das := (List.range r.n).map (r.da + ·)
      (s.hostHeld r = true → exec c s = .next s) ∧
      (r.put = none → s.rdHeld (.host r.port) das = s.hostHeld r) ∧ (r.put ≠ none → s.wrHeld (.host r.port) das = s.hostHeld r) ∧
      (s.hostHeld r = false → r.put = none → (∀ a ∈ das, inCtlRange a = false) → ∃ s' l, exec c s = .next s' ∧ s'.hostReads = s.hostReads.filter (fun q => q.id != id) ∧
        let seen := (s.look .other (s.spKeys (.da (.host r.port)) false das)).1
        s'.out = s.out ++ l ++ (if s.linkHeld r.port then [] else [.memData r.port ((List.range r.n).map (fun i => BitVec.ofNat 8 (seen.peek (.host r.port) (r.da + i))))])) ∧
      (∀ b, s.hostHeld r = false → r.put = some b → b.length = r.n → s.breach = none → (s.flag .ledBase [] 63 = true → ∀ a ∈ das, a < s.entryAddr 0 ∨ s.entryAddr 0 + 2 ^ 20 ≤ a) → s.wrBreach (s.landing (.host r.port) das) = none →
        Alone s .other (s.spKeys (.da (.host r.port)) true das) → ∃ s', exec c s = .next s' ∧ s'.hostReads = s.hostReads.filter (fun q => q.id != id) ∧
          ∀ i < r.n, ∀ k, s.locate (.host r.port) true (r.da + i) = .mem k → (∀ j, i < j → j < r.n → s.locate (.host r.port) true (r.da + j) ≠ .mem k) → s'.byte k = b.getD i 0 % 256)) ∧
    (s.hostReads.find? (fun r => r.id == id) = none → ∀ x p, s.xfers.find? (fun x => x.id == id) = some x → x.moved = false → x.req.plan x.by_ = .ok p →
      (p.nothing x.req.op = true → exec c s = .next (s.setXfer id (fun y => { y with moved := true }))) ∧
      (p.nothing x.req.op = false → s.xferHeld x p = true → exec c s = .next s) ∧
      (DvMoves x p s → ∃ s', exec c s = .next s' ∧ DvMoved x p s s'))


/-! ### Ledger, run record, flocks (chapter 8) -/

/-- The ledger's registers and initialisation, the norm check and the run record (R309, R310, R318, R324, R330, R331): each write's result in the registers, the event of a verdict, of a loss that is not finite and of a spike, and the entries that LED.INIT writes: an ACTIVE one among them is undefined (UB-41);
an initialisation or a step close whose stacks are held waits for them (R509, R519). The norm is judged on the value written, and a write of the other half does nothing (log 31). -/
def Obligations.LedgerAndRun : Prop :=
  (∀ acc v (s : State), HostOpen 0 .ledNorm [] acc v.toNat s → acc ≠ .high →
    let k := normTable (BitVec.ofNat 32 (v.toNat % 2 ^ 32)) (BitVec.ofNat 32 (s.rf .ledNormTh [] 32 32)) (BitVec.ofNat 32 (s.rf .ledNormTh [] 0 32))
    ∃ s', exec (.normCheck acc v) s = .next s' ∧ s'.flag .ledNorm [] 63 = true ∧ s'.flag .ledNorm [] 62 = (s.flag .ledNorm [] 62 || decide (2 ≤ k.1)) ∧ s'.rf .ledNorm [] 60 2 = k.1 ∧
      s'.rf .ledNormOut [] 0 32 = k.2.1.toNat ∧ s'.rf .ledNormOut [] 32 32 = k.2.2.toNat ∧ Quiet [regOff .ledNorm [], regOff .ledNormOut []] [] s s' ∧
      (let t := if 2 ≤ k.1 then s.raise 0x0308 k.1 0 0 s.stepNo (v.toNat % 2 ^ 32) else s
       s'.ev = t.ev ∧ s'.out = t.out)) ∧
  (∀ acc v (s : State), HostOpen 0 .ledInit [] acc v.toNat s → (accBits acc v.toNat).testBit 63 = true →
    let w := s.ctlApply .ledInit [] acc v.toNat
    let first := w.rf .ledInit [] 0 12
    let count := w.rf .ledInit [] 12 13
    (count = 0 ∨ 4096 < first + count ∨ s.flag .ledInit [] 62 = true → ∃ s', exec (.ledgerInit acc v) s = .next s' ∧ s'.flag .ledInit [] 61 = true ∧ s' = { s with ctl := s'.ctl }) ∧
    (count ≠ 0 → first + count ≤ 4096 → s.flag .ledInit [] 62 = false → (∃ n, first ≤ n ∧ n < first + count ∧ fld (s.entryLe n 0 8) 0 1 = 1) → exec (.ledgerInit acc v) s = .fault (.undefined (.ub 41))) ∧
    (count ≠ 0 → first + count ≤ 4096 → s.flag .ledInit [] 62 = false → LedgerMapped s → (∀ n, first ≤ n → n < first + count → fld (s.entryLe n 0 8) 0 1 = 0) →
      (s.wrHeld .unit (((List.range count).map (first + ·)).map s.entryAddr) = true → ∃ s', exec (.ledgerInit acc v) s = .next s' ∧ s'.flag .ledInit [] 62 = true ∧ s'.initHeld = some (first, count) ∧ s'.mem = s.mem) ∧
      (s.wrHeld .unit (((List.range count).map (first + ·)).map s.entryAddr) = false → ∃ s', exec (.ledgerInit acc v) s = .next s' ∧ s'.flag .ledInit [] 62 = true ∧ Initialised first count s s'))) ∧
  (∀ s : State, (s.initHeld = none → exec .ledgerInitComplete s = .next (s.setRf .ledInit [] 62 1 0)) ∧
    ∀ first count, s.initHeld = some (first, count) → (s.wrHeld .unit (((List.range count).map (first + ·)).map s.entryAddr) = true → exec .ledgerInitComplete s = .next s) ∧
      (s.wrHeld .unit (((List.range count).map (first + ·)).map s.entryAddr) = false → LedgerMapped s → first + count ≤ 4096 →
        ∃ s', exec .ledgerInitComplete s = .next s' ∧ s'.flag .ledInit [] 62 = false ∧ s'.initHeld = none ∧ Initialised first count s s')) ∧
  (∀ acc v (s : State), HostOpen 0 .ledRunLoss [] acc v.toNat s → acc ≠ .high →
    let x := v.toNat % 2 ^ 32
    let l := f32Val (BitVec.ofNat 32 x)
    let n := s.rf .ledRunStatus [] 0 32
    let mean := f32Val (BitVec.ofNat 32 (s.rf .ledRunStats [] 0 32))
    let var := f32Val (BitVec.ofNat 32 (s.rf .ledRunStats [] 32 32))
    let k : Int := s.rf .ledRunCtrl [] 0 4
    let grown := var.add (((l.sub mean).mul (l.sub mean)).shift (-k))
    (l.isFin = false → exec (.runLossWrite acc v) s = .next (s.raise 0x0307 0 0 0 s.stepNo 0)) ∧
    (l.isFin = true → n = 0 → ∃ s', exec (.runLossWrite acc v) s = .next s' ∧ s'.reg .ledRunStats [] = x ∧ s'.rf .ledRunStatus [] 0 32 = 1 ∧ s' = { s with ctl := s'.ctl }) ∧
    (l.isFin = true → n ≠ 0 → ∃ s', exec (.runLossWrite acc v) s = .next s' ∧ s'.rf .ledRunStats [] 0 32 = (f32Of (mean.add ((l.sub mean).shift (-k)))).toNat ∧
      s'.rf .ledRunStats [] 32 32 = (f32Of (grown.sub (grown.shift (-k)))).toNat ∧ s'.rf .ledRunStatus [] 0 32 = min 0xFFFFFFFF (n + 1) ∧
      s'.rf .ledRunStatus [] 32 32 = (f32Round (lossZ (l.sub mean) var)).toNat ∧ Quiet [regOff .ledRunStats [], regOff .ledRunStatus []] [] s s' ∧
      let zth := f32Val (BitVec.ofNat 32 (s.rf .ledRunCtrl [] 32 32))
      let t := if zth.isZero = false ∧ s.rf .ledRunCtrl [] 16 16 ≤ n ∧ resAbove (lossZ (l.sub mean) var) zth = true then s.raise 0x0306 0 0 0 s.stepNo (x + (f32Round (lossZ (l.sub mean) var)).toNat * 2 ^ 32) else s
      s'.ev = t.ev ∧ s'.out = t.out)) ∧
  (∀ acc v (s : State), HostOpen 0 .ledRunCtrl [] acc v.toNat s → (accBits acc v.toNat).testBit 4 = true → ∃ s', exec (.runClear acc v) s = .next s' ∧ s'.reg .ledRunStats [] = 0 ∧ s'.reg .ledRunStatus [] = 0 ∧
    s'.reg .ledRunCtrl [] = ctlMerge .ledRunCtrl acc (s.reg .ledRunCtrl []) v.toNat ∧ s' = { s with ctl := s'.ctl }) ∧
  ∀ s : State, (s.flag .ledClose [] 63 = true → s.closeHeld = false → ∃ s', exec .stepCloseComplete s = .next s' ∧ s'.flag .ledClose [] 63 = false ∧ s'.rf .ledClose [] 0 48 = s.closeStep % 2 ^ 48 ∧
      s' = { s with ctl := s'.ctl }) ∧
    (s.flag .ledClose [] 63 = true → s.closeHeld = true → s.entriesHeld allEntries = false → s.flag .ledBase [] 63 = true → ∃ s', exec .stepCloseComplete s = .next s' ∧ s'.closeHeld = false ∧ s'.flag .ledClose [] 63 = false ∧
      s'.rf .ledClose [] 0 48 = s.closeStep % 2 ^ 48 ∧ ∀ k, s'.byte k = (State.stepClose { s with closeHeld := false } s.closeStep).byte k) ∧
    (s.flag .ledClose [] 63 = false ∨ (s.closeHeld = true ∧ s.entriesHeld allEntries = true) → exec .stepCloseComplete s = .next s)

/-- The step close of an active entry (R323, R326, R327): its step counters are zero, its STEP names the step; with counted elements its history takes AMAX in front; its tallies grow and TSAT marks those that saturate, the scale-miss flag compares the
step's misses with the threshold; under delayed scaling with a full history of some magnitude CUR_T is the exponent that the largest value asks for, else it stays; an update's LR_EXP follows the largest value of its history; an update whose
pair has counted elements takes the ratio and its average, whose limits set RATIO_LOW and RATIO_HIGH (R328, R329); a gradient's streak counts steps without a nonzero element. An entry that is not active keeps every byte. -/
def Obligations.StepClose : Prop :=
  ∀ (s : State) (step n : Nat), LedgerMapped s → s.flag .ledBase [] 63 = true → n < 4096 → step < 2 ^ 48 →
    let s' := s.stepClose step
    let c := s.closing n
    let st := s'.entryLe n 0xC0 8
    (s.entriesHeld allEntries = true → s'.flag .ledClose [] 63 = true ∧ s'.closeStep = step ∧ s'.closeHeld = true ∧ s'.mem = s.mem) ∧
    (s.entriesHeld allEntries = false → s'.flag .ledClose [] 63 = true ∧ s'.closeStep = step ∧
    (fld c.cfg 0 1 = 0 → ∀ o < 256, s'.peek .unit (s.entryAddr n + o) = s.peek .unit (s.entryAddr n + o)) ∧
    (fld c.cfg 0 1 = 1 →
      (∀ o, 0x40 ≤ o → o < 0x80 → s'.peek .unit (s.entryAddr n + o) = 0) ∧ s'.entryLe n 0xE0 6 = step ∧ s'.entryLe n 0 8 = c.cfg ∧
      (∀ k, k ∈ [(0xD0, c.sat), (0xD4, c.ftz), (0xD8, c.nf)] → s'.entryLe n k.1 4 = min 0xFFFFFFFF (s.entryLe n k.1 4 + k.2)) ∧
      (c.wcount = 0 → ∀ h < 16, s'.entryLe n (0x80 + 4 * h) 4 = s.entryLe n (0x80 + 4 * h) 4) ∧
      (c.wcount ≠ 0 → (∀ h < 15, s'.entryLe n (0x84 + 4 * h) 4 = s.entryLe n (0x80 + 4 * h) 4) ∧ (c.role ≠ 3 → s'.entryLe n 0x80 4 = c.amax) ∧
        (c.role = 3 → s'.entryLe n 0x80 4 = (f32Up ((f32Mag (BitVec.ofNat 32 c.amax)).shift (-(lrExp c.st)))).toNat) ∧ histCnt st = min 16 (histCnt c.st + 1) ∧ fld st 21 1 = if 15 ≤ histCnt c.st then 1 else 0) ∧
      (c.wcount = 0 → histCnt st = histCnt c.st ∧ fld st 21 1 = fld c.st 21 1) ∧
      (∀ j < 3, (s'.entryLe n 0xDC 4).testBit j = ((s.entryLe n 0xDC 4).testBit j ||
        decide (0xFFFFFFFF < s.entryLe n (0xD0 + 4 * j) 4 + [c.sat, c.ftz, c.nf].getD j 0 ∨ [c.sat, c.ftz, c.nf].getD j 0 = 0xFFFFFFFF))) ∧
      fld st 26 1 = (if s.entryLe n 0x10 4 ≠ 0 ∧ s.entryLe n 0x10 4 ≤ c.sat + c.ftz then 1 else 0) ∧
      (let scaled : Prop := fld c.cfg 1 1 = 1 ∧ c.role ≠ 3 ∧ fld st 21 1 = 1 ∧ (∃ f, Fmt.ofCode (fld c.cfg 32 4) = some f ∧ f.tensorScaled = true) ∧ ∃ h < 16, s'.entryLe n (0x80 + 4 * h) 4 ≠ 0
       (¬ scaled → fld st 0 8 = fld c.st 0 8) ∧
        (scaled → ∀ f, Fmt.ofCode (fld c.cfg 32 4) = some f → ∃ h < 16, (∀ j < 16, s'.entryLe n (0x80 + 4 * j) 4 ≤ s'.entryLe n (0x80 + 4 * h) 4) ∧
          sext 8 (fld st 0 8) = max (-127) (min 127 (((f32Mag (BitVec.ofNat 32 (s'.entryLe n (0x80 + 4 * h) 4))).divDy (fitMax f [])).ceilLog2 + fld c.cfg 36 4)))) ∧
      (let rated : Prop := c.role = 3 ∧ ∃ h < histCnt st, s'.entryLe n (0x80 + 4 * h) 4 ≠ 0
       histCnt st ≤ 16 → (¬ rated → fld st 8 8 = fld c.st 8 8) ∧
        (rated → ∃ h < histCnt st, (∀ j < histCnt st, s'.entryLe n (0x80 + 4 * j) 4 ≤ s'.entryLe n (0x80 + 4 * h) 4) ∧
          sext 8 (fld st 8 8) = max (-32) (min 31 (-(f32Mag (BitVec.ofNat 32 (s'.entryLe n (0x80 + 4 * h) 4))).ceilLog2)))) ∧
      (let w := s.closing (fld c.cfg 52 12)
       let paired : Prop := c.role = 3 ∧ fld w.cfg 0 1 = 1 ∧ c.wcount ≠ 0 ∧ w.wcount ≠ 0 ∧ w.sq ≠ 0
       let r := f32Round ((Res.fin false ⟨c.sq * w.wcount, c.wcount * w.sq, true⟩).shift (-(lrExp c.st)))
       let old := f32Val (BitVec.ofNat 32 (s.entryLe n 0xC8 4))
       let ema := if fld c.st 22 1 = 0 then r else f32Of (old.add (((f32Val r).sub old).shift (-(fld c.cfg 40 4 : Nat))))
       let lo : F32 := BitVec.ofNat 32 (s.entryLe n 8 4)
       let hi : F32 := BitVec.ofNat 32 (s.entryLe n 12 4)
       let below := !(f32Val lo).isZero && f32Lt ema lo
       let above := !(f32Val hi).isZero && f32Lt hi ema
       (¬ paired → s'.entryLe n 0xC8 8 = s.entryLe n 0xC8 8 ∧ fld st 22 3 = fld c.st 22 3) ∧
        (paired → s'.entryLe n 0xCC 4 = r.toNat ∧ s'.entryLe n 0xC8 4 = ema.toNat ∧ fld st 22 1 = 1 ∧
          fld st 23 1 = bit (below || (fld c.st 23 1 == 1 && !f32Ge ema lo)) ∧ fld st 24 1 = bit (above || (fld c.st 24 1 == 1 && !f32Ge hi ema)))) ∧
      (c.role = 2 → c.wcount ≠ 0 → fld st 32 16 = if c.nz = 0 then min 65535 (fld c.st 32 16 + 1) else 0) ∧
      (c.role = 2 → c.wcount ≠ 0 → fld st 25 1 = if c.nz = 0 ∧ (fld c.st 25 1 = 1 ∨ (fld c.cfg 44 8 ≠ 0 ∧ fld c.cfg 44 8 ≤ min 65535 (fld c.st 32 16 + 1))) then 1 else 0) ∧
      (¬ (c.role = 2 ∧ c.wcount ≠ 0) → fld st 32 16 = fld c.st 32 16 ∧ fld st 25 1 = fld c.st 25 1)))

/-- Flocks (R335-R340): a window's end captures the digest, zeroes the slots and begins a collection; the bellwether records each member's digest of a step once and concludes a collection with the verdicts of R337: the oldest that every member has reported to, else the oldest; a
verdict reaches the member that waits for it; MINORITY and NO_MAJORITY set HOLD and MINORITY starts the recopy; a member that hears nothing takes TIMEOUT; clearing HOLD tells the bellwether with its STEP,
which then counts the member again; the windows still collected when the holds were set read VOID (R340). A MEMBER that is no place of this module in the table is undefined (UB-44), so is a window that takes in a slot's value of p or more (UB-43). Which of the complete collections ends first,
and a verdict that comes after this member's own TIMEOUT, are the model's reading (log 32, log 51). -/
def Obligations.Flocks : Prop :=
  (∀ (s : State) (step : Nat), let first := s.rf .ledFlockSlots [] 0 8
    let slots := (List.range (s.rf .ledFlockSlots [] 8 9)).map (first + ·)
    let d := (slots.map s.digestSlot).sum % (2 ^ 127 - 1)
    let s' := s.windowEnd step
    (∀ n ∈ slots, n < 256) → s'.reg .ledFlockDigestLo [] = d % 2 ^ 64 ∧ s'.reg .ledFlockDigestHi [] = d / 2 ^ 64 ∧ (∀ n ∈ slots, s'.digestSlot n = 0) ∧
      (s.breach = none → (s'.breach = none ↔ s.flockDigBusy slots = false ∧ (s.flockSize = 1 ∨ s.keyBad = false) ∧ ∀ n ∈ slots, s.digestSlot n < 2 ^ 127 - 1)) ∧
      (s.flockSize ≠ 1 → s'.flock.awaiting = s.flock.awaiting ++ [step] ∧
        (s.flockMember = 0 → s'.flock.windows = s.flock.windows ++ [(step, s.flock.suspended)] ∧ (s.flockOn = true → ∃ v, (0, step, v) ∈ s'.flock.digests)) ∧
        (s.flockMember ≠ 0 → s'.flock.windows = s.flock.windows ∧ s'.net.outbox = s.net.outbox ++
          [ownMsg s (s.memberModule 0) .dawn (.flockDigest s.flockId s.flockMember step (BitVec.ofNat 64 d) (BitVec.ofNat 64 (d / 2 ^ 64)))]))) ∧
  (∀ (flock i step : Nat) (lo hi : Word) (s : State), s.flockOn = true → s.flockId = flock → s.flockMember = 0 →
    ((∀ d ∈ s.flock.digests, ¬ (d.1 = i ∧ d.2.1 = step)) → exec (.flockDigest flock i step lo hi) s =
      .next { s with flock := { s.flock with digests := s.flock.digests ++ [(i, step, hi.toNat * 2 ^ 64 + lo.toNat)] } }) ∧
    ((∃ d ∈ s.flock.digests, d.1 = i ∧ d.2.1 = step) → exec (.flockDigest flock i step lo hi) s = .next s)) ∧
  (∀ (n : Nat) (void : Bool) (ds : List (Nat × Nat)), (ds.map Prod.fst).Nodup → (∀ d ∈ ds, d.1 < n) →
    let vs := flockVerdicts n void ds
    let agree (x : Nat) : Nat := (ds.filter (fun d => d.2 == x)).length
    vs.map Prod.fst = ds.map Prod.fst ∧
    (void = true → ∀ v ∈ vs, v.2 = (6, 0)) ∧
    (void = false → (∃ x, ∀ d ∈ ds, d.2 = x) → (ds.length = n → ∀ v ∈ vs, v.2 = (1, 0)) ∧ (ds.length < n → ∀ v ∈ vs, v.2.1 = 5 ∧ ∀ i < n, (v.2.2.testBit i = true ↔ i ∉ ds.map Prod.fst))) ∧
    (void = false → (¬ ∃ x, ∀ d ∈ ds, d.2 = x) → (∀ x, ¬ n < 2 * agree x) → ∀ v ∈ vs, v.2 = (4, 0)) ∧
    (void = false → (¬ ∃ x, ∀ d ∈ ds, d.2 = x) → ∀ x, n < 2 * agree x → ∃ src, (src, x) ∈ ds ∧ (∀ d ∈ ds, d.2 = x → src ≤ d.1) ∧
      ∀ d ∈ ds, (d.2 = x → (d.1, 2, 0) ∈ vs) ∧ (d.2 ≠ x → (d.1, 3, src) ∈ vs))) ∧
  (∀ s : State, ((∀ w ∈ s.flock.windows, (s.reported w.1).length ≠ s.flockSize) → s.collectionDue = s.flock.windows.head?) ∧
    ∀ pre w post, s.flock.windows = pre ++ w :: post → (s.reported w.1).length = s.flockSize → (∀ x ∈ pre, (s.reported x.1).length ≠ s.flockSize) → s.collectionDue = some w) ∧
  (∀ s : State, s.flock.windows = [] → s.flockOn = true → Unsent s → exec .flockVerdict s = .next s) ∧
  (∀ (s : State) (step : Nat) (void : Bool), s.collectionDue = some (step, void) → s.flockOn = true → s.flockMember = 0 → Unsent s → (∀ i < 16, s.isLocal (s.memberModule i) = false) →
    let ds := (s.flock.digests.filter (fun d => d.2.1 == step)).map (fun d => (d.1, d.2.2))
    let vs := flockVerdicts s.flockSize void ds
    let rest := s.flock.windows.erase (step, void)
    let held := (vs.filter (fun v => v.2.1 == 3 || v.2.1 == 4)).map Prod.fst
    (ds.map Prod.fst).Nodup → (∀ d ∈ ds, d.1 < 16) →
    ∃ s', exec .flockVerdict s = .next s' ∧ s'.flock.windows = (if held = [] then rest else rest.map (fun w => (w.1, true))) ∧ s'.flock.digests = s.flock.digests.filter (fun d => d.2.1 != step) ∧
      s'.flock.heldMembers = (if held = [] then s.flock.heldMembers else held) ∧
      s'.flock.suspended = (s.flock.suspended || !held.isEmpty) ∧ (∀ k, deviceKey k → s'.byte k = s.byte k) ∧
      (∀ v, (0, v) ∈ vs → step ∈ s.flock.awaiting → v.1 < 8 → s'.flock.awaiting = s.flock.awaiting.erase step ∧ s'.rf .ledFlockStatus [] 60 3 = v.1 ∧ s'.rf .ledFlockStatus [] 0 48 = step % 2 ^ 48 ∧
        (s'.flockHold = true ↔ s.flockHold = true ∨ v.1 = 3 ∨ v.1 = 4))) ∧
  (∀ (flock step verdict source : Nat) (s : State), Unsent s →
    (¬ (s.flockOn = true ∧ s.flockId = flock ∧ step ∈ s.flock.awaiting) → exec (.flockVerdictReceived flock step verdict source) s = .next s) ∧
    (s.flockOn = true → s.flockId = flock → step ∈ s.flock.awaiting → verdict < 8 → step < 2 ^ 48 → source < 16 → s.isLocal (s.memberModule source) = false →
      ∃ s', exec (.flockVerdictReceived flock step verdict source) s = .next s' ∧ s'.flock.awaiting = s.flock.awaiting.erase step ∧
        s'.flock.everHeld = (s.flock.everHeld || verdict == 3 || verdict == 4) ∧ s'.rf .ledFlockStatus [] 60 3 = verdict ∧ s'.rf .ledFlockStatus [] 0 48 = step ∧
        s'.rf .ledFlockStatus [] 56 4 = (if verdict = 3 then source else 0) ∧ (s'.flockHold = true ↔ s.flockHold = true ∨ verdict = 3 ∨ verdict = 4) ∧
        (verdict ≠ 3 → s'.shard = s.shard ∧ s'.flock.recopyWait = s.flock.recopyWait) ∧
        (verdict = 3 → s.flag .denXferCtrl [] 62 = true → s'.flock.recopyWait = some (s.memberModule source) ∧ s'.shard = s.shard) ∧
        (verdict = 3 → s.flag .denXferCtrl [] 62 = false → s'.flag .denXferCtrl [] 62 = true ∧ s'.rf .denXferCtrl [] 0 14 = s.memberModule source ∧ ∃ rs, s'.shard = some ⟨s.memberModule source, rs, rs, false, true⟩ ∧ (s.entryAddr 0 + 2 ^ 20 ≤ 2 ^ 40 → rs = s.shardRanges)))) ∧
  (∀ (s : State) (step : Nat) (rest : List Nat), s.flock.awaiting = step :: rest → s.flockOn = true → step < 2 ^ 48 → Unsent s → ∃ s', exec .flockTimeout s = .next s' ∧ s'.flock.awaiting = rest ∧
    s'.rf .ledFlockStatus [] 60 3 = 5 ∧ s'.rf .ledFlockStatus [] 0 48 = step ∧ s'.flockHold = s.flockHold ∧ s'.shard = s.shard) ∧
  (∀ s : State, s.flock.awaiting = [] → exec .flockTimeout s = .next s) ∧
  (∀ s : State, HostOpen 0 .ledFlockStatus [] .full 0x8000000000000000 s → WaveStill s →
    (s.flockHold = false → ∃ s', exec .holdClear s = .next s' ∧ s'.flockHold = false ∧ s' = { s with ctl := s'.ctl }) ∧
    (s.flockHold = true → s.flockMember = 0 → ∃ s', exec .holdClear s = .next s' ∧ s'.flockHold = false ∧
      s'.flock = { s.flock with heldMembers := s.flock.heldMembers.filter (· != 0) }) ∧
    (s.flockHold = true → s.flockMember ≠ 0 → s.isLocal (s.memberModule 0) = false → ∃ s1, exec .holdClear s =
      .next (sendAll s1 [ownMsg s (s.memberModule 0) .dawn (.cleared s.flockId s.flockMember s.stepNo)]) ∧ s1.flockHold = false ∧ s1 = { s with ctl := s1.ctl })) ∧
  (∀ acc v (s : State), HostOpen 0 .ledFlock [] acc v.toNat s →
    let s' := s.ctlApply .ledFlock [] acc v.toNat
    (s.flockOn = true → s'.flockOn = true → s'.reg .ledFlock [] ≠ s.reg .ledFlock [] → exec (.flockEnableWrite acc v) s = .fault (.undefined (.ub 44))) ∧
    (s'.flockOn = true → s'.flockMisplaced = true → exec (.flockEnableWrite acc v) s = .fault (.undefined (.ub 44))) ∧
    (s'.flockMisplaced = true ↔ s'.flockSize ≤ s'.flockMember ∨ s'.memberModule s'.flockMember ≠ s'.selfId) ∧
    (s'.flockOn = false ∨ (s'.flockMisplaced = false ∧ ((s.flockOn = true ∧ s'.reg .ledFlock [] = s.reg .ledFlock []) ∨ (s.flockOn = false ∧ s.flock.everHeld = true))) → exec (.flockEnableWrite acc v) s = .next s') ∧
    (s.flockOn = false → s'.flockOn = true → s'.flockMisplaced = false → s.flock.everHeld = false → s'.flockMember = 0 →
      exec (.flockEnableWrite acc v) s = .next { s' with flock := { s.flock with
        heldMembers := s.flock.heldMembers.filter (· != 0) } }) ∧
    (s.flockOn = false → s'.flockOn = true → s'.flockMisplaced = false → s.flock.everHeld = false → s'.flockMember ≠ 0 → s.isLocal (s.memberModule 0) = false →
      exec (.flockEnableWrite acc v) s = .next (sendAll s' [ownMsg s (s.memberModule 0) .dawn (.cleared s'.flockId s'.flockMember s.stepNo)]))) ∧
  ∀ (flock i step : Nat) (s : State), (s.flockId = flock → s.flockMember = 0 → exec (.cleared flock ⟨i, step⟩) s =
      .next { s with flock := { s.flock with heldMembers := s.flock.heldMembers.filter (· != i) } }) ∧
    (s.flockId ≠ flock ∨ s.flockMember ≠ 0 → exec (.cleared flock ⟨i, step⟩) s = .next s) ∧
    ∀ (m : Fin 16) acc v, HostOpen 0 .ledFlockMember [m.val] acc v.toNat s → let w := s.ctlApply .ledFlockMember [m.val] acc v.toNat
      exec (.registerWrite 0 (regOff .ledFlockMember [m.val]) acc v) s = if w.flockOn && w.flockMisplaced then .fault (.undefined (.ub 44)) else .next w

/-! ### Near fabric (chapter 9) -/

/-- Ports (R341-R343, R353, R517): ENABLE starts training and takes the port down; RETRAIN is a link reset; a training ends UP, UP_HALF under HALF_OK or FAILED with the peer's identity; a flit sent again is counted; a port that
goes down sets WENT_DOWN, and no lane of it holds lock; DAWN traffic beyond its share sets DAWN_OVER; the route bank switches. That the peer is a fault (UB-45) only when it is this module and its port no live port of it, and that RETRAIN
is a link reset, are the model's readings (log 33). -/
def Obligations.NearPorts : Prop :=
  (∀ (n : Fin 32) acc v (s : State), HostOpen 0 .denPortCtrl [n.val] acc v.toNat s →
    let s' := s.ctlApply .denPortCtrl [n.val] acc v.toNat
    (s.portOn n = false → s'.portOn n = true → exec (.portEnable n acc v) s = .next (s'.setPortSt n 1)) ∧
    (s.portOn n = false → s'.portOn n = false → exec (.portEnable n acc v) s = .next s') ∧
    (s.portOn n = true → s'.portOn n = true → (accBits acc v.toNat).testBit 1 = false → exec (.portEnable n acc v) s = .next s') ∧
    (s.portOn n = true → s'.portOn n = false → ∃ s2, exec (.portEnable n acc v) s = .next s2 ∧ s2.portSt n = 0 ∧ s2.portOn n = false ∧
      (s.portUsable n = true → s2.rf .denPortStatus [n.val] 8 1 = 1) ∧ s2.reg .denLaneStatus [n.val] = s.reg .denLaneStatus [n.val] &&& 0x7F7F7F7F7F7F7F7F ∧
      Quiet [regOff .denPortCtrl [n.val], regOff .denPortStatus [n.val], regOff .denLaneStatus [n.val]] [] s s2)) ∧
  (∀ (n : Fin 32) (s : State), HostOpen 0 .denPortCtrl [n.val] .full (setBits (s.reg .denPortCtrl [n.val]) 1 1 1) s → s.portOn n = true → ∃ s2, exec (.retrain n) s = .next s2 ∧ s2.portSt n = 1 ∧ s2.portOn n = true ∧
    (s.portUsable n = true → s2.rf .denPortStatus [n.val] 8 1 = 1) ∧ s2.isl.running = s.isl.running ++ [⟨5, n, 3, false⟩] ∧ s2.reg .denLaneStatus [n.val] = s.reg .denLaneStatus [n.val] &&& 0x7F7F7F7F7F7F7F7F ∧ (∀ k, deviceKey k → s2.byte k = s.byte k) ∧
    (∀ m, m ≠ n.val → s2.portSt m = s.portSt m)) ∧
  (∀ (n : Fin 32) (s : State), (s.portOn n = true → s.portSt n = 0 ∨ s.portSt n = 4 → exec (.peerTraining n) s = .next (s.setPortSt n 1)) ∧
    (s.portOn n = false ∨ (s.portSt n ≠ 0 ∧ s.portSt n ≠ 4) → exec (.peerTraining n) s = .next s)) ∧
  (∀ (n : Fin 32) (e : TrainEnd) (peer peerPort lanes : Nat) (s : State), peer < 2 ^ 14 → peerPort < 32 → lanes < 2 ^ 64 →
    (s.portSt n ≠ 1 → exec (.linkUp n e peer peerPort lanes) s = .next s) ∧
    (s.portSt n = 1 → e ≠ .failed → peer = s.selfId → peerPort = n.val ∨ s.portSt peerPort = 0 ∨ s.portSt peerPort = 4 → exec (.linkUp n e peer peerPort lanes) s = .fault (.undefined (.ub 45))) ∧
    (s.portSt n = 1 → e = .failed ∨ peer ≠ s.selfId ∨ (peerPort ≠ n.val ∧ s.portSt peerPort ≠ 0 ∧ s.portSt peerPort ≠ 4) → ∃ s', exec (.linkUp n e peer peerPort lanes) s = .next s' ∧
      s'.portSt n = (match e with
        | .up => 2
        | .upHalf => if s.flag .denPortCtrl [n.val] 2 then 3 else 4
        | .failed => 4) ∧ s'.reg .denLaneStatus [n.val] = lanes ∧
      (s'.portUsable n = true → s'.rf .denPortStatus [n.val] 50 14 = peer ∧ s'.rf .denPortStatus [n.val] 45 5 = peerPort) ∧
      Quiet [regOff .denLaneStatus [n.val], regOff .denPortStatus [n.val]] [] s s')) ∧
  (∀ (n : Fin 32) (s : State), s.portUsable n = true →
    (∃ s', exec (.flitRetransmit n) s = .next s' ∧ s'.tallyAt (regOff .denRetry []) = (s.tallyAt (regOff .denRetry [])).add 1 ∧ Quiet [] [regOff .denRetry []] s s') ∧
    (∃ s', exec (.linkDown n) s = .next s' ∧ s'.portSt n = 0 ∧ s'.rf .denPortStatus [n.val] 8 1 = 1 ∧ s'.reg .denLaneStatus [n.val] = s.reg .denLaneStatus [n.val] &&& 0x7F7F7F7F7F7F7F7F ∧
      Quiet [regOff .denPortStatus [n.val], regOff .denLaneStatus [n.val]] [] s s')) ∧
  (∀ (n : Fin 32) (s : State), s.portUsable n = false → exec (.flitRetransmit n) s = .next s ∧ exec (.linkDown n) s = .next s) ∧
  (∀ (n : Fin 32) (bytes : Nat) (s : State), (4288 < bytes → ∃ s', exec (.dawnOver n bytes) s = .next s' ∧ s'.rf .denPortStatus [n.val] 9 1 = 1 ∧ Quiet [regOff .denPortStatus [n.val]] [] s s') ∧
    (bytes ≤ 4288 → exec (.dawnOver n bytes) s = .next s)) ∧
  (∀ acc v (s : State), HostOpen 0 .denRouteCtrl [] acc v.toNat s → acc ≠ .high → ∃ s', exec (.routeSwitch acc v) s = .next s' ∧ s'.flag .denRouteCtrl [] 0 = v.toNat.testBit 0 ∧ s' = { s with ctl := s'.ctl } ∧
    ∀ m, s'.route m = if v.toNat.testBit 0 then s.reg .denRouteB [m] else s.reg .denRouteA [m])

/-- Messages and remote copies (R303, R345, R346, R349, R351, R352, R355, R356): a message for another module leaves by a usable port of its route or counts as unreachable; DAWN takes the lowest port and at most 64 are
outstanding; put and get send their request, are served at their target as a paddock unit's or an ordinary access, and end with the answer; codes and scale bytes arrive unchanged; a read of the ring slot of version CV + 1 is undefined (UB-40).
That one message carries a whole put or get, though the spec's carry at most 4 KiB, is the model's choice (DESIGN CHOICE, log 33), as is an access that a reset or a quiesce holds waiting whole (log 33); "in turn" over one counter of the module is log 51's. -/
def Obligations.NearMessages : Prop :=
  (∀ (n : Fin 32) (m : NetMsg) (s : State),
    (s.portUsable n = false → exec (.messageArrival n m) s = .next s) ∧
    (s.portUsable n = true → s.isLocal m.dst = false → Unsent s →
      (s.routePorts m.dst = [] → ∃ s', exec (.messageArrival n m) s = .next s' ∧ s'.tallyAt (regOff .denUnreach []) = (s.tallyAt (regOff .denUnreach [])).add 1 ∧ Quiet [] [regOff .denUnreach []] s s') ∧
      (∀ p ps, s.routePorts m.dst = p :: ps → s.halted = false → m.cls = .dawn → exec (.messageArrival n m) s =
        .next { s with out := s.out ++ [.net p { m with vc := m.vc || s.flag .denPortCtrl [p] 3 }] }) ∧
      (s.routePorts m.dst ≠ [] → s.halted = false → m.cls ≠ .dawn → ∃ p ∈ s.routePorts m.dst, exec (.messageArrival n m) s =
        .next { s with net := { s.net with rr := s.net.rr + 1 }, out := s.out ++ [.net p { m with vc := m.vc || s.flag .denPortCtrl [p] 3 }] })) ∧
    (s.portUsable n = true → s.isLocal m.dst = true → ∀ da len, m.body = .shardRead da len → Unsent s → s.isLocal m.src = false →
      (s.wrHeld (.remote false) ((List.range len).map (da + ·)) = false → exec (.messageArrival n m) s = .next (sendAll (s.recordFaults (.remote false) false ((List.range len).map (da + ·)))
        [ownMsg s m.src .dusk (.shardData da ((s.peeks (.remote false) da len).map (BitVec.ofNat 8)))])) ∧
      (s.wrHeld (.remote false) ((List.range len).map (da + ·)) = true → exec (.messageArrival n m) s = .next (s.holdMsg m.src .dusk (.shardRead da len))))) ∧
  (∀ s : State, Unsent s → (s.net.dawnOut = 0 → exec .dawnAck s = .next s) ∧
    (s.net.dawnOut ≠ 0 → s.net.dawnHeld = [] → exec .dawnAck s = .next { s with net := { s.net with dawnOut := s.net.dawnOut - 1 } }) ∧
    (∀ m ms, s.net.dawnOut = 64 → s.net.dawnHeld = m :: ms → m.cls = .dawn → s.routePorts m.dst ≠ [] →
      exec .dawnAck s = .next (sendAll { s with net := { s.net with dawnOut := 63, dawnHeld := ms } } [m]))) ∧
  (∀ (s : State) (m : NetMsg), m.cls = .dawn → s.routePorts m.dst ≠ [] → (64 ≤ s.net.dawnOut → s.inject m = { s with net := { s.net with dawnHeld := s.net.dawnHeld ++ [m] } }) ∧
    (s.net.dawnOut < 64 → (s.inject m).net.dawnOut = s.net.dawnOut + 1 ∧ (s.inject m).net.dawnHeld = s.net.dawnHeld)) ∧
  (∀ (t : TileId) (s : State) (e : QEntry) (get : Bool) d de src srcE, EngGo t .lk e s → e.op = .lk (if get then .get else .put) → Unsent s → linkPair e.dA e.eA e.dB e.eB = .ok (d, de, src, srcE) →
    (get = false → (issued s t .lk e).putHeld t e = true → exec (.lkPut t) s = .next s) ∧
    (s.isLocal (fld e.sv.toNat 0 14) = true → (get = true ∨ (issued s t .lk e).putHeld t e = false) → (d.writeAddrs de).any (src.ownBytes srcE).contains = true →
      exec (if get then .lkGet t else .lkPut t) s = .fault (.undefined (.ub 33))) ∧
    (get = false → (issued s t .lk e).putHeld t e = false → (s.isLocal (fld e.sv.toNat 0 14) = true → (d.writeAddrs de).any (src.ownBytes srcE).contains = false) → s.rdBreach (.tile t) (src.writeAddrs srcE) = true →
      exec (.lkPut t) s = .fault (.undefined (.ub 40))) ∧
    let cls : NetClass := if s.isPaddock t = true then .night else if fld e.ctrl 16 2 = 1 then .noon else if fld e.ctrl 16 2 = 2 then .dusk else .night
    let r : Remote := ⟨s.nextId, t, get, if get then e.dA else e.dB, if get then e.eA else e.eB, fld e.sv.toNat 0 14, cls⟩
    let s1 := { issued s t .lk e with nextId := s.nextId + 1, remotes := s.remotes ++ [r] }.addFlight t ⟨.lk, e.signal, 0, 0, false, false, .transfer s.nextId, Stake.none⟩
    let look := (s1.recordFaults (.tile t) false (src.writeAddrs srcE)).lookTens (.unit t .lk) (.tile t) src srcE
    let s2 := if get then s1 else look.2
    let ask : RemoteReq := if get then .get e.dB e.eB else .put e.dA e.eA (look.1.rawTens (.tile t) src srcE)
    (Alone s (.unit t .lk) (s.spKeys (.da (.tile t)) false (src.writeAddrs srcE)) → look.1.rawTens (.tile t) src srcE = s.rawTens (.tile t) src srcE) ∧
    (get = true ∨ ((issued s t .lk e).putHeld t e = false ∧ s.rdBreach (.tile t) (src.writeAddrs srcE) = false) →
      (s.isLocal r.module = false → exec (if get then .lkGet t else .lkPut t) s = .next (sendAll s2 [ownMsg s r.module cls (.remote s.nextId (s.isPaddock t) ask)])) ∧
      (s.isLocal r.module = true → (d.writeAddrs de).any (src.ownBytes srcE).contains = false →
        exec (if get then .lkGet t else .lkPut t) s = exec (.remoteAccess s.selfId s.nextId cls (s.isPaddock t) ask) s2))) ∧
  (∀ (src id : Nat) (cls : NetClass) (pad : Bool) (s : State), Unsent s → s.isLocal src = false → ∀ d ed t e, Tens.pair d ed = .ok (t, e) →
    let by_ : Issuer := .remote pad
    let as := t.writeAddrs e
    (s.wrHeld by_ as = true → (∀ x, exec (.remoteAccess src id cls pad (.put d ed x)) s = .next (s.holdMsg src cls (.remote id pad (.put d ed x)))) ∧
      exec (.remoteAccess src id cls pad (.get d ed)) s = .next (s.holdMsg src cls (.remote id pad (.get d ed)))) ∧
    (s.wrHeld by_ as = false → as.all linkPlace = false → (∀ x, exec (.remoteAccess src id cls pad (.put d ed x)) s = .fault (.undefined (.ub 48))) ∧
      exec (.remoteAccess src id cls pad (.get d ed)) s = .fault (.undefined (.ub 48))) ∧
    (s.wrHeld by_ as = false → as.all linkPlace = true → (∀ x, (t.writeDup e = true → exec (.remoteAccess src id cls pad (.put d ed x)) s = .fault (.undefined (.ub 10))) ∧
        (let s0 := s.recordFaults by_ true as
         t.writeDup e = false → (∀ u, s0.wrBreach (s0.landing by_ as) = some u → exec (.remoteAccess src id cls pad (.put d ed x)) s = .fault (.undefined u)) ∧
          (∀ u, (s.putRaw .other by_ t e x).breach = some u → exec (.remoteAccess src id cls pad (.put d ed x)) s = .fault (.undefined u)) ∧
          (s0.wrBreach (s0.landing by_ as) = none → OffLedger s as → (s.putRaw .other by_ t e x).breach = none) ∧
          ((s.putRaw .other by_ t e x).breach = none → exec (.remoteAccess src id cls pad (.put d ed x)) s = .next (sendAll (s.putRaw .other by_ t e x) [ownMsg s src cls (.remoteAck id)])))) ∧
      (let s0 := s.recordFaults by_ false as
       let look := s0.lookTens .other by_ t e
       (s.rdBreach by_ as = true → exec (.remoteAccess src id cls pad (.get d ed)) s = .fault (.undefined (.ub 40))) ∧
       (s.rdBreach by_ as = false → exec (.remoteAccess src id cls pad (.get d ed)) s = .next (sendAll look.2 [ownMsg s src cls (.remoteData id (look.1.rawTens by_ t e))])) ∧ look.2 = { s0 with free := look.2.free } ∧
        (Alone s .other (s.spKeys (.da by_) false as) → look.1.rawTens by_ t e = s.rawTens by_ t e) ∧ Quiet [regOff .idAddrFault []] [] s s0))) ∧
  (∀ (id : Nat) (x : TensorData) (s : State), Unsent s → (s.remotes.find? (fun r => r.id == id) = none → exec (.linkTransferComplete id x) s = .next s) ∧
    (∀ r f rest, s.remotes.find? (fun r => r.id == id) = some r → takeFlight (fun f => f.queue == .lk && f.work == .transfer id) (s.tile r.tile).flights = some (f, rest) → f.sdst = 0 →
      (∀ t e, r.isGet = true → Tens.pair r.local_ r.scale = .ok (t, e) → s.wrHeld (.tile r.tile) (t.writeAddrs e) = true →
        exec (.linkTransferComplete id x) s = .next (s.holdMsg r.module r.cls (.remoteData id x))) ∧
      ((r.isGet = true → ∃ t e, Tens.pair r.local_ r.scale = .ok (t, e) ∧ OffLedger s (t.writeAddrs e) ∧ s.wrHeld (.tile r.tile) (t.writeAddrs e) = false ∧
          let s0 := s.recordFaults (.tile r.tile) true (t.writeAddrs e)
          s0.wrBreach (s0.landing (.tile r.tile) (t.writeAddrs e)) = none) →
      ∃ s', exec (.linkTransferComplete id x) s = .next s' ∧ s'.remotes = s.remotes.filter (fun q => q.id != id) ∧ (s'.tile r.tile).flights = rest ∧
        (∀ k, (s'.tile r.tile).token k = if k = 0 then 0 else if k = f.signal then min 255 ((s.tile r.tile).token k + 1) else (s.tile r.tile).token k) ∧
        (r.isGet = false → ∀ k, deviceKey k → s'.byte k = s.byte k) ∧
        (∀ t e, r.isGet = true → Tens.pair r.local_ r.scale = .ok (t, e) → ∀ k, deviceKey k → s'.byte k = (s.putRaw (.unit r.tile .lk) (.tile r.tile) t e x).byte k)))) ∧
  (∀ (s : State) (w : Actor) (by_ : Issuer) (t : Tens) (e : Option Tens) (x : TensorData), PlainBytes s by_ (t.writeAddrs e) → Alone s w (s.spKeys (.da by_) true (t.writeAddrs e)) → t.writeDup e = false → t.empty = false → x.codes.length = t.size → x.scales.length = (t.scaleAddrs e).length →
    ((s.putRaw w by_ t e x).rawTens by_ t e).codes = x.codes.map (· % 2 ^ t.fmt.bits) ∧ ((s.putRaw w by_ t e x).rawTens by_ t e).scales = x.scales.map (· % 256))

/-- Reductions (R357-R371): lk.arm takes a legal record into a free context and signals; lk.go makes its contribution ready and completes at once when E is 0; messages for no context count as such; a fitting partial or result joins its context and RECV; a late one
counts; a deadline lets a ready position start and an unready one pass the partial on unchanged, counted as MISSED; the completion writes the record's status, unless that write is undefined (R87, R199, R371), and deposits the counts. That a partial for the start
position, or a chunk that does not fit, is UB-46 is the model's reading (DEDUCED, log 34), and so is a result that a reset or a quiesce holds waiting with its messages. -/
def Obligations.Reductions : Prop :=
  (∀ (t : TileId) (s : State) (e : QEntry) (x : Ctx), LkGo t .arm e s → Unsent s →
    let a := descBase e.dA
    let n := fld e.ctrl 12 6
    a % 64 = 0 → inTileStore t a 320 = true →
    (tblGet (fun _ => none) s.ctxs n ≠ none → exec (.lkArm t) s = .fault (.undefined (.ub 47))) ∧
    (tblGet (fun _ => none) s.ctxs n = none → s.byte (a + 0x43) < 4 → (∀ i < 0x34, s.byte (a + 0x4C + i) = 0) →
      (∀ c, Tens.ofDesc (BitVec.ofNat 256 (s.le a 32)) = .ok c → x = { x with
        tile := t, record := a, contrib := BitVec.ofNat 256 (s.le a 32), result := BitVec.ofNat 256 (s.le (a + 0x20) 32), tag := s.le (a + 0x40) 2, stages := s.byte (a + 0x42)
        mean := (s.byte (a + 0x43)).testBit 0, wire32 := (s.byte (a + 0x43)).testBit 1, deadline := s.le (a + 0x44) 4, rings := [s.byte (a + 0x48), s.byte (a + 0x49), s.byte (a + 0x4A), s.byte (a + 0x4B)]
        e := c.size, gone := false, g := [], own := [], late := 0, missed := 0, chunks := [], sent := [0, 0, 0, 0], recv := [0, 0, 0, 0] }) →
      resultDup x.result = false → s.ctxLegal x true = true → s.tagInFlight x = false → x.contrib = BitVec.ofNat 256 (s.le a 32) →
      ∃ s', exec (.lkArm t) s = .next s' ∧ tblGet (fun _ => none) s'.ctxs n = some x ∧ (∀ m, m ≠ n → tblGet (fun _ => none) s'.ctxs m = tblGet (fun _ => none) s.ctxs m) ∧
        (s'.tile t).flights = (s.tile t).flights ∧ (∀ k, deviceKey k → s'.byte k = s.byte k) ∧
        (∀ k, (s'.tile t).token k = if k = 0 then 0 else
          let i := if k = e.wait then (s.tile t).token k - 1 else (s.tile t).token k
          if k = e.signal then min 255 (i + 1) else i))) ∧
  (∀ (t : TileId) (s : State) (e : QEntry), LkGo t .go e s → RingsOutside s →
    let n := fld e.ctrl 12 6
    (tblGet (fun _ => none) s.ctxs n = none → exec (.lkGo t) s = .fault (.undefined (.ub 47))) ∧
    (∀ x c w, tblGet (fun _ => none) s.ctxs n = some x → x.tile = t.val → x.gone = false → Tens.ofDesc x.contrib = .ok c → (issued s t .lk e).readTens (.da (.tile t)) c none = .ok w → x.record + 0x110 < 2 ^ 48 →
      (issued s t .lk e).goHeld t e = false → (s.rdBreach (.tile t) (c.readAddrs none) = true → exec (.lkGo t) s = .fault (.undefined (.ub 40))) ∧
      (s.rdBreach (.tile t) (c.readAddrs none) = false → x.e = 0 → ∀ u, recordBreach s n x = some u → exec (.lkGo t) s = .fault (.undefined u)) ∧
      (s.rdBreach (.tile t) (c.readAddrs none) = false → recordBreach s n x = none → Alone s (.unit t .lk) (s.spKeys (.da (.tile t)) false (c.writeAddrs none)) → ResultOpen s x →
      ∃ s', exec (.lkGo t) s = .next s' ∧
        ((∃ y, tblGet (fun _ => none) s'.ctxs n = some y ∧ y.gone = true ∧ y.g = w.vals ∧ x.e ≠ 0 ∧
            (s'.tile t).flights = (s.tile t).flights ++ [⟨.lk, e.signal, fld e.ctrl 18 5, 0, false, false, .go n, Stake.none⟩]) ∨
          (tblGet (fun _ => none) s'.ctxs n = none ∧ (s'.tile t).flights = (s.tile t).flights)) ∧
        (x.e = 0 → tblGet (fun _ => none) s'.ctxs n = none ∧ let p := min (s.expected x) 0xFFFF
          (fld e.ctrl 18 5 ≠ 0 → (s'.tile t).sreg (fld e.ctrl 18 5) = BitVec.ofNat 64 (p + p * 2 ^ 16 + p * 2 ^ 32)) ∧ s'.le (x.record + 0x80) 2 = p ∧ s'.le (x.record + 0x82) 2 = p ∧
          s'.le (x.record + 0x84) 2 = p ∧ s'.byte (x.record + 0x86) = 0))) ∧
    ((issued s t .lk e).goHeld t e = true → exec (.lkGo t) s = .next s)) ∧
  (∀ (m : ChunkMsg) (s : State) (res : Bool), RingsOutside s → let c : Instr := if res then .resultArrival m else .partialArrival m
    (s.ctxFor m.ring m.tag = none → ∃ s', exec c s = .next s' ∧ s'.tallyAt (regOff .denNoCtx []) = (s.tallyAt (regOff .denNoCtx [])).add 1 ∧ Quiet [] [regOff .denNoCtx []] s s') ∧
    (∀ n x k, s.ctxFor m.ring m.tag = some (n, x, k) → k < 4 → x.recv.length = 4 → ResultOpen s x →
      let r := (s.stageOf x k).1
      let len := (chunkAt (s.stageOf x k).2 r.len m.chunk).2
      let fits : Prop := m.chunk < r.len ∧ len ≠ 0 ∧ (if res then m.chunk ≠ r.pos else (m.chunk + 1) % r.len ≠ r.pos) ∧ m.offset + m.payload.length ≤ (if res then 4 * len else wireLen x.wire32 len) ∧
        (m.last = true → m.offset + m.payload.length = if res then 4 * len else wireLen x.wire32 len)
      (¬ fits → exec c s = .fault (.undefined (.ub 46))) ∧
      (fits → (res = true ∨ ((x.chunk k m.chunk).choice ≠ 3 ∧ (x.chunk k m.chunk).done = false)) → ∃ s' y, exec c s = .next s' ∧ tblGet (fun _ => none) s'.ctxs n = some y ∧ y.gone = x.gone ∧ y.tag = x.tag ∧
        (∀ j < 4, y.recv.getD j 0 = if j = k then (x.recv.getD j 0 + payloadTerms s.digestKey m.chunk m.offset (m.payload.map BitVec.toNat)) % digestP else x.recv.getD j 0)) ∧
      (fits → res = false → (x.chunk k m.chunk).choice = 3 → ∃ s', exec c s = .next s' ∧ tblGet (fun _ => none) s'.ctxs n = some { x with late := x.late + 1 } ∧
        s'.tallyAt (regOff .denLatePartial []) = (s.tallyAt (regOff .denLatePartial [])).add 1) ∧
      (fits → res = true → k = 0 → s.resultHeld x 0 m.chunk = true → ∃ s' y, exec c s = .next s' ∧ tblGet (fun _ => none) s'.ctxs n = some y ∧ (y.chunk 0 m.chunk).res = (x.chunk 0 m.chunk).res ∧
        (y.chunk 0 m.chunk).resParts = (x.chunk 0 m.chunk).resParts ++ [m] ∧ ∀ a, deviceKey a → s'.byte a = s.byte a) ∧
      (fits → res = true → k = 0 → s.resultHeld x 0 m.chunk = false → m.offset = 0 → m.payload.length = 4 * len → (x.chunk 0 m.chunk).resParts = [] → ∀ t, Tens.ofDesc x.result = .ok t → t.fmt = .fp32 → t.place = 0 → t.size = x.e →
        PlainBytes s (.tile x.tile) (t.writeAddrs none) → Alone s (.unit x.tile .lk) (s.spKeys (.da (.tile x.tile)) true (t.writeAddrs none)) → ∃ s', exec c s = .next s' ∧
        ∀ i < len, s'.elemCode (.da (.tile x.tile)) t (t.indices.getD ((chunkAt x.e r.len m.chunk).1 + i) ⟨0, 0, 0, 0⟩) = leVal (((m.payload.map BitVec.toNat).drop (4 * i)).take 4)))) ∧
  (∀ (n : Fin 64) (k c : Nat) (s : State) (x : Ctx), RingsOutside s → tblGet (fun _ => none) s.ctxs n.val = some x → ResultOpen s x →
    let r := (s.stageOf x k).1
    let (first, len) := chunkAt (s.stageOf x k).2 r.len c
    let open_ : Prop := x.deadline ≠ 0 ∧ k < x.stages ∧ c < r.len ∧ len ≠ 0 ∧ (x.chunk k c).done = false ∧ (x.chunk k c).choice = 0 ∧ (c + 1) % r.len ≠ r.pos
    (¬ open_ → exec (.deadlineExpiry n k c) s = .next s) ∧
    (open_ → (x.contribution k first len).isSome = false → (x.chunk k c).parts ≠ [] → ∃ s' y, exec (.deadlineExpiry n k c) s = .next s' ∧ tblGet (fun _ => none) s'.ctxs n.val = some y ∧ y.missed = x.missed + 1 ∧
      (y.chunk k c).choice = 2) ∧
    (open_ → (x.contribution k first len).isSome = true → (x.chunk k c).parts = [] → ∃ s' y, exec (.deadlineExpiry n k c) s = .next s' ∧ tblGet (fun _ => none) s'.ctxs n.val = some y ∧ y.missed = x.missed ∧
      (y.chunk k c).choice = 3 ∧ (y.chunk k c).done = true)) ∧
  (∀ (n : Fin 64) (s : State) (x : Ctx) (mn mx ex : Nat) (f : Flight) (rest : List Flight), tblGet (fun _ => none) s.ctxs n.val = some x → x.gone = true → s.ctxCounts x = some (mn, mx, ex) →
    takeFlight (fun f => f.work == .go n.val) (s.tile x.tile).flights = some (f, rest) → x.record + 0x110 < 2 ^ 48 → s.breach = none →
    (∀ u, recordBreach s n.val x = some u → exec (.lkGoComplete n) s = .fault (.undefined u)) ∧ (recordBreach s n.val x = none →
    ∃ s', exec (.lkGoComplete n) s = .next s' ∧ tblGet (fun _ => none) s'.ctxs n.val = none ∧ (s'.tile x.tile).flights = rest ∧
      (f.sdst ≠ 0 → f.overwritten = false → (s'.tile x.tile).sreg f.sdst = BitVec.ofNat 64 (min mn 0xFFFF + min mx 0xFFFF * 2 ^ 16 + min ex 0xFFFF * 2 ^ 32)) ∧
      s'.le (x.record + 0x80) 2 = min mn 0xFFFF ∧ s'.le (x.record + 0x82) 2 = min mx 0xFFFF ∧ s'.le (x.record + 0x84) 2 = min ex 0xFFFF ∧ s'.byte (x.record + 0x86) = (if mn = ex then 0 else 1) ∧
      (∀ k < 4, s'.le (x.record + 0x90 + 0x20 * k) 16 = x.sent.getD k 0 % 2 ^ 128 ∧ s'.le (x.record + 0xA0 + 0x20 * k) 16 = x.recv.getD k 0 % 2 ^ 128) ∧
      (∀ k, deviceKey k → k < x.record + 0x80 ∨ x.record + 0x110 ≤ k → s'.byte k = s.byte k))) ∧
  ∀ (s : State) (x : Ctx) (k c cg : Nat) (g : List Val) (b : List Nat), (x.chunk k c).done = false → (x.chunk k c).choice = 1 →
    let r := (s.stageOf x k).1
    let (first, len) := chunkAt (s.stageOf x k).2 r.len c
    len ≠ 0 → (c + 1) % r.len ≠ r.pos → x.contribution k first len = some (g, cg) → imageOf (wireLen x.wire32 len) (x.chunk k c).parts = some b → r.pos = c → k + 1 = x.stages → g.length = len →
      let cnt := ((x.chunk k c).parts.headD ⟨0, 0, 0, [], 0, false, []⟩).counts.headD 0 + cg
      (s.tryAdd x k c).2 = s ∧ ∃ ws, ((s.tryAdd x k c).1.chunk k c).res = some (ws, List.replicate len cnt) ∧ ws.length = len ∧
        ∀ i < len, let sum := f32Of (((unwire x.wire32 len b).getD i Val.zero).add (g.getD i Val.zero))
          ws.getD i 0 = (if x.mean then f32Round ((f32Val sum).div (.fin false cnt 0)) else sum).toNat

/-- Barriers (R372, R374): lk.barrier takes the next number once the wave is enabled and waits before; it completes at a root that has heard every child, and goes up elsewhere; a child's report is kept once; the parent's completion
completes the instruction and goes down; a paddock tile's link instructions of these four kinds only signal. -/
def Obligations.Barriers : Prop :=
  (∀ (t : TileId) (s : State) (e : QEntry), LkGo t .barrier e s → WaveOutside s → (∀ u, ∀ f ∈ (s.tile u).flights, f.work ≠ .barrier none ∧ f.work ≠ .barrier (some s.barrier.next)) →
    let n := s.barrier.next
    let heard : Prop := ∀ c ∈ s.waveChildren, (n, c) ∈ s.barrier.up
    (s.waveOn = false → ∃ s', exec (.lkBarrier t) s = .next s' ∧ s'.barrier = { s.barrier with waiting := s.barrier.waiting ++ [t.val] } ∧
      (s'.tile t).flights = (s.tile t).flights ++ [⟨.lk, e.signal, 0, 0, false, false, .barrier none, Stake.none⟩] ∧ TileOnly t (fun _ => False) [] [] { s with barrier := s'.barrier } s') ∧
    (s.waveOn = true → n ∉ s.barrier.sentUp → ¬ heard → ∃ s', exec (.lkBarrier t) s = .next s' ∧ s'.barrier = { s.barrier with next := n + 1, own := s.barrier.own ++ [n] } ∧
      (s'.tile t).flights = (s.tile t).flights ++ [⟨.lk, e.signal, 0, 0, false, false, .barrier (some n), Stake.none⟩] ∧ s'.out = s.out) ∧
    (s.waveOn = true → n ∉ s.barrier.sentUp → heard → s.isRoot = false → ∃ s1, exec (.lkBarrier t) s = .next (sendAll s1 [ownMsg s s.waveParent .dawn (.barrierUp n)]) ∧
      s1.barrier = { s.barrier with next := n + 1, own := s.barrier.own ++ [n], sentUp := s.barrier.sentUp ++ [n] } ∧
      (s1.tile t).flights = (s.tile t).flights ++ [⟨.lk, e.signal, 0, 0, false, false, .barrier (some n), Stake.none⟩] ∧ s1.out = s.out ∧ s1.net = s.net) ∧
    (s.waveOn = true → n ∉ s.barrier.sentUp → heard → s.isRoot = true → ∃ s1, exec (.lkBarrier t) s = .next (sendAll s1 (childMsgs s (.barrierDown n))) ∧
      s1.barrier.next = n + 1 ∧ n ∉ s1.barrier.own ∧ (s1.tile t).flights = (s.tile t).flights ∧ s1.net = s.net ∧
      (e.signal ≠ 0 → e.wait ≠ e.signal → (s1.tile t).token e.signal = min 255 ((s.tile t).token e.signal + 1)))) ∧
  (∀ (src n : Nat) (s : State), WaveOutside s → s.waveOn = true →
    (src ∉ s.waveChildren → exec (.barrierMessage src true n) s = .fault (.undefined (.ub 49))) ∧
    (src ∈ s.waveChildren → (n, src) ∈ s.barrier.up → exec (.barrierMessage src true n) s = .next s) ∧
    (src ∈ s.waveChildren → (n, src) ∉ s.barrier.up → let b := { s.barrier with up := s.barrier.up ++ [(n, src)] }
      (n ∉ b.own ∨ n ∈ b.sentUp ∨ (∃ c ∈ s.waveChildren, (n, c) ∉ b.up) → exec (.barrierMessage src true n) s = .next { s with barrier := b }) ∧
      (n ∈ b.own → n ∉ b.sentUp → (∀ c ∈ s.waveChildren, (n, c) ∈ b.up) → s.isRoot = false →
        exec (.barrierMessage src true n) s = .next (sendAll { s with barrier := { b with sentUp := b.sentUp ++ [n] } } [ownMsg s s.waveParent .dawn (.barrierUp n)])) ∧
      (n ∈ b.own → n ∉ b.sentUp → (∀ c ∈ s.waveChildren, (n, c) ∈ b.up) → s.isRoot = true → ∃ s1, exec (.barrierMessage src true n) s = .next (sendAll s1 (childMsgs s (.barrierDown n))) ∧
        n ∉ s1.barrier.own ∧ (∀ u f rest, takeFlight (fun f => f.work == .barrier (some n)) (s.tile u).flights = some (f, rest) → (∀ g ∈ rest, g.work ≠ .barrier (some n)) → (s1.tile u).flights = rest))) ∧
    (n ∉ s.barrier.sentUp → exec (.barrierMessage src false n) s = .next s) ∧
    (n ∈ s.barrier.sentUp → ∃ s1, exec (.barrierMessage src false n) s = .next (sendAll s1 (childMsgs s (.barrierDown n))) ∧ n ∉ s1.barrier.own ∧ n ∉ s1.barrier.sentUp ∧
      ∀ u f rest, takeFlight (fun f => f.work == .barrier (some n)) (s.tile u).flights = some (f, rest) → (∀ g ∈ rest, g.work ≠ .barrier (some n)) → (s1.tile u).flights = rest)) ∧
  (∀ (t : TileId) (s : State) (e : QEntry) (o : LkOp), o ∈ [LkOp.arm, .go, .barrier, .commit] → EngGo t .lk e s → e.op = .lk o → s.isPaddock t = true → Unsent s →
    ∃ s', exec (lkCmd t o) s = .next s' ∧ (s'.tile t).flights = (s.tile t).flights ∧ (s'.tile t).qLk = (s.tile t).qLk.tail ∧ TileOnly t (fun _ => False) [] [] s s' ∧
      (e.signal ≠ 0 → e.wait ≠ e.signal → (s'.tile t).token e.signal = min 255 ((s.tile t).token e.signal + 1)))

/-- The commit wave (R301, R375-R384): an lk.commit is counted or waits; the module votes once its own and every child's vote is in; a child's vote, PREPARE, ACK and FINAL act in their turn; the root decides, aborts at its timeout, and the outcome
resolves the step, and with it the ledger's step close, a flock window and a round end as `StepEnded` says; a die reset that takes votes out of the wave keeps the module from voting, acknowledging and following PREPARE (R521); a stuck wave is flagged, and WAVE_RESOLVE ends one.
The model's readings (DEDUCED, log 35): FINAL acts only while WSTATE is not 0 or on an equal STEP; COLLECTING and the wave's KIND come with the first child's VOTE; a child's second VOTE before the wave resolves is compared like the first; WAVE_STUCK is raised off the root only. -/
def Obligations.CommitWave : Prop :=
  (∀ (t : TileId) (s : State) (e : QEntry), LkGo t .commit e s → WaveOutside s → s.wave.waiting = [] → (∀ f ∈ (s.tile t).flights, ∀ k sk, f.work ≠ .commit k sk false) →
    let k := fld e.ctrl 17 1 == 1
    let sk := fld e.ctrl 16 1 == 1
    let f (counted : Bool) : Flight := ⟨.lk, e.signal, fld e.ctrl 18 5, 0, false, false, .commit k sk counted, Stake.none⟩
    let w : Wave := { s.wave with kind := if s.votes = 0 then k else s.wave.kind, skip := s.wave.skip || sk, mixed := s.wave.mixed || (decide (s.votes ≠ 0) && k != s.wave.kind) }
    let all : Prop := ∀ c ∈ s.waveChildren, ∃ v ∈ s.wave.votes, v.child = c
    (k = true → s.phase ≠ 3 → (s.waveOn = true ∧ 2 ≤ s.wstate ∨ s.waveOn = false ∧ s.wstate = 0) → exec (.lkCommit t) s = .fault (.undefined (.ub 50))) ∧
    ((k = true → s.phase = 3) → (s.waveOn = true ∧ 2 ≤ s.wstate ∨ s.waveOn = false ∧ s.wstate = 0 → ∃ s', exec (.lkCommit t) s = .next s' ∧ (s'.tile t).flights = (s.tile t).flights ++ [f false] ∧ s'.wave = { s.wave with waiting := [t.val] } ∧
      TileOnly t (fun _ => False) [] [] { s with wave := s'.wave } s') ∧
    (s.waveOn = true → s.wstate ≤ 1 → s.votes + 1 < s.waveTiles ∨ (s.votes + 1 = s.waveTiles ∧ s.isRoot = false ∧ s.wave.lost = true) → s.waveTiles < 2048 → ∃ s', exec (.lkCommit t) s = .next s' ∧ (s'.tile t).flights = (s.tile t).flights ++ [f true] ∧ s'.wave = w ∧
      s'.votes = s.votes + 1 ∧ s'.wstate = 1 ∧ s'.reg .denWaveStatus [] = s.stepNo ∧ s'.net = s.net ∧ s'.out = s.out) ∧
    (s.waveOn = true → s.wstate ≤ 1 → s.votes + 1 = s.waveTiles → s.isRoot = false → s.flockHold = false → s.wave.lost = false → all → ∃ s1, exec (.lkCommit t) s =
        .next (sendAll s1 [ownMsg s s.waveParent .dawn (.vote w.kind s.stepNo s.cv (aggSkip s w) (aggMism s w))]) ∧
      (s1.tile t).flights = (s.tile t).flights ++ [f true] ∧ s1.wave = w ∧ s1.wstate = 2 ∧ s1.votes = s.waveTiles ∧ s1.net = s.net ∧ (aggMism s w = false → s1.out = s.out ∧ s1.ev = s.ev)) ∧
    (s.waveOn = true → s.wstate ≤ 1 → s.votes + 1 = s.waveTiles → s.isRoot = true → s.flockHold = false → s.wave.lost = false → s.waveChildren = [] → w.kind = false → StepMay s →
      let o : Outcome3 := if aggMism s w then .aborted else if aggSkip s w then .skipped else .committed
      ∃ s0 s', exec (.lkCommit t) s = .next (sendAll s' (stepMsgs s)) ∧ (∀ a, deviceKey a → s0.byte a = s.byte a) ∧ s0.flock = s.flock ∧ s0.far = s.far ∧
        (∀ a, a ∉ eventRegs → a ≠ regOff .denStatus [] → a ≠ regOff .denWaveStatus [] → s0.ctlRaw a = s.ctlRaw a) ∧ (s0.tile t).flights = (s.tile t).flights ++ [f true] ∧ (∀ u, u ≠ t.val → s0.tile u = s.tile u) ∧ s0.wave.waiting = [] ∧ s0.net = s.net ∧ s0.stepNo = s.stepNo ∧ s0.cv = s.cv ∧
        s0.rf .ledCommit [] 52 1 = s.rf .ledCommit [] 52 1 ∧ Resolved o s0 s' ∧ s'.rf .denWaveLast [] 60 2 = outcomeCode o ∧ s'.rf .denWaveLast [] 63 1 = bit (!aggMism s w) ∧ s'.rf .denWaveLast [] 0 48 = s.stepNo))) ∧
  (∀ (src : Nat) (kind : Bool) (step cv : Nat) (skip mism : Bool) (s : State), WaveOutside s → s.waveOn = true → s.wave.waiting = [] →
    let v : ChildVote := ⟨src, kind, step, cv, skip, mism⟩
    let w : Wave := { s.wave with votes := s.wave.votes ++ [v], timer := s.wave.timer || s.isRoot, kind := if s.votes = 0 ∧ s.wave.votes = [] then kind else s.wave.kind }
    (src ∉ s.waveChildren → exec (.vote src kind step cv skip mism) s = .fault (.undefined (.ub 49))) ∧
    (src ∈ s.waveChildren → (s.votes ≠ s.waveTiles ∨ 2 ≤ s.wstate ∨ s.wave.lost = true) → ∃ s', exec (.vote src kind step cv skip mism) s = .next s' ∧ s'.wave = w ∧
      s'.wstate = max 1 s.wstate ∧ s'.votes = s.votes ∧ s' = { s with ctl := s'.ctl, wave := s'.wave }) ∧
    (src ∈ s.waveChildren → s.votes = s.waveTiles → s.wstate = 1 → s.flockHold = false → s.wave.lost = false → (∀ c ∈ s.waveChildren, ∃ u ∈ w.votes, u.child = c) →
      (s.isRoot = false → ∃ s1, exec (.vote src kind step cv skip mism) s = .next (sendAll s1 [ownMsg s s.waveParent .dawn (.vote w.kind s.stepNo s.cv (aggSkip s w) (aggMism s w))]) ∧ s1.wstate = 2 ∧ s1.wave = w ∧ s1.net = s.net) ∧
      (s.isRoot = true → aggMism s w = false → let o : Outcome3 := if aggSkip s w then .skipped else .committed
        ∃ s1, exec (.vote src kind step cv skip mism) s = .next (sendAll s1 (childMsgs s (.prepare w.kind s.stepNo o))) ∧ s1.wstate = 3 ∧ s1.rf .denStatus [] 10 2 = outcomeCode o ∧ s1.wave = w ∧ s1.net = s.net) ∧
      (s.isRoot = true → aggMism s w = true → w.kind = false → StepMay s → s.waveTiles ≠ 0 →
        ∃ s1, exec (.vote src kind step cv skip mism) s = .next (sendAll s1 (childMsgs s (.final w.kind s.stepNo .aborted) ++ stepMsgs s)) ∧ Resolved .aborted s s1))) ∧
  (∀ (kind : Bool) (step : Nat) (o : Outcome3) (s : State), WaveOutside s →
    (¬ (s.waveOn = true ∧ s.wstate = 2 ∧ s.wave.lost = false ∧ s.wave.kind = kind ∧ s.stepNo = step) → exec (.prepare kind step o) s = .next s) ∧
    (s.waveOn = true → s.wstate = 2 → s.wave.lost = false → s.wave.kind = kind → s.stepNo = step → ∃ s1, exec (.prepare kind step o) s =
        .next (sendAll s1 (if s.waveChildren = [] then [ownMsg s s.waveParent .dawn (.ack kind step)] else childMsgs s (.prepare kind step o))) ∧
      s1.wstate = 3 ∧ s1.rf .denStatus [] 10 2 = outcomeCode o ∧ s1 = { s with ctl := s1.ctl })) ∧
  (∀ (src : Nat) (kind : Bool) (step : Nat) (s : State), WaveOutside s → s.waveOn = true → s.wstate = 3 → s.wave.kind = kind → s.stepNo = step → src ∈ s.waveChildren → src ∉ s.wave.acks →
    let acks := s.wave.acks ++ [src]
    ((∃ c ∈ s.waveChildren, c ∉ acks) → exec (.ack src kind step) s = .next { s with wave := { s.wave with acks := acks } }) ∧
    ((∀ c ∈ s.waveChildren, c ∈ acks) → s.isRoot = false → exec (.ack src kind step) s = .next (sendAll { s with wave := { s.wave with acks := acks } } (if s.wave.lost then [] else [ownMsg s s.waveParent .dawn (.ack kind step)]))) ∧
    ((∀ c ∈ s.waveChildren, c ∈ acks) → s.isRoot = true → kind = false → s.wave.waiting = [] → s.waveTiles ≠ 0 → StepMay s →
      let o : Outcome3 := if s.rf .denStatus [] 10 2 = 1 then .committed else if s.rf .denStatus [] 10 2 = 2 then .skipped else .aborted
      ∃ s1, exec (.ack src kind step) s = .next (sendAll s1 (childMsgs s (.final kind step o) ++ stepMsgs s)) ∧ Resolved o s s1 ∧ s1.rf .denWaveLast [] 63 1 = 1)) ∧
  (∀ (step : Nat) (o : Outcome3) (s : State), WaveOutside s → s.wave.waiting = [] → s.waveTiles ≠ 0 →
    (s.waveOn = false ∨ (s.wstate = 0 ∧ s.stepNo ≠ step) → exec (.final false step o) s = .next s) ∧
    (s.waveOn = true → s.wstate ≠ 0 ∨ s.stepNo = step → StepMay s → ∃ s1, exec (.final false step o) s = .next (sendAll s1 (childMsgs s (.final false step o) ++ stepMsgs s)) ∧ Resolved o s s1)) ∧
  (∀ s : State, WaveOutside s → s.wave.waiting = [] → s.waveTiles ≠ 0 →
    (s.waveOn = true → s.isRoot = true → s.wave.timer = true → s.wave.kind = false → StepMay s → ∃ s1, exec .waveTimeout s = .next (sendAll s1 (childMsgs s (.final false s.stepNo .aborted) ++ stepMsgs s)) ∧
      Resolved .aborted s s1 ∧ s1.rf .denWaveLast [] 60 4 = 3) ∧
    (s.waveOn = false ∨ s.isRoot = false ∨ s.wave.timer = false → exec .waveTimeout s = .next s) ∧
    (s.waveOn = true → s.isRoot = false → 2 ≤ s.wstate → s.wave.stuck = false → ∃ s', exec .waveStuck s = .next s' ∧ s'.flag .denStatus [] 12 = true ∧ s'.wave = { s.wave with stuck := true } ∧ Quiet [regOff .denStatus []] [] { s with wave := s'.wave } s') ∧
    (s.waveOn = false ∨ s.isRoot = true ∨ s.wstate < 2 ∨ s.wave.stuck = true → exec .waveStuck s = .next s)) ∧
  (∀ acc v (s : State), HostOpen 0 .denWaveResolve [] acc v.toNat s → WaveOutside s → s.wave.waiting = [] → s.waveTiles ≠ 0 → acc ≠ .high →
    let o := v.toNat % 4
    (o = 0 → ∃ s', exec (.waveResolve acc v) s = .next s' ∧ s' = { s with ctl := s'.ctl } ∧ s'.stepNo = s.stepNo ∧ s'.wstate = s.wstate) ∧
    (o ≠ 0 → s.wstate < 2 ∨ (o = 2 ∧ s.wave.kind = true) → ∃ s', exec (.waveResolve acc v) s = .next s' ∧ s'.flag .denWaveResolve [] 2 = true ∧ s' = { s with ctl := s'.ctl } ∧ s'.wstate = s.wstate) ∧
    (o ≠ 0 → 2 ≤ s.wstate → s.wave.kind = false → StepMay s → let out : Outcome3 := if o = 1 then .committed else if o = 2 then .skipped else .aborted
      ∃ s1, exec (.waveResolve acc v) s = .next (sendAll s1 (childMsgs s (.final false s.stepNo out) ++ stepMsgs s)) ∧ Resolved out s s1)) ∧
  ∀ acc v (s : State), HostOpen 0 .denWaveCfg [] acc v.toNat s → s.wave.waiting = [] → s.barrier.waiting = [] → s.wstate = 0 → s.votes = 0 →
    let s1 := s.ctlApply .denWaveCfg [] acc v.toNat
    let s2 := s1.setRf .denWaveCfg [] 32 11 (max 1 (min 1216 s1.waveTiles))
    (s.waveOn = true → s2.waveOn = true → s2.reg .denWaveCfg [] ≠ s.reg .denWaveCfg [] → exec (.waveEnable acc v) s = .fault (.undefined (.ub 49))) ∧
    (s2.waveOn = false ∨ (s.waveOn = true ∧ s2.reg .denWaveCfg [] = s.reg .denWaveCfg []) → exec (.waveEnable acc v) s = .next s2) ∧
    (s.waveOn = false → s2.waveOn = true → exec (.waveEnable acc v) s = .next { s2 with barrier := Barrier.reset })

/-- Shard transfers (R338, R385): START asks the source for the weights, or for the ledger first; nothing starts while one runs, though SOURCE and LEDGER take what is written; XFER_DONE ends the transfer with its result, and a recopy that is done clears HOLD; a range that a reset or a quiesce holds waits (R509, R519).
What a START while BUSY changes, pieces of 4 KiB, and OK only when every range has arrived are the model's choices (log 36). -/
def Obligations.ShardTransfer : Prop :=
  (∀ acc v (s : State), HostOpen 0 .denXferCtrl [] acc v.toNat s →
    (s.flag .denXferCtrl [] 62 = true ∨ (accBits acc v.toNat).testBit 63 = false → exec (.shardTransfer acc v) s = .next (s.ctlApply .denXferCtrl [] acc v.toNat)) ∧
    (s.flag .denXferCtrl [] 62 = false → (accBits acc v.toNat).testBit 63 = true → let s0 := s.ctlApply .denXferCtrl [] acc v.toNat
      let led := s0.flag .denXferCtrl [] 14
      let rs := if led then (List.range 256).map (fun i => (s.entryAddr 0 + 4096 * i, 4096)) else s.shardRanges
      s.isLocal (s0.rf .denXferCtrl [] 0 14) = false → (led = false → s.entryAddr 0 + 2 ^ 20 ≤ 2 ^ 40) → ∃ s1, exec (.shardTransfer acc v) s = .next s1 ∧ s1.shard = some ⟨s0.rf .denXferCtrl [] 0 14, rs, rs, led, false⟩ ∧ s1.flag .denXferCtrl [] 62 = true ∧
        s1.rf .denXferCtrl [] 60 2 = 0 ∧ s1.reg .denXferStatus [] = 0 ∧ (∀ k, deviceKey k → s1.byte k = s.byte k) ∧ s1.tiles = s.tiles)) ∧
  (∀ (ok : Bool) (s : State), Unsent s →
    (s.shard = none → exec (.xferDone ok) s = .next s) ∧
    (∀ x, s.shard = some x → ok = true → x.ranges ≠ [] ∨ x.more = true → exec (.xferDone ok) s = .next s) ∧
    (∀ x, s.shard = some x → ok = false ∨ (x.ranges = [] ∧ x.more = false) → s.flock.recopyWait = none →
      (x.recopy = false ∨ ok = false → ∃ s', exec (.xferDone ok) s = .next s' ∧ s'.shard = none ∧ s'.flag .denXferCtrl [] 62 = false ∧ s'.rf .denXferCtrl [] 60 2 = (if ok then 1 else 2) ∧ s'.flockHold = s.flockHold ∧
        Quiet [regOff .denXferCtrl []] [] { s with shard := none } s') ∧
      (x.recopy = true → ok = true → WaveStill s → s.isLocal (s.memberModule 0) = false → ∃ s', exec (.xferDone ok) s = .next s' ∧ s'.shard = none ∧ s'.flag .denXferCtrl [] 62 = false ∧
        s'.rf .denXferCtrl [] 60 2 = 1 ∧ s'.flockHold = false ∧ ∀ k, deviceKey k → s'.byte k = s.byte k))) ∧
  ∀ (s : State) (x : Shard) (da : Nat) (bytes : List Nat), s.shard = some x → (da, bytes.length) ∈ x.ranges → (x.ranges.erase (da, bytes.length) ≠ [] ∨ x.more = false) → PlainBytes s .unit ((List.range bytes.length).map (da + ·)) →
    (s.wrHeld .unit ((List.range bytes.length).map (da + ·)) = true → s.shardArrives da bytes = s.holdMsg x.source .dusk (.shardData da (bytes.map (BitVec.ofNat 8)))) ∧
    (s.wrHeld .unit ((List.range bytes.length).map (da + ·)) = false → (s.shardArrives da bytes).shard = some { x with ranges := x.ranges.erase (da, bytes.length) } ∧ ((s.shardArrives da bytes).peeks .unit da bytes.length) = bytes.map (· % 256))

/-! ### Far exchange (chapter 10) -/

/-- The boundary of a round and what switches the exchange (R388-R392, R394-R396, R401, R402, R406, R410, R416, R423, R430, R450): ROUNDEND ends in APPLY or in the next round; APPLY ends in VOTE; a committed fold apply advances FPAR, CONTRIB and
ROUND, an aborted one applies again; nothing of an admission that has failed is applied; the exchange, a channel, a quota and an admission take what their registers say. The work runs as entries that the device posts into APPLY_CFG.QUEUE (R399, R400): while the queue is not enabled, has not come to them, or no main
engine of its die has room, the boundary waits, and a queue that is not as R400 says is R4's case. How many entries there are the spec leaves open; that ROUNDEND's and APPLY's effects fall at their completion, the joining cases (NEW not advanced, an apply aborted to RUN) and that FAR.ADMIT is
ignored while BUSY are the model's choices (log 38). -/
def Obligations.FarRounds : Prop :=
  (∀ s : State, s.halted = false → s.waitingIds = [] → s.breach = none →
    let work := s.workDone.roundWork
    (s.phase ≠ 1 ∨ (s.queueUnfit = false ∧ s.boundaryOn = false) → exec .roundendComplete s = .next s) ∧
    (s.phase ≠ 2 ∨ (s.queueUnfit = false ∧ s.boundaryOn = false) → exec .applyComplete s = .next s) ∧
    (s.queueUnfit = true → (s.phase = 1 → exec .roundendComplete s = .fault (.undefined .r4)) ∧ (s.phase = 2 → exec .applyComplete s = .fault (.undefined .r4))) ∧
    (s.boundaryOn = true → let d := s.rf .drvQueueCtrl [s.applyQueue] 27 3
      s.flag .drvQueueCtrl [s.applyQueue] 0 = true ∧ (s.rf .drvQueueTail [s.applyQueue] 0 32 + 2 ^ 32 - s.rf .drvQueueHead [s.applyQueue] 0 32) % 2 ^ 32 = s.far.posted ∧ (∃ e, s.drvEngine d false = some e) ∧ s.dieDown d = false ∧ s.boundaryHeld = false) ∧
    (s.phase = 1 → s.queueUnfit = false → s.boundaryOn = true → s.flag .farApplyWait [] 63 = false ∨ s.applyMay = false → ∃ s', exec .roundendComplete s = .next s' ∧ s'.phase = 0 ∧ s'.farRoundNo = (s.farRoundNo + 1) % 2 ^ 32 ∧
      s'.far.old = s.far.old ∧ s'.flag .farApplyWait [] 63 = false ∧ s'.far.posted = 0 ∧ (s.far.posted ≠ 0 → s'.rf .drvQueueHead [s.applyQueue] 0 32 = s.rf .drvQueueTail [s.applyQueue] 0 32) ∧
      (s.joining = true → ∀ c, s'.chan c = s.chan c) ∧ (s.joining = false → ∀ c ∈ s.channels, s.chanSt c ∈ [1, 2, 4] → (s'.chan c).jobs = (s.chan c).jobs ++ [⟨0, s.farRoundNo, 0, false, [], 0, [], []⟩]) ∧
      s'.far.newest = (if s.joining then s.far.newest else (s.farRoundNo + 1) % 2 ^ 32) ∧ s'.farFirst = s.farFirst ∧ s'.fpar = s.fpar ∧ s'.tiles = s.tiles) ∧
    (s.phase = 1 → s.queueUnfit = false → s.boundaryOn = true → s.applyMay = true → s.flag .farApplyWait [] 63 = true → work.digestPartial = true → exec .roundendComplete s = .fault (.undefined (.ub 37))) ∧
    (s.phase = 1 → s.queueUnfit = false → s.boundaryOn = true → s.flag .farApplyWait [] 63 = true → s.flag .farApplyWait [] 62 = true → work.digestPartial = false → ∃ s', exec .roundendComplete s = .next s' ∧ s'.phase = 2 ∧
      s'.farRoundNo = s.farRoundNo ∧ s'.far.old = s.far.old ∧ s'.far.fixed = s.far.fixed ∧ s'.fpar = s.fpar ∧ s'.tiles = s.tiles ∧ 0 < s'.far.posted) ∧
    (s.phase = 1 → s.queueUnfit = false → s.boundaryOn = true → s.joining = false → s.flag .farApplyWait [] 63 = true → s.flag .farApplyWait [] 62 = false → work.digestPartial = false → ∃ s', exec .roundendComplete s = .next s' ∧ s'.phase = 2 ∧
      s'.farRoundNo = s.farRoundNo ∧ 0 < s'.far.posted ∧ s'.far.old = (s.farRoundNo + 2 ^ 32 - s.farLag + 1) % 2 ^ 32 ∧ s'.far.fixed = some (s.foldIn (roundSub s.farRoundNo s.farLag)) ∧ s'.fpar = s.fpar ∧ s'.tiles = s.tiles) ∧
    (s.phase = 2 → s.queueUnfit = false → s.boundaryOn = true → s.applyMay = true → (∀ u, s.workDone.applyWrites.breach = some u → exec .applyComplete s = .fault (.undefined u)) ∧
      ((s.flag .farApplyCfg [] 41 = true → s.keyBad = false ∧ s.digestSlot (s.rf .farApplyCfg [] 33 8) < 2 ^ 127 - 1) → ∃ s', exec .applyComplete s = .next s' ∧ s'.phase = 3 ∧ (∀ k, deviceKey k → s'.byte k = s.workDone.applyWrites.byte k) ∧
        s'.far.old = s.far.old ∧ s'.far.newest = s.far.newest ∧ s'.far.fixed = s.far.fixed ∧ s'.far.posted = 0 ∧ s'.fpar = s.fpar ∧ s'.cv = s.cv ∧ s'.farRoundNo = s.farRoundNo)) ∧
    (s.phase = 2 → s.queueUnfit = false → s.boundaryOn = true → s.applyMay = false → ∃ s', exec .applyComplete s = .next s' ∧ s'.phase = 0 ∧ s'.farRoundNo = (s.farRoundNo + 1) % 2 ^ 32 ∧ s'.fpar = s.fpar ∧ s'.cv = s.cv)) ∧
  (∀ (step : Nat) (s : State), WaveOutside s → s.waveOn = true → s.wstate ≠ 0 → s.waveChildren = [] → s.wave.waiting = [] → s.waveTiles ≠ 0 → s.phase = 3 → s.flag .farApplyWait [] 62 = false →
    (∀ o : Outcome3, s.far.failed = true → ∃ s', exec (.final true step o) s = .next s' ∧ s'.fpar = s.fpar ∧ s'.phase = 0 ∧ s'.farRoundNo = (s.farRoundNo + 1) % 2 ^ 32 ∧ s'.reg .farContrib [] = s.reg .farContrib [] ∧ s'.wstate = 0) ∧
    (s.far.failed = false → (∀ c ∈ s.channels, (s.chan c).donor = 0) → ∃ s', exec (.final true step .committed) s = .next s' ∧ s'.fpar = 1 - s.fpar ∧ s'.phase = 0 ∧ s'.farRoundNo = (s.farRoundNo + 1) % 2 ^ 32 ∧
      s'.far.newest = (s.farRoundNo + 1) % 2 ^ 32 ∧ s'.reg .farContrib [] = (s.reg .farContrib [] + s.far.applyCount) % 2 ^ 64 ∧ s'.cv = (s.cv + 1) % 2 ^ 48 ∧ s'.stepNo = s.stepNo ∧ s'.wstate = 0) ∧
    (s.far.failed = false → s.joining = false → ∃ s', exec (.final true step .aborted) s = .next s' ∧ s'.phase = 2 ∧ s.far.posted < s'.far.posted ∧ s'.fpar = s.fpar ∧ s'.farRoundNo = s.farRoundNo ∧
      s'.far.fixed = some (s.foldIn (roundSub s.farRoundNo s.farLag)) ∧ s'.cv = s.cv ∧ s'.stepNo = s.stepNo ∧ s'.wstate = 0) ∧
    (s.far.failed = false → s.joining = true → ∃ s', exec (.final true step .aborted) s = .next s' ∧ s'.phase = 0 ∧ s'.fpar = s.fpar ∧ s'.farRoundNo = (s.farRoundNo + 1) % 2 ^ 32 ∧ s'.cv = s.cv ∧ s'.stepNo = s.stepNo ∧ s'.wstate = 0)) ∧
  (∀ acc v (s : State), HostOpen 0 .farCfg [] acc v.toNat s →
    let s1 := s.ctlApply .farCfg [] acc v.toNat
    (s.farOn = true → setBits (s1.reg .farCfg []) 63 1 1 = s.reg .farCfg [] → exec (.farEnable acc v) s = .next s1.setAreaSize) ∧
    (s.farOn = true → setBits (s1.reg .farCfg []) 63 1 1 ≠ s.reg .farCfg [] → exec (.farEnable acc v) s = .fault (.undefined (.ub 51))) ∧
    (s.farOn = false → s1.farOn = true → s1.segsReserved = true → exec (.farEnable acc v) s = .fault (.undefined (.ub 1))) ∧
    (s.farOn = false → s1.farOn = true → s1.segsReserved = false → 1 ≤ s1.farLag → s1.farLag ≤ 4 → 4 ≤ s1.farShear → s1.farShear ≤ 10 → 16 ≤ s1.rf .farCfg [] 17 17 → s1.rf .farCfg [] 17 17 ≤ 65536 →
      (∀ g ∈ s1.segs, fld (s1.entryLe g.ledger 0 8) 0 1 = 1 ∧ fld (s1.entryLe g.ledger 0 8) 28 4 = 1) → s1.foldBad = false → ∃ s', exec (.farEnable acc v) s = .next s' ∧ s'.farOn = true ∧ s'.fpar = 0 ∧ s'.farFirst = s.farRoundNo ∧
        s'.farRoundNo = s.farRoundNo ∧ s'.far.old = s.farRoundNo ∧ s'.far.newest = s.farRoundNo ∧ s'.reg .farAreaSize [] = s1.area.size % 2 ^ 64 ∧ s'.far.fixed = none ∧ s'.tiles = s.tiles) ∧
    (s.farOn = false → s1.farOn = true → s1.segsReserved = false → s1.farLag = 0 ∨ 4 < s1.farLag ∨ s1.farShear < 4 ∨ 10 < s1.farShear ∨ s1.rf .farCfg [] 17 17 < 16 ∨ 65536 < s1.rf .farCfg [] 17 17 ∨
        (∃ g ∈ s1.segs, fld (s1.entryLe g.ledger 0 8) 0 1 = 0 ∨ fld (s1.entryLe g.ledger 0 8) 28 4 ≠ 1) ∨ s1.foldBad = true →
      exec (.farEnable acc v) s = .fault (.undefined (.ub 51))) ∧
    (s.farOn = false → s1.farOn = false → exec (.farEnable acc v) s = .next s1.setAreaSize)) ∧
  (∀ (c : Fin 4096) acc v (s : State), 4 ≤ c.val → HostOpen 0 .farChanCfg [c.val] acc v.toNat s →
    let s1 := s.ctlApply .farChanCfg [c.val] acc v.toNat
    (s.chanOn c = false → s1.chanOn c = false → exec (.channelEnable c acc v) s = .next s1) ∧
    (s.chanOn c = false → s1.chanOn c = true → s1.ctxSpoilt c = true → exec (.channelEnable c acc v) s = .fault (.undefined (.ub 1))) ∧
    (s.chanOn c = false → s1.chanOn c = true → s1.ctxSpoilt c = false → s1.ctxEnableOk c = false → ∃ s', exec (.channelEnable c acc v) s = .next s' ∧ s'.chanOn c = false ∧ s'.chanSt c = s.chanSt c ∧ Quiet [regOff .farChanCfg [c.val]] [] s s') ∧
    (s.chanOn c = false → s1.chanOn c = true → s1.ctxSpoilt c = false → s1.ctxEnableOk c = true → s1.chanBad c = true → exec (.channelEnable c acc v) s = .fault (.undefined (.ub 53))) ∧
    (s.chanOn c = false → s1.chanOn c = true → s1.ctxSpoilt c = false → s1.ctxEnableOk c = true → s1.chanBad c = false → s1.fbufBad = true → exec (.channelEnable c acc v) s = .fault (.undefined (.ub 54))) ∧
    (s.chanOn c = true → s1.chanOn c = true → (s1.reg .farChanCfg [c.val] = s.reg .farChanCfg [c.val] → exec (.channelEnable c acc v) s = .next s1) ∧
      (s1.reg .farChanCfg [c.val] ≠ s.reg .farChanCfg [c.val] → exec (.channelEnable c acc v) s = .fault (.undefined (.ub 53)))) ∧
    (s.chanOn c = false → s1.chanOn c = true → s1.ctxSpoilt c = false → s1.ctxEnableOk c = true → s1.chanBad c = false → s1.fbufBad = false → ∃ s', exec (.channelEnable c acc v) s = .next s' ∧ s'.chanOn c = true ∧
      (let cage (z : State) : Cage := tblGet (fun _ => Cage.reset) z.isl.cages (s1.chanPort c)
       cage s' = { cage s with lowPower := decide (25 < (cage s).watts.getD 0) }) ∧ s'.chanSt c = 1 ∧ s'.chan c = Chan.reset ∧
      s'.rf .farChanRate [c.val] 32 32 = s.rf .farChanRate [c.val] 0 32 ∧ s'.reg .farChanRtt [c.val] = 0 ∧ (∀ d, d ≠ c.val → s'.chan d = s.chan d)) ∧
    (s.chanOn c = true → s.reg .farChanCfg [c.val] = setBits (s1.reg .farChanCfg [c.val]) 63 1 1 → s1.chanOn c = false → ∃ s', exec (.channelEnable c acc v) s = .next s' ∧ s'.chanOn c = false ∧ s'.chanSt c = 0 ∧
      s'.chan c = Chan.reset ∧ (∀ r ∈ s'.cip.cache, r.chan ≠ c.val) ∧ c.val ∉ s'.cip.faulted)) ∧
  (∀ (i : Fin 3) acc v (s : State), HostOpen 0 .farClassQ [i.val] acc v.toNat s → ∃ s', exec (.farQuota (regOff .farClassQ [i.val]) acc v) s = .next s' ∧
    s'.reg .farClassQ [i.val] = ctlMerge .farClassQ acc (s.reg .farClassQ [i.val]) v.toNat ∧ Quiet [regOff .farClassQ [i.val]] [] s s' ∧ (s.classUse i ≤ s'.rf .farClassQ [i.val] 12 36 * 4096 → s' = { s with ctl := s'.ctl })) ∧
  (∀ (c : Fin 4096) acc v (s : State), 4 ≤ c.val → HostOpen 0 .farChanQuota [c.val] acc v.toNat s → ∃ s', exec (.farQuota (regOff .farChanQuota [c.val]) acc v) s = .next s' ∧
    s'.reg .farChanQuota [c.val] = ctlMerge .farChanQuota acc (s.reg .farChanQuota [c.val]) v.toNat ∧ Quiet [regOff .farChanQuota [c.val]] [] s s' ∧ (s.chanUse c ≤ s'.rf .farChanQuota [c.val] 12 36 * 4096 → s' = { s with ctl := s'.ctl })) ∧
  ∀ acc v (s : State), HostOpen 0 .farAdmit [] acc v.toNat s →
    (s.flag .farAdmit [] 62 = true → exec (.admissionStart acc v) s = .next s) ∧
    (s.flag .farAdmit [] 62 = false → (accBits acc v.toNat).testBit 63 = false → exec (.admissionStart acc v) s = .next (s.ctlApply .farAdmit [] acc v.toNat)) ∧
    (s.flag .farAdmit [] 62 = false → (accBits acc v.toNat).testBit 63 = true → ∃ s', exec (.admissionStart acc v) s = .next s' ∧ s'.joining = true ∧ s'.flag .farAdmit [] 62 = true ∧ s'.rf .farAdmit [] 60 2 = 0 ∧
      s'.far.admitting = false ∧ s'.far.stateBytes = 0 ∧ ∀ c ∈ s.channels, (s.chanSt c = 2 ∨ s.chanSt c = 4 ∨ s.chanSt c = 5 → s'.chanSt c = 6) ∧ (s'.chan c).jobs = [] ∧ (s'.chan c).frames = [] ∧ (s'.chan c).sealing = none)

/-- Received frames (R402, R403, R408, R411-R413, R418, R420, R421, R423, R428, R430): a frame that fails a check counts as dropped and one that another row takes does nothing; one that the engine refuses or whose payload has not the form of its type leaves no more than the engine's own record; an accepted DATA or STATE frame is tracked and
acknowledged and its records are placed or counted; an ACK releases what it reports; a PROBE is echoed; an ECHO gives an RTT sample; a HELLO decides an open channel. That a malformed payload is discarded uncounted, and a frame lost while a reset or a quiesce holds the exchange's memory, are the model's choices (log 38); that a malformed
record is UB-51, what counts as dropped during a catch-up or with ENABLE 0, and that negative RTT samples are discarded are its readings (log 37). -/
def Obligations.FarFrames : Prop :=
  (∀ (f : Fin 4) (g : Datagram) (typ : Nat) (s : State), 1 ≤ typ → typ ≤ 6 →
    (s.farLink f = false ∨ s.farHeld = true → exec (farCmd f g typ) s = .next s) ∧
    (48 ≤ (dgBytes g).length → 1 ≤ (dgBytes g).getD 0 0 % 16 → (dgBytes g).getD 0 0 % 16 ≤ 6 → (dgBytes g).getD 0 0 % 16 ≠ typ → exec (farCmd f g typ) s = .next s) ∧
    (s.farLink f = true → s.farHeld = false → (dgBytes g).getD 0 0 % 16 = typ → s.frameOk f g = false → ∃ s', exec (farCmd f g typ) s = .next s' ∧
      s'.tallyAt (regOff .farTally [6]) = (s.tallyAt (regOff .farTally [6])).add 1 ∧ Quiet [] [regOff .farTally [6]] s s') ∧
    (s.farLink f = true → s.farHeld = false → (dgBytes g).getD 0 0 % 16 = typ → s.frameOk f g = true → let c := hdrF (dgBytes g) 2 2
      let opened := s.cipOpen g.room f c ((dgBytes g).take 32) (hdrF (dgBytes g) 12 4) (((dgBytes g).drop 32).take ((dgBytes g).length - 48)) ((dgBytes g).drop ((dgBytes g).length - 16))
      (opened.1 = .refused ∨ opened.1 = .failed → exec (farCmd f g typ) s = .next opened.2) ∧ (g.room = false → opened = (.refused, s.cipCount 3)) ∧
      (∀ v pt, opened.1 = .ok v pt → opened.2.payloadOk typ pt = false → exec (farCmd f g typ) s = .next opened.2)) ∧
    (s.frameOk f g = true → g.ok = true ∧ (dgBytes g).getD 0 0 / 16 = 1 ∧ (dgBytes g).getD 5 0 = s.farSite ∧ hdrF (dgBytes g) 8 2 = s.moduleId ∧ s.chanOn (hdrF (dgBytes g) 2 2) = true ∧
      hdrF (dgBytes g) 10 2 + 48 = (dgBytes g).length ∧ hdrF (dgBytes g) 24 8 = s.reg .farJob [])) ∧
  (∀ (f : Fin 4) (g : Datagram) (c v : Nat) (pt : List Nat) (s1 s : State), FrameIn f 1 g c v pt s1 s → (s1.chan c).pend.length < 3 →
    let acked : Chan := { s1.chan c with pend := (s1.chan c).pend ++ [(v, s1.time)] }
    let new : Chan := { tracked (s1.chan c) v with pend := (s1.chan c).pend ++ [(v, s1.time)] }
    let r := hdrF (dgBytes g) 16 4
    ((s1.chan c).duplicate v = true → ∃ s', exec (.data f g) s = .next s' ∧ s'.chan c = acked ∧ s'.tallyAt (regOff .farTally [1]) = (s1.tallyAt (regOff .farTally [1])).add 1) ∧
    ((s1.chan c).duplicate v = false → splitRecords s1.blocks (pt.length + 1) pt = none → exec (.data f g) s = .fault (.undefined (.ub 51))) ∧
    ((s1.chan c).duplicate v = false → ∀ rs, splitRecords s1.blocks (pt.length + 1) pt = some rs →
      (s1.joining = true ∧ (s1.rf .farAdmit [] 0 12 ≠ c ∨ s1.flag .farAdmit [] 62 = false) ∨ s1.joining = false ∧ (((dgBytes g).getD 1 0).testBit 6 = true ∨ s1.farOn = false) → ∃ s', exec (.data f g) s = .next s' ∧ s'.chan c = new ∧
        s'.tallyAt (regOff .farTally [3]) = (s1.tallyAt (regOff .farTally [3])).add rs.length) ∧
      (s1.joining = true → s1.flag .farAdmit [] 62 = true → s1.rf .farAdmit [] 0 12 = c → ((dgBytes g).getD 1 0).testBit 6 = true → s1.far.admitting = false →
        (s1.far.caught ++ rs.filter (fun q => !s1.far.caught.any (fun o => o.1 == q.1))).length < s1.blocks.length →
        ∃ s', exec (.data f g) s = .next s' ∧ s'.chan c = new ∧ s'.far.caught = s1.far.caught ++ rs.filter (fun q => !s1.far.caught.any (fun o => o.1 == q.1)) ∧ s'.mem = s1.mem) ∧
      (s1.joining = false → ((dgBytes g).getD 1 0).testBit 6 = false → s1.farOn = true → roundBefore r s1.farFirst = true → ∃ s', exec (.data f g) s = .next s' ∧ s'.chan c = new ∧
        s'.tallyAt (regOff .farTally [3]) = (s1.tallyAt (regOff .farTally [3])).add rs.length ∧ s'.mem = s1.mem) ∧
      (s1.joining = false → ((dgBytes g).getD 1 0).testBit 6 = false → s1.farOn = true → roundBefore r s1.farFirst = false → roundBefore s1.far.newest r = true → ∃ s', exec (.data f g) s = .next s' ∧ s'.chan c = s1.chan c ∧
        s'.tallyAt (regOff .farTally [4]) = (s1.tallyAt (regOff .farTally [4])).add 1) ∧
      (s1.joining = false → ((dgBytes g).getD 1 0).testBit 6 = false → s1.farOn = true → roundBefore s1.far.newest r = false → (dgBytes g).getD 20 0 = 0 → roundBefore r s1.farFirst = false → roundBefore r s1.far.old = false →
        ∀ j b bytes, (f32Val (s1.staleW 0)).isZero = false → rs = [(j, bytes)] → s1.blocks[j]? = some b → let a := s1.area
        let p := s1.chanPidx c
        PlainBytes s1 .unit ((List.range bytes.length).map (a.recv r p + b.off + ·) ++ [a.map r p + 2 * j]) → ((List.range bytes.length).map (a.recv r p + b.off + ·) ++ [a.map r p + 2 * j]).Nodup →
        ∃ s', exec (.data f g) s = .next s' ∧ s'.chan c = new ∧ s'.peeks .unit (a.recv r p + b.off) bytes.length = bytes.map (· % 256) ∧ s'.peek .unit (a.map r p + 2 * j) = (s1.peek .unit (a.map r p + 2 * j) ||| 1)))) ∧
  (∀ (f : Fin 4) (g : Datagram) (c v : Nat) (pt : List Nat) (s1 s : State), FrameIn f 6 g c v pt s1 s → (s1.chan c).pend.length < 3 →
    ((s1.chan c).duplicate v = true → ∃ s', exec (.state f g) s = .next s' ∧ s'.tallyAt (regOff .farTally [1]) = (s1.tallyAt (regOff .farTally [1])).add 1 ∧ ∀ k, deviceKey k → s'.byte k = s1.byte k) ∧
    ((s1.chan c).duplicate v = false → ∃ s', exec (.state f g) s = .next s' ∧ s'.chan c = { tracked (s1.chan c) v with pend := (s1.chan c).pend ++ [(v, s1.time)] } ∧
      (s1.joining = true → s1.flag .farAdmit [] 62 = true → s1.rf .farAdmit [] 0 12 = c → let off := beVal (pt.take 8)
        let n := pt.length - 16
        let g0 := s1.area.g (1 - s1.fpar)
        s'.far.stateBytes = s1.far.stateBytes + min n (8 * s1.area.e - off) ∧
        (off + n ≤ 4 * s1.area.e → PlainBytes s1 .unit ((List.range n).map (g0 + off + ·)) → s'.peeks .unit (g0 + off) n = (pt.drop 16).map (· % 256))) ∧
      (s1.joining = false ∨ s1.flag .farAdmit [] 62 = false ∨ s1.rf .farAdmit [] 0 12 ≠ c → ∀ k, s'.byte k = s1.byte k))) ∧
  (∀ (f : Fin 4) (g : Datagram) (c v : Nat) (pt : List Nat) (s1 s : State), FrameIn f 2 g c v pt s1 s → ∃ s', exec (.ackFrame f g) s = .next s' ∧ (s'.chan c).seen = (tracked (s1.chan c) v).seen ∧
    (∀ q ∈ (s'.chan c).frames, serialBefore 32 (q.seq % 2 ^ 32) (beVal (pt.take 4)) = false ∧ (ackRanges pt).any (inRange (q.seq % 2 ^ 32)) = false) ∧
    (∀ q ∈ (s1.chan c).frames, serialBefore 32 (q.seq % 2 ^ 32) (beVal (pt.take 4)) = false → (ackRanges pt).any (inRange (q.seq % 2 ^ 32)) = false →
      (if q.sends = 1 ∧ q.lost = false ∧ 3 ≤ reportedAbove (ackRanges pt) (q.seq % 2 ^ 32) then { q with lost := true } else q) ∈ (s'.chan c).frames) ∧ ∀ k, s'.byte k = s1.byte k) ∧
  (∀ (f : Fin 4) (g : Datagram) (c v : Nat) (pt : List Nat) (s1 s : State), FrameIn f 3 g c v pt s1 s →
    exec (.probe f g) s = .next ((s1.setChan c (tracked (s1.chan c) v)).sendControl c 4 (pt.take 8 ++ List.replicate 8 0))) ∧
  (∀ (f : Fin 4) (g : Datagram) (c v : Nat) (pt : List Nat) (s1 s : State), FrameIn f 4 g c v pt s1 s → let x : Int := (usSince s1.time (beVal (pt.take 8)) : Int) - beVal ((pt.drop 8).take 4)
    (x < 0 ∨ 1000000 < x → exec (.echo f g) s = .next (s1.setChan c (tracked (s1.chan c) v))) ∧
    (0 ≤ x → x ≤ 1000000 → (s1.chan c).rtt = false → ∃ s', exec (.echo f g) s = .next s' ∧ s'.reg .farChanRtt [c] = x.toNat * 2 ^ 32 + x.toNat / 2 ∧ s'.chan c = { tracked (s1.chan c) v with rtt := true }) ∧
    (0 ≤ x → x ≤ 1000000 → (s1.chan c).rtt = true → let old : Int := s1.rf .farChanRtt [c] 32 32
      old ≤ 1000000 → s1.rf .farChanRtt [c] 0 32 ≤ 1000000 → ∃ s', exec (.echo f g) s = .next s' ∧
      s'.rf .farChanRtt [c] 32 32 = (old + (x - old).tdiv 8).toNat ∧ s'.rf .farChanRtt [c] 0 32 = ((s1.rf .farChanRtt [c] 0 32 : Int) + (((x - old).natAbs : Int) - s1.rf .farChanRtt [c] 0 32).tdiv 4).toNat)) ∧
  ∀ (f : Fin 4) (g : Datagram) (c v : Nat) (pt : List Nat) (s1 s : State), FrameIn f 5 g c v pt s1 s → let d := min (roundSub (beVal (pt.take 4)) s1.farRoundNo) (roundSub s1.farRoundNo (beVal (pt.take 4)))
    (s1.chanSt c ≠ 1 → ∃ s', exec (.hello f g) s = .next s' ∧ (s'.chan c).peerSpan = beVal ((pt.drop 4).take 2) ∧ (s'.chan c).peerContrib = beVal ((pt.drop 8).take 8) ∧ s'.chanSt c = s1.chanSt c ∧ ((pt.getD 6 0).testBit 0 = false ∨ (s1.chan c).sealing = none → s' = { s1 with far := s'.far })) ∧
    (s1.chanSt c = 1 → d ≤ s1.farLag → ∃ s', exec (.hello f g) s = .next s' ∧ s'.chanSt c = 2 ∧ (s'.chan c).peerContrib = beVal ((pt.drop 8).take 8)) ∧
    ((pt.getD 6 0).testBit 0 = true → ∃ s', exec (.hello f g) s = .next s' ∧ (s'.chan c).donor = 1 ∧ (s'.chan c).catchSlot = none ∧ ∀ j ∈ (s'.chan c).jobs, j.cls ≠ 2 ∧ j.catchup = false) ∧
    (s1.chanSt c = 1 → s1.farLag < d → ∃ s', exec (.hello f g) s = .next s' ∧ s'.chanSt c = 5 ∧ (s'.chan c).slot = none ∧
      (s'.chan c).jobs = (if (pt.getD 6 0).testBit 0 then [] else (s1.chan c).jobs.filter (fun j => j.cls == 2 || j.catchup)) ∧ let own := (s1.chan c).sentContrib.getD (s1.reg .farContrib [])
      let peer := beVal ((pt.drop 8).take 8)
      s'.rf .farChanState [c] 44 2 = if own < peer then 1 else if peer < own then 2 else if s1.farSite < s1.peerSite c then 1 else 2)

/-- Sending (R409, R415, R419-R421, R423-R426): a frame is sealed into the far buffer within every quota; a lost frame goes first, then the oldest unsent one within the window, with RETX and a count when it goes again; ACK_DELAY answers the oldest
frame; PROBE_INT sends what the channel's state asks for; the rate falls after a loss and rises without; a channel whose contact is lost is DARK, keeps its frames, abandons one that is being encrypted, and takes the lowest free span slot. A frame of more than 512 bytes of text is sealed segment by segment (R435). That RETRANSMIT
goes at once whatever the window, and that lost frames go first, are the model's readings (log 37); that JOIN sends neither PROBE nor HELLO, and FAR_DARK in JOIN, are log 38's; where the accumulator and the counter stand in the context is log 39's. -/
def Obligations.FarSending : Prop :=
  (∀ (c : Fin 4096) (s : State),
    (s.farHeld = true ∨ ((s.chan c).sealing = none ∧ s.nextJob c = none) → exec (.frameAdmit c) s = .next s) ∧
    (s.farHeld = false → ∀ z, (s.chan c).sealing = some z → (s.cipReady (s.chanPort c) = false → exec (.frameAdmit c) s = .next s) ∧
      (s.cipReady (s.chanPort c) = true → ∀ b s0, s.ctxGet (s.chanPort c) c 0 = (some b, s0) → ∃ s', exec (.frameAdmit c) s = .next s' ∧
        (z.frame.body.length ≤ z.done + 528 → (s'.chan c).sealing = none ∧ (s'.chan c).frames = (s.chan c).frames ++ [z.frame] ∧ (s'.ctxGet (s.chanPort c) c 0).1 = some (ctxIdle b) ∧ (z.whole = true → (s'.chan c).jobs = (s.chan c).jobs.erase z.job)) ∧
        (z.done + 528 < z.frame.body.length → s'.chan c = { s.chan c with sealing := some { z with done := z.done + 512 } } ∧ (s'.ctxGet (s.chanPort c) c 0).1 = some (ctxInFrame b c (aadOf z.frame.hdr) z.frame (z.done + 512))))) ∧
    (∀ j, s.farHeld = false → (s.chan c).sealing = none → s.nextJob c = some j → let (text, n, whole) := s.jobText c j
      n ≠ 0 ∧ s.quotaOk c j.cls (48 + text.length) = true ∧ s.mayFrame c (s.chan c).jobs j = true ∧ (s.chan c).jobs.find? (fun k => k.cls == j.cls) = some j ∧
      (let hdr := s.farHeader c (if j.cls = 2 then 6 else 1) (64 * bit j.catchup) text.length j.round j.span j.cls;
        (∀ s1, s.cipSeal (s.chanPort c) c hdr text = (none, s1) → exec (.frameAdmit c) s = .next s1) ∧
        (∀ z s1, s.cipSeal (s.chanPort c) c hdr text = (some z, s1) → 512 < text.length → ∃ s', exec (.frameAdmit c) s = .next s' ∧
          s'.chan c = { s.chan c with sealing := some ⟨⟨z.seq, j.cls, hdr z.seq, z.text ++ z.tag, 0, 0, false⟩, 512, j, n, whole⟩ }) ∧
        (∀ z s1, s.cipSeal (s.chanPort c) c hdr text = (some z, s1) → text.length ≤ 512 → ∃ s', exec (.frameAdmit c) s = .next s' ∧ (s'.chan c).frames = (s1.chan c).frames ++ [⟨z.seq, j.cls, hdr z.seq, z.text ++ z.tag, 0, 0, false⟩] ∧
          (whole = false → s' = s1.setChan c { s1.chan c with frames := (s'.chan c).frames, jobs := (s'.chan c).jobs }) ∧ (whole = true → (s'.chan c).jobs = (s1.chan c).jobs.erase j)))) ∧
    (∀ x size, s.quotaOk c x size = true ↔ s.chanUse c + size ≤ s.rf .farChanQuota [c.val] 12 36 * 4096 ∧ s.classUse x + size ≤ s.rf .farClassQ [x] 12 36 * 4096 ∧ s.fbufUse + size ≤ s.rf .farFbuf [] 0 8 * 2 ^ 30)) ∧
  (∀ (c : Fin 4096) (s : State), let x := s.chan c
    (s.mayTransmit c = false → exec (.frameSend c) s = .next s) ∧
    (s.mayTransmit c = true → (∀ f, x.frames.find? (·.lost) = some f → exec (.frameSend c) s = .next (s.transmit c f)) ∧
      (∀ f, x.frames.find? (·.lost) = none → x.frames.find? (fun f => f.sends == 0) = some f → (x.inFlight + f.size ≤ s.farWindow c → exec (.frameSend c) s = .next (s.transmit c f)) ∧
        (s.farWindow c < x.inFlight + f.size → exec (.frameSend c) s = .next s)) ∧
      (x.frames.find? (·.lost) = none → x.frames.find? (fun f => f.sends == 0) = none → exec (.frameSend c) s = .next s)) ∧
    (s.mayTransmit c = true ↔ (s.chanSt c = 2 ∨ s.chanSt c = 4 ∨ s.chanSt c = 5) ∧ s.farLink (s.chanPort c) = true ∧ s.rf .farChanRate [c.val] 0 32 ≠ 0) ∧
    (∀ seq f, x.frames.find? (fun f => f.seq == seq && 0 < f.sends) = some f → s.mayTransmit c = true → exec (.retransmit c seq) s = .next ((s.setChan c { x with lossSeen := true }).transmit c f)) ∧
    (∀ f ∈ x.frames, (x.frames.map FarFrame.seq).Nodup → s.isl.quiesced = [] → let s' := s.transmit c f
      { f with sends := f.sends + 1, sentAt := s.time, lost := false } ∈ (s'.chan c).frames ∧ (s'.chan c).frames.length = x.frames.length ∧ (∀ k, deviceKey k → s'.byte k = s.byte k) ∧
      (f.sends = 0 → ∃ d, s'.out = s.out ++ [.far (s.chanPort c) d] ∧ dgBytes d = (f.hdr ++ f.body).map (· % 256) ∧ s'.tally = s.tally) ∧
      (0 < f.sends → s'.tallyAt (regOff .farTally [0]) = (s.tallyAt (regOff .farTally [0])).add 1 ∧ ∃ d l, s'.out = s.out ++ l ++ [.far (s.chanPort c) d] ∧ dgBytes d =
        (f.hdr.zipIdx.map (fun h => if h.2 = 1 then h.1 ||| 0x80 else h.1) ++ f.body).map (· % 256)))) ∧
  (∀ (c : Fin 4096) (s : State),
    (∀ v t rest, (s.chan c).pend = (v, t) :: rest → exec (.ackDelay c) s = .next (s.sendAck c v t) ∧ ((s.sendAck c v t).chan c).pend = []) ∧
    ((s.chan c).pend = [] → exec (.ackDelay c) s = .next s) ∧
    (s.chanSt c = 1 → exec (.probeInt c) s = .next (s.sendHello c false false)) ∧
    (s.chanSt c = 2 ∨ s.chanSt c = 4 → exec (.probeInt c) s = .next (s.sendProbe c)) ∧
    (s.chanSt c = 3 ∨ s.chanSt c = 5 → exec (.probeInt c) s = .next ((s.sendProbe c).sendHello c false false)) ∧
    (s.chanSt c = 0 ∨ 6 ≤ s.chanSt c → exec (.probeInt c) s = .next s ∧ (s.chanSt c = 0 → exec (.rateAdjust c) s = .next s)) ∧
    (s.chanSt c ≠ 0 → let rate := s.rf .farChanRate [c.val] 0 32
      let cur := s.rf .farChanRate [c.val] 32 32
      ∃ s', exec (.rateAdjust c) s = .next s' ∧ (s'.chan c).lossSeen = false ∧ s'.rf .farChanRate [c.val] 0 32 = rate ∧
        s'.rf .farChanRate [c.val] 32 32 = (if (s.chan c).lossSeen then max (cur * 7 / 8) (rate / 16) else min rate (cur + rate / 32)) ∧ ∀ o, o ≠ regOff .farChanRate [c.val] → s'.ctlRaw o = s.ctlRaw o)) ∧
  ∀ (c : Fin 4096) (s : State), 4 ≤ c.val →
    (s.chanSt c = 2 ∨ s.chanSt c = 4 ∨ s.chanSt c = 6 → ∃ s', exec (.farDark c) s = .next s' ∧ s'.chanSt c = 3 ∧ (s'.chan c).jobs = [] ∧ (s'.chan c).sealing = none ∧
      (s'.chan c).slot = (s.setChan c { s.chan c with slot := none, rounds := [] }).freeSlot ∧ (s'.flag .farChanState [c.val] 60 = true ↔ (s'.chan c).slot = none) ∧
      (s'.chan c).frames = (s.chan c).frames ∧ (s'.chan c).donor = 0 ∧ (s'.chan c).catchSlot = none ∧
      (s.joining = true → s.flag .farAdmit [] 62 = true → s.rf .farAdmit [] 0 12 = c → s'.flag .farAdmit [] 62 = false ∧ s'.rf .farAdmit [] 60 2 = 2 ∧ s'.far.admitting = false ∧ s'.far.caught = [] ∧ (s.phase ≠ 0 → s.flag .farApplyWait [] 62 = true → s'.far.failed = true ∧ s'.flag .farApplyWait [] 62 = false))) ∧
    (s.chanSt c = 3 → exec (.farDark c) s = .next (s.setChan c { s.chan c with resumed := false, gotAck := false, gotHello := false })) ∧
    (s.chanSt c = 0 ∨ s.chanSt c = 1 ∨ s.chanSt c = 5 ∨ s.chanSt c = 7 → exec (.farDark c) s = .next s)

/-! ### Cipher engines (chapter 11) -/

/-- Locks, tests and entropy (R452, R453, R463, R464): ACQUIRE takes a free lock for its requester, the host or Shepherd, with the written CHAN and is ignored while it is held; RELEASE frees the requester's own lock, at once or, while BUSY is 1, when the
operation ends; an idle lock is broken; RESTART runs the tests; a passed test gives READY, a failed one takes it and ends the operation in progress with ENTROPY; a generator is reseeded after 2^20 requests and not before. A write of ACQUIRE in half an access is R4's case (the
model's reading of CHAN's row). -/
def Obligations.CipherLocks : Prop :=
  (∀ (f : Fin 4) (acc : Acc) (v : Word) (shep : Bool) (s : State), CipSends shep .cipPlock f acc v.toNat s → let b := accBits acc v.toNat
    let who := if shep then 2 else 1
    let same (s' : State) : Prop := (s'.flag .cipPlock [f.val] 61 = (s.flag .cipPlock [f.val] 61 && !b.testBit 61)) ∧ ∀ o, o ≠ regOff .cipPlock [f.val] → s'.ctlRaw o = s.ctlRaw o
    (b.testBit 63 = false → exec (.lockAcquire f ⟨acc, shep⟩ v) s = .next s) ∧
    (b.testBit 63 = true → acc = .high → exec (.lockAcquire f ⟨acc, shep⟩ v) s = .fault (.undefined .r4)) ∧
    (b.testBit 63 = true → acc = .full → s.cipOwner f = 0 → ∃ s', exec (.lockAcquire f ⟨acc, shep⟩ v) s = .next s' ∧ s'.cipOwner f = who ∧ s'.rf .cipPlock [f.val] 0 2 = fld v.toNat 0 2 ∧ same s' ∧ s' = { s with ctl := s'.ctl }) ∧
    (b.testBit 63 = true → acc = .full → s.cipOwner f ≠ 0 → b.testBit 62 = false → ∃ s', exec (.lockAcquire f ⟨acc, shep⟩ v) s = .next s' ∧ s'.cipOwner f = s.cipOwner f ∧ s'.rf .cipPlock [f.val] 0 2 = s.rf .cipPlock [f.val] 0 2 ∧
      same s' ∧ s' = { s with ctl := s'.ctl }) ∧
    (b.testBit 62 = false → exec (.lockRelease f ⟨acc, shep⟩ v) s = .next s) ∧
    (b.testBit 62 = true → (b.testBit 63 = true → acc = .full) → s.cipOwner f = who →
      (s.cipBusy f = false → ∃ s', exec (.lockRelease f ⟨acc, shep⟩ v) s = .next s' ∧ s'.cipOwner f = 0 ∧ same s' ∧ f.val ∉ s'.cip.releasing ∧ s' = { s with ctl := s'.ctl, cip := { s.cip with releasing := s'.cip.releasing } }) ∧
      (s.cipBusy f = true → ∃ s', exec (.lockRelease f ⟨acc, shep⟩ v) s = .next s' ∧ s'.cipOwner f = who ∧ same s' ∧ f.val ∈ s'.cip.releasing ∧ s' = { s with ctl := s'.ctl, cip := { s.cip with releasing := s'.cip.releasing } })) ∧
    (b.testBit 62 = true → (b.testBit 63 = true → acc = .full ∧ s.cipOwner f ≠ 0) → s.cipOwner f ≠ who → ∃ s', exec (.lockRelease f ⟨acc, shep⟩ v) s = .next s' ∧ s'.cipOwner f = s.cipOwner f ∧ same s' ∧ s' = { s with ctl := s'.ctl })) ∧
  (∀ (f : Fin 4) (s : State),
    (s.cipOwner f ≠ 0 → s.cipBusy f = false → ∃ s', exec (.cipLockBreak f) s = .next s' ∧ s'.cipOwner f = 0 ∧ s'.flag .cipPlock [f.val] 61 = true ∧ f.val ∉ s'.cip.releasing ∧
      Quiet [regOff .cipPlock [f.val]] [] { s with cip := { s.cip with releasing := s'.cip.releasing } } s') ∧
    (s.cipOwner f = 0 ∨ s.cipBusy f = true → exec (.cipLockBreak f) s = .next s) ∧
    (f.val ∈ s.cip.testing → ∃ s', exec (.startUpTestsPass f) s = .next s' ∧ s'.cipReady f = true ∧ f.val ∉ s'.cip.testing ∧ s' = { s with ctl := s'.ctl, cip := { s.cip with testing := s'.cip.testing } } ∧
      ∀ o, o ≠ regOff .cipEngine [f.val] → s'.ctlRaw o = s.ctlRaw o) ∧
    (f.val ∉ s.cip.testing → exec (.startUpTestsPass f) s = .next s) ∧
    (∀ test : Fin 3, ∃ s', exec (.cipEntropyFail f test) s = .next s' ∧ s'.cipReady f = false ∧ s'.flag .cipEngine [f.val] 62 = true ∧ f.val ∉ s'.cip.testing ∧
      (Unsealed s → Quiet [regOff .cipEngine [f.val], regOff .cipPop [f.val], regOff .cipPstatus [f.val], regOff .cipPlock [f.val]] [] { s with cip := s'.cip } s') ∧
      (∀ e ∈ s.far.chans, s.chanPort e.1 = f.val → (s'.chan e.1).sealing = none) ∧
      (s.cipBusy f = false → s'.cip.ops = s.cip.ops ∧ s'.cipOwner f = s.cipOwner f) ∧
      (s.cipBusy f = true → s'.cipBusy f = false ∧ s'.rf .cipPstatus [f.val] 60 4 = 9 ∧ (∀ o ∈ s'.cip.ops, o.eng ≠ f.val) ∧ s'.cipOwner f = if f.val ∈ s.cip.releasing then 0 else s.cipOwner f)) ∧
    (tblGet (fun _ => 0) s.cip.requests f.val < 2 ^ 20 → exec (.reseed f) s = .next s) ∧
    (2 ^ 20 ≤ tblGet (fun _ => 0) s.cip.requests f.val → ∃ s', exec (.reseed f) s = .next s' ∧ tblGet (fun _ => 0) s'.cip.reseeds f.val = tblGet (fun _ => 0) s.cip.reseeds f.val + 1 ∧
      tblGet (fun _ => 0) s'.cip.requests f.val = tblGet (fun _ => 0) s.cip.requests f.val - 2 ^ 20 ∧ s' = { s with cip := { s.cip with reseeds := s'.cip.reseeds, requests := s'.cip.requests } })) ∧
  ∀ (f : Fin 4) (acc : Acc) (v : Word) (s : State), HostOpen 0 .cipEngine [f.val] acc v.toNat s → let b := accBits acc v.toNat
    (b.testBit 61 = false → exec (.restart f acc v) s = .next (s.ctlApply .cipEngine [f.val] acc v.toNat)) ∧
    (b.testBit 61 = true → ∃ s', exec (.restart f acc v) s = .next s' ∧ s'.cipReady f = false ∧ f.val ∈ s'.cip.testing ∧ (s'.flag .cipEngine [f.val] 62 = (s.flag .cipEngine [f.val] 62 && !b.testBit 62)) ∧
      s' = { s with ctl := s'.ctl, cip := { s.cip with testing := s'.cip.testing } } ∧ ∀ o, o ≠ regOff .cipEngine [f.val] → s'.ctlRaw o = s.ctlRaw o)

/-- The privileged operations (R454-R460, R462): GO, of the host or of Shepherd, copies the operation registers and ARM and sets BUSY; without the lock it ends with NOT_OWNER; the result of an operation comes first from its checks, then from its buffers, and every result but
OK leaves the key store and memory; each operation writes what R455 says, and an ENCRYPT whose key has no sequence left ends without one. Key zeroisation erases the keys, resets the compute domain and leaves the context area zero. The order of the checks, that a GO on an engine that does not run starts
nothing, an ENCRYPT whose key is exhausted, and which placements are ADDR_FAULT rather than UB-55 or UB-56 are the model's readings (DEDUCED, log 39); that the zero fill follows the keys at once is log 40's; an operation whose memory a reset or a quiesce holds waits (R509, R519). -/
def Obligations.CipherOperations : Prop :=
  (∀ (f : Fin 4) (acc : Acc) (v : Word) (shep : Option ShepRegs) (s : State) (row : Instr) (op : Nat),
    (row, op) ∈ [(Instr.encrypt f ⟨acc, shep⟩ v, 1), (Instr.decrypt f ⟨acc, shep⟩ v, 2), (Instr.keyload f ⟨acc, shep⟩ v, 3), (Instr.pkeyload f ⟨acc, shep⟩ v, 4), (Instr.kekInstall f ⟨acc, shep⟩ v, 5)] → CipSends shep.isSome .cipPop f acc v.toNat s →
    let w := ctlMerge .cipPop acc (s.reg .cipPop [f.val]) v.toNat
    let go : Prop := (accBits acc v.toNat).testBit 63 = true ∧ fld w 54 4 = op
    let who := if shep.isSome then 2 else 1
    let s0 := match shep with
      | none => s
      | some r => s.shepArgs f r
    let l := s0.reg .cipPlen [f.val]
    (¬ go → exec row s = .next s) ∧
    (∀ r, shep = some r → s.popOwned 2 f = true → s0 = { s with ctl := s0.ctl } ∧ s0.reg .cipPsrc [f.val] = ctlMerge .cipPsrc .full (s.reg .cipPsrc [f.val]) r.psrc.toNat ∧ s0.reg .cipPdst [f.val] = ctlMerge .cipPdst .full (s.reg .cipPdst [f.val]) r.pdst.toNat ∧
      l = ctlMerge .cipPlen .full (s.reg .cipPlen [f.val]) r.plen.toNat ∧ s0.reg .cipPseq [f.val] = ctlMerge .cipPseq .full (s.reg .cipPseq [f.val]) r.pseq.toNat) ∧
    (go → s.popOwned who f = true → s.cipReady f = true → ∃ s', exec row s = .next s' ∧ s'.reg .cipPop [f.val] = setBits w 62 1 1 ∧ s'.cipBusy f = true ∧ s' = { s with ctl := s'.ctl, cip := { s.cip with ops := s.cip.ops ++
        [{ eng := f.val, lockChan := s.rf .cipPlock [f.val] 0 2, op := op, strict := fld w 53 1 == 1, dir := fld w 52 1, kslot := fld w 48 4, channel := fld w 36 12, src := s0.reg .cipPsrc [f.val], dst := s0.reg .cipPdst [f.val]
           aadLen := fld l 48 9, textLen := fld l 0 17, seq := s0.reg .cipPseq [f.val], arm := s.armed }] } } ∧ ∀ o, o ≠ regOff .cipPop [f.val] → s'.ctlRaw o = s0.ctlRaw o) ∧
    (go → s.popOwned who f = true → s.cipReady f = false → exec row s = .next (s0.ctlApply .cipPop [f.val] acc v.toNat)) ∧
    (go → s.cipOwner f = 0 → ∃ s', exec row s = .next s' ∧ s'.rf .cipPstatus [f.val] 60 4 = 7 ∧ s' = { s with ctl := s'.ctl } ∧ ∀ o, o ≠ regOff .cipPstatus [f.val] → s'.ctlRaw o = s.ctlRaw o) ∧
    (go → s.popOwned who f = false → s.cipOwner f ≠ 0 → exec row s = .next s)) ∧
  (∀ (f : Fin 4) (s : State), s.cip.ops.find? (fun o => o.eng == f.val) = none → exec (.privilegedResult f) s = .next s) ∧
  (∀ (f : Fin 4) (s : State) (o : PrivOp), s.cip.ops.find? (fun o => o.eng == f.val) = some o →
    let ended (r : Nat) (s' : State) : Prop := s'.rf .cipPstatus [f.val] 60 4 = r ∧ s'.cipBusy f = false ∧ (∀ p ∈ s'.cip.ops, p.eng ≠ f.val) ∧ s'.cipOwner f = if f.val ∈ s.cip.releasing then 0 else s.cipOwner f
    let kept (s' : State) : Prop := (∀ k, deviceKey k → s'.byte k = s.byte k) ∧ s'.cip.kek = s.cip.kek ∧ s'.cip.kekGen = s.cip.kekGen ∧ s'.cip.pkeys = s.cip.pkeys ∧ s'.cip.pseqs = s.cip.pseqs
    let src := s.peeks .unit o.src o.srcLen
    let rd := (List.range o.srcLen).map (o.src + ·)
    let wr := (List.range o.dstLen).map (o.dst + ·)
    (s.popCheck o ≠ 1 → ∃ s', exec (.privilegedResult f) s = .next s' ∧ ended (s.popCheck o) s' ∧ kept s') ∧
    (s.popCheck o = 1 → s.popHeld o = true → exec (.privilegedResult f) s = .next s) ∧
    (s.popCheck o = 1 → s.popHeld o = false → o.op = 3 → (s.lowFault .unit true [s.ctxAddr o.channel o.dir]).isSome = true → exec (.privilegedResult f) s = .fault (.undefined (.ub 55))) ∧
    (s.popCheck o = 1 → s.popHeld o = false → (o.op = 3 → (s.lowFault .unit true [s.ctxAddr o.channel o.dir]).isSome = false) →
      (s.lowFault .unit false rd).isSome = true ∨ (s.lowFault .unit true wr).isSome = true → ∃ s', exec (.privilegedResult f) s = .next s' ∧ ended 0xA s' ∧ kept s') ∧
    (s.popCheck o = 1 → s.popHeld o = false → (o.op = 3 → (s.lowFault .unit true [s.ctxAddr o.channel o.dir]).isSome = false) → (s.lowFault .unit false rd).isSome = false → (s.lowFault .unit true wr).isSome = false → s.popMisplaced o = true →
      exec (.privilegedResult f) s = .fault (.undefined (.ub 56))) ∧
    (s.popCheck o = 1 → s.popHeld o = false → s.popMisplaced o = false → (s.lowFault .unit false rd).isSome = false → (s.lowFault .unit true wr).isSome = false →
      (o.op = 1 → 2 ^ 64 ≤ tblGet (fun _ => 0) s.cip.pseqs o.kslot → ∃ r s', exec (.privilegedResult f) s = .next s' ∧ 2 ≤ r ∧ r ≤ 11 ∧ ended r s' ∧ kept s') ∧
      (o.op = 1 → tblGet (fun _ => 0) s.cip.pseqs o.kslot < 2 ^ 64 → PlainBytes s .unit wr → let q := tblGet (fun _ => 0) s.cip.pseqs o.kslot
        let z := gcmSeal (s.pkey o.kslot) (cipIv o.lockChan q) (src.take o.aadLen) ((src.drop o.aadLen).take o.textLen)
        z.1.length + z.2.length = o.dstLen → ∃ s', exec (.privilegedResult f) s = .next s' ∧ ended 1 s' ∧ s'.reg .cipPseq [f.val] = q % 2 ^ 64 ∧ tblGet (fun _ => 0) s'.cip.pseqs o.kslot = q + 1 ∧
          s'.peeks .unit o.dst o.dstLen = (z.1 ++ z.2).map (· % 256)) ∧
      (o.op = 2 → PlainBytes s .unit wr → let z := gcmOpen (s.pkey o.kslot) (cipIv o.lockChan o.seq) (src.take o.aadLen) ((src.drop o.aadLen).take o.textLen) (src.drop (o.aadLen + o.textLen))
        (z = none → ∃ s', exec (.privilegedResult f) s = .next s' ∧ ended 2 s' ∧ kept s') ∧
        (∀ pt, z = some pt → pt.length = o.dstLen → ∃ s', exec (.privilegedResult f) s = .next s' ∧ ended 1 s' ∧ s'.cip.pseqs = s.cip.pseqs ∧ s'.peeks .unit o.dst o.dstLen = pt.map (· % 256))) ∧
      (o.op = 3 → s.ctxWrap = false → (s.lowFault .unit true [s.ctxAddr o.channel o.dir]).isSome = false → o.channel < 4096 → o.dir < 2 → s.cip.kekGen < 2 ^ 32 → ∀ k, s.cip.kek = some k →
        (kwUnwrap k (src.take 40) = none → ∃ s', exec (.privilegedResult f) s = .next s' ∧ ended 2 s' ∧ kept s') ∧
        (∀ key, kwUnwrap k (src.take 40) = some key → key.length = 32 → PlainBytes s .unit ((List.range 128).map (s.ctxAddr o.channel o.dir + ·)) → ∃ s' b, exec (.privilegedResult f) s = .next s' ∧ ended 1 s' ∧
          s'.peeks .unit (s.ctxAddr o.channel o.dir) 128 = b.map (· % 256) ∧ ctxKey b = key ∧ ctxSeq b = 0 ∧ ctxMaxLen b = o.textLen ∧ ctxStrict b = o.strict ∧ ctxValid b = true ∧ ctxSpent b = false ∧
          ctxLe b 104 2 = o.channel + o.dir * 2 ^ 15 ∧ ctxLe b 107 1 = 1 ∧ ctxLe b 108 4 = s.cip.kekGen ∧ (b.drop 96).take 8 = src.drop 40)) ∧
      (o.op = 4 → ∀ k, s.cip.kek = some k →
        (kwUnwrap k src = none → ∃ s', exec (.privilegedResult f) s = .next s' ∧ ended 2 s' ∧ kept s') ∧
        (∀ key, kwUnwrap k src = some key → ∃ s', exec (.privilegedResult f) s = .next s' ∧ ended 1 s' ∧ s'.pkey o.kslot = key ∧ tblGet (fun _ => 0) s'.cip.pseqs o.kslot = 0 ∧ (∀ j, j ≠ o.kslot → s'.pkey j = s.pkey j) ∧
          ∀ x, s'.byte x = s.byte x)) ∧
      (o.op = 5 → ∃ s', exec (.privilegedResult f) s = .next s' ∧ ended 1 s' ∧ s'.cip.kek = some src ∧ s'.cip.kekGen = (s.cip.kekGen + 1) % 2 ^ 32 ∧ (∀ k, s'.pkey k = []) ∧ ∀ x, s'.byte x = s.byte x))) ∧
  ∀ (acc : Acc) (v : Word) (s : State), HostOpen 0 .cipKeystore [] acc v.toNat s →
    (fld (accBits acc v.toNat) 48 8 ≠ 0xA5 → exec (.keyZeroisation acc v) s = .next (s.ctlApply .cipKeystore [] acc v.toNat)) ∧
    (fld (accBits acc v.toNat) 48 8 = 0xA5 → Registers.wf s.ctl → ∃ s', exec (.keyZeroisation acc v) s = .next s' ∧ s'.cip.kek = none ∧ (∀ k, s'.pkey k = []) ∧ s'.cip.pseqs = [] ∧ s'.cip.cache = [] ∧ s'.cip.ops = [] ∧
      s'.flag .cipKeystore [] 61 = true ∧ s'.isReady = false ∧ s'.isl.running = [⟨2, 0, 7, false⟩] ∧ s'.rf .clkStatus [] 44 4 = 2 ∧ s'.rf .clkStatus [] 40 4 = 7 ∧ s'.tiles = [] ∧
      ∀ a, s.ctxAddr 0 0 ≤ a → a < s.ctxAddr 0 0 + 2 ^ 21 → a < 2 ^ 40 → (∀ k, s.locate .unit false a = .mem k → s.mapAt k = none) → s'.peek .unit a = 0)

/-- A frame that one engine seals another opens (R436-R439, R443): the sealing takes the context's next sequence; whoever holds the same key, and a HIGHEST that lies within the window, recovers the sequence from SEQ and the text from the
ciphertext whatever RETX says, and HIGHEST follows; a tag that does not verify releases nothing; a STRICT context seals no text beyond MAXLEN. -/
def Obligations.CipherRoundTrip : Prop :=
  (∀ (f : Nat) (c : Nat) (hdr : Nat → List Nat) (pt b : List Nat) (s s0 s1 : State) (z : Sealed), s.ctxGet f c 0 = (some b, s0) → (ctxKey b).length = 32 → s.cipSeal f c hdr pt = (some z, s1) →
    z.seq = ctxSeq b ∧ z.text.length = pt.length ∧ z.tag.length = 16 ∧
    ∀ (g : Nat) (h b' : List Nat) (r r1 : State), r.cipReady g = true → r.ctxGet g c 1 = (some b', r1) → ctxKey b' = ctxKey b → aadOf h = aadOf (hdr z.seq) →
      (ctxStrict b' = true → pt.length % 16 = 0 ∧ pt.length ≤ ctxMaxLen b') → ctxSeq b' ≤ z.seq + 2 ^ 31 → z.seq < ctxSeq b' + 2 ^ 31 →
      r.cipOpen true g c h (z.seq % 2 ^ 32) z.text z.tag = (.ok z.seq pt, (r1.drawMasks g pt.length).ctxUpdate g c 1 (ctxSet b' 80 8 (max (ctxSeq b') z.seq)))) ∧
  (∀ (f c : Nat) (hdr : Nat → List Nat) (pt b : List Nat) (s s0 : State), s.cipReady f = true → s.ctxGet f c 0 = (some b, s0) → ctxStrict b = true → pt.length % 16 ≠ 0 ∨ ctxMaxLen b < pt.length → s.cipSeal f c hdr pt = (none, s0)) ∧
  (∀ (g c seq : Nat) (h ct tag b : List Nat) (r r1 : State), r.cipReady g = true → r.ctxGet g c 1 = (some b, r1) → (ctxStrict b = true → ct.length % 16 = 0 ∧ ct.length ≤ ctxMaxLen b) →
    gcmTag (ctxKey b) (cipIv c (rxSeq (ctxSeq b) seq)) (aadOf h) ct ≠ tag → ∃ r', r.cipOpen true g c h seq ct tag = (.failed, r') ∧ r'.cip.cache = r1.cip.cache ∧ (∀ k, deviceKey k → r'.byte k = r1.byte k) ∧
      r'.tallyAt (regOff .cipTally [0]) = (r1.tallyAt (regOff .cipTally [0])).add 1) ∧
  ∀ (a b : Nat) (h : List Nat), b < 128 → aadOf (a :: (b + 128) :: h) = aadOf (a :: b :: h)

/-! ### Work rings, events, tallies (chapter 12) -/

/-- Work rings (R472, R473, R475, R476): the doorbell and a resume look at the entry at HEAD, and a bad one sets ERROR with its STATUS; a ring's entry runs by its own command only; NOP, SLICE_START and REG_WRITE complete at once, SLICE_STOP,
SLICE_WAIT and REG_WAIT wait and complete by RING_DONE's command; completing writes RESULT and STATUS, raises the event that EVENT asks for, and advances HEAD; a TAIL more than a ring's length before HEAD is undefined (UB-58). The time that has passed is the environment's (log 13); that the entry is looked at again
when HEAD moves, that REG_WAIT samples its register at RING_DONE and that SLICE_STOP never times out are the model's readings (log 41), and as what a LOG2N outside 4 to 16 acts is left open (log 52). -/
def Obligations.WorkRings : Prop :=
  (∀ (w : Fin 64) (acc : Acc) (v : Word) (s : State), HostOpen 0 .idWringDb [w.val] acc v.toNat s → let s1 := s.ctlApply .idWringDb [w.val] acc v.toNat
    (s1.ringOver w = true → exec (.workRingDoorbell w acc v) s = .fault (.undefined (.ub 58))) ∧
    (s1.ringOver w = false → exec (.workRingDoorbell w acc v) s = .next (s1.ringLook w))) ∧
  (∀ (w : Fin 64) (s : State), let v := setBits (setBits (s.reg .idWringCtrl [w.val]) 61 1 0) 62 1 1
    let l := s.rf .idWringCtrl [w.val] 16 5
    HostOpen 0 .idWringCtrl [w.val] .full v s → s.flag .idWringCtrl [w.val] 63 = true →
    (4 ≤ l → l ≤ 16 → s.ringLog w = l) ∧
    (s.ringOver w = false → ∃ s1 : State, exec (.ringResume w) s = .next (s1.ringLook w) ∧ s1.flag .idWringCtrl [w.val] 62 = false ∧ s1.flag .idWringCtrl [w.val] 63 = true ∧ s1 = { s with ctl := s1.ctl } ∧
      ∀ o, o ≠ regOff .idWringCtrl [w.val] → s1.ctlRaw o = s.ctlRaw o) ∧
    (s.ringOver w = true → exec (.ringResume w) s = .fault (.undefined (.ub 58)))) ∧
  (∀ (w : Fin 64) (s : State), (s.ringCan w = false ∨ badEntry (s.ringEntry w) = false → s.ringLook w = s) ∧
    (s.ringCan w = true → badEntry (s.ringEntry w) = true → ∃ x : State, s.ringLook w = x.raise 0x0002 0 0xA w (entF (s.ringEntry w) 4 4) 4 ∧ x.flag .idWringCtrl [w.val] 62 = true ∧ x.ringHead w = s.ringHead w ∧
      x.le (hostKey (s.ringSlotAt w (s.ringHead w) + 2)) 2 = 4 ∧ x = { s with mem := x.mem, ctl := x.ctl } ∧ (∀ o, o ≠ regOff .idWringCtrl [w.val] → x.ctlRaw o = s.ctlRaw o) ∧ ∀ k, deviceKey k → x.byte k = s.byte k)) ∧
  (∀ e : List Nat, badEntry e = true ↔ 5 < entF e 0 1 ∨ 1 < entF e 1 1 ∨ entF e 36 4 ≠ 0 ∨ entF e 48 16 ≠ 0 ∨ (1 ≤ entF e 0 1 ∧ entF e 0 1 ≤ 3 ∧ entF e 8 8 % 64 = 0) ∨
    (4 ≤ entF e 0 1 ∧ (entF e 8 8 % 8 ≠ 0 ∨ 2 ^ 26 ≤ entF e 8 8)) ∨ ((entF e 0 1 = 2 ∨ entF e 0 1 = 4) ∧ entF e 32 4 ≠ 0)) ∧
  (∀ (w : Fin 64) (s : State) (row : Instr) (op : Nat), (row, op) ∈ [(Instr.wrNop w, 0), (.wrSliceStart w, 1), (.wrSliceStop w, 2), (.wrSliceWait w, 3), (.wrRegWrite w, 4), (.wrRegWait w, 5)] →
    s.ringCan w = false ∨ entF (s.ringEntry w) 0 1 ≠ op ∨ badEntry (s.ringEntry w) = true → exec row s = .next s) ∧
  (∀ (w : Fin 64) (s : State), s.ringCan w = true → badEntry (s.ringEntry w) = false → let e := s.ringEntry w
    let ts := s.sliceTiles (entF e 8 8 % 64)
    let port := s.rf .idWringCtrl [w.val] 56 1
    (entF e 0 1 = 0 → exec (.wrNop w) s = .next (s.ringFinish w e 1 0)) ∧
    (entF e 0 1 = 1 → (∀ t ∈ ts, s.startRefused t = false → s.reg .tileStartPc (tix t) < 2 ^ 40) → ∃ s1 : State, exec (.wrSliceStart w) s = .next (s1.ringFinish w e (if (ts.filter s.startRefused).length = 0 then 1 else 3) (ts.filter s.startRefused).length) ∧
      (∀ t ∈ ts, s.startRefused t = true → s1.tile t = { s.tile t with writeReject := true }) ∧ (∀ t ∈ ts, s.startRefused t = false → s1.tileRunning t = true ∧ (s1.tile t).pc = s.reg .tileStartPc (tix t)) ∧
      ∀ t, t ∉ ts → s1.tile t = s.tile t) ∧
    (entF e 0 1 = 2 → ∃ s', exec (.wrSliceStop w) s = .next s' ∧ s'.ringNow w = e ∧ s'.flag .idWringCtrl [w.val] 61 = true ∧ s'.ringHead w = s.ringHead w ∧ (∀ t ∈ ts, (s'.tile t).seq ≠ .running) ∧
      (∀ t, t ∉ ts → s'.tile t = s.tile t) ∧ ∀ k, s'.byte k = s.byte k) ∧
    (entF e 0 1 = 3 → exec (.wrSliceWait w) s = .next (s.setRingNow w e)) ∧
    (entF e 0 1 = 5 → exec (.wrRegWait w) s = .next (s.setRingNow w e)) ∧
    (entF e 0 1 = 4 → ∀ n idx, regFind (entF e 8 8) = some (n, idx) →
      (n ∈ [RegName.idWringBase, .idWringCtrl, .idWringHead, .idWringDb] → idx = [w.val] → exec (.wrRegWrite w) s = .fault (.undefined (.ub 58))) ∧
      (n ∈ [RegName.idMemwin, .denArb, .denModule, .denRouteCtrl, .farTimers, .farOuter, .farApplyCfg, .ledNormTh, .drvDigestOrigin, .evtModerate] → regOff n idx = entF e 8 8 → HostOpen port n idx .full (entF e 16 8) s →
        exec (.wrRegWrite w) s = .next ((s.setReg n idx (ctlMerge n .full (s.reg n idx) (entF e 16 8))).ringFinish w e 1 0)))) ∧
  (∀ (w : Fin 64) (s : State), s.ringNow w = [] ∨ s.hostUp (s.rf .idWringCtrl [w.val] 56 1) = false → ∀ timeout, exec (.ringDone w timeout) s = .next s) ∧
  (∀ (w : Fin 64) (timeout : Bool) (s : State), s.ringNow w ≠ [] → s.hostUp (s.rf .idWringCtrl [w.val] 56 1) = true → let e := s.ringNow w
    let n := s.ringLeft e
    (entF e 0 1 = 2 ∨ entF e 0 1 = 3 → n = 0 → exec (.ringDone w timeout) s = .next (s.ringFinish w e 1 0)) ∧
    (entF e 0 1 = 3 → n ≠ 0 → timeout = true → entF e 32 4 ≠ 0 → exec (.ringDone w timeout) s = .next (s.ringFinish w e 2 n)) ∧
    (entF e 0 1 = 2 ∨ entF e 0 1 = 3 → n ≠ 0 → entF e 0 1 = 2 ∨ timeout = false ∨ entF e 32 4 = 0 → exec (.ringDone w timeout) s = .next s) ∧
    (entF e 0 1 = 5 → rcMask (entF e 8 8) = 0 → let x := s.ctlRead (s.rf .idWringCtrl [w.val] 56 1) (entF e 8 8)
      (x &&& entF e 16 8 = entF e 24 8 → exec (.ringDone w timeout) s = .next (s.ringFinish w e 1 x)) ∧
      (x &&& entF e 16 8 ≠ entF e 24 8 → timeout = true → entF e 32 4 ≠ 0 → exec (.ringDone w timeout) s = .next (s.ringFinish w e 2 x)) ∧
      (x &&& entF e 16 8 ≠ entF e 24 8 → timeout = false ∨ entF e 32 4 = 0 → exec (.ringDone w timeout) s = .next s))) ∧
  ∀ (w : Fin 64) (e : List Nat) (st result : Nat) (s : State), st < 65536 → ∃ x : State, let slot := s.ringSlotAt w (s.ringHead w)
    s.ringFinish w e st result = ((if entF e 1 1 % 2 = 1 then x.raise 0x0001 0 0xA w (entF e 4 4) st else x).setRf .idWringHead [w.val] 0 32 (s.ringHead w + 1)).ringLook w ∧
    x.le (hostKey (slot + 2)) 2 = st ∧ x.le (hostKey (slot + 40)) 8 = result % 2 ^ 64 ∧ x.ringNow w = [] ∧ x.flag .idWringCtrl [w.val] 61 = false ∧ (∀ k, deviceKey k → x.byte k = s.byte k) ∧
    (∀ o, o ≠ regOff .idWringCtrl [w.val] → x.ctlRaw o = s.ctlRaw o) ∧ x = { s with mem := x.mem, ctl := x.ctl, rings := x.rings } ∧ ∀ u, u ≠ w.val → x.ringNow u = s.ringNow u

/-- The event ring and the tallies (R478-R480, R482, R483, R487-R489): a disabled code leaves nothing; with the ring off, or full with 1,024 records held, a record is discarded, counted and remembered; else it is written at TAIL with the lap's PHASE, its message with the
address and data of its table entry after it, or held, and it is lost on a port whose link is held down; enabling starts the ring anew, disabling discards what is held; freed space takes the held records in order; a holdoff that ends sends one message; a snapshot latches every tally, CLEAR restarts the counts and keeps the sticky bits. That a record and a message are lost on a port whose link is held down is PRESUMED (log 10); when EVENT_LOST is
written and what a hold-off counts are the model's readings (log 41), and so is what a snapshot latches while BUSY (log 42). -/
def Obligations.EventsAndSnapshots : Prop :=
  (∀ (r : EvRec) (s : State), r.code < 65536 → let on := fld (s.reg .evtEnable [r.code / 256]) (r.code % 256) 1
    let tail := s.rf .evtRingTail [] 0 32
    let n := 2 ^ s.rf .evtRingCtrl [] 16 5
    let vec := (s.rf .evtRoute [r.code / 256] 0 11 + (r.index &&& s.rf .evtRoute [r.code / 256] 16 11)) % 2048
    (on = 0 → s.emit r = s) ∧
    (on = 1 → s.flag .evtRingCtrl [] 63 = false ∨ 1024 ≤ s.ev.held.length → let s' := s.emit r
      s'.ev = { s.ev with lostSince := s.ev.lostSince + 1 } ∧ s'.flag .evtRingCtrl [] 62 = true ∧ s'.tallyAt (regOff .evtLost []) = (s.tallyAt (regOff .evtLost [])).add 1 ∧ s' = { s with ctl := s'.ctl, tally := s'.tally, ev := s'.ev }) ∧
    (on = 1 → s.flag .evtRingCtrl [] 63 = true → s.ringFull = true → s.ev.held.length < 1024 → s.emit r = { s with ev := { s.ev with held := s.ev.held ++ [r] } }) ∧
    (on = 1 → s.flag .evtRingCtrl [] 63 = true → s.ringFull = false → s.ev.held = [] → s.ev.lostSince = 0 → let s' := s.emit r
      let entry := ((s.ctlRaw (msixOff s.evPort vec - 8)).toNat, fld (s.ctlRaw (msixOff s.evPort vec)).toNat 0 32)
      (s.linkHeld s.evPort = false → s'.bytes (hostKey (s.reg .evtRingBase [] + 32 * (tail % n))) 32 = (r.bytes (if tail / n % 2 = 0 then 1 else 0)).map (· % 256)) ∧ (s.linkHeld s.evPort = true → s'.mem = s.mem) ∧ s'.rf .evtRingTail [] 0 32 = (tail + 1) % 2 ^ 32 ∧ s'.ev.held = [] ∧
      (∀ k, deviceKey k → s'.byte k = s.byte k) ∧ (∀ o, o ≠ regOff .evtRingTail [] → s'.ctlRaw o = s.ctlRaw o) ∧
      ((∀ h ∈ s.ev.holdoff, h.1 ≠ vec) → (s.cfg s.evPort).msixEnable = true → (s.cfg s.evPort).funcMask = false → s.msixMasked s.evPort vec = false →
        s'.out = s.out ++ (if s.linkHeld s.evPort then [] else [.msix s.evPort vec entry.1 entry.2]) ∧ (s.rf .evtModerate [] 0 16 ≠ 0 → (vec, false) ∈ s'.ev.holdoff)) ∧
      ((∀ h ∈ s.ev.holdoff, h.1 ≠ vec) → (s.cfg s.evPort).msixEnable = true → (s.cfg s.evPort).funcMask = true ∨ s.msixMasked s.evPort vec = true → s'.out = s.out ∧ (s.evPort, vec) ∈ s'.ev.msixPending ∧ s'.ev.holdoff = s.ev.holdoff) ∧
      ((∀ h ∈ s.ev.holdoff, h.1 ≠ vec) → (s.cfg s.evPort).msixEnable = false → s'.out = s.out ∧ s'.ev.msixPending = s.ev.msixPending ∧ s'.ev.holdoff = s.ev.holdoff) ∧
      ((∃ h ∈ s.ev.holdoff, h.1 = vec) → s'.out = s.out ∧ (vec, true) ∈ s'.ev.holdoff))) ∧
  (∀ (acc : Acc) (v : Word) (s : State), HostOpen 0 .evtRingCtrl [] acc v.toNat s → let s1 := s.ctlApply .evtRingCtrl [] acc v.toNat
    let s2 := s1.setRf .evtRingCtrl [] 16 5 (max 6 (min 20 (s1.rf .evtRingCtrl [] 16 5)))
    let was := s.flag .evtRingCtrl [] 63
    let now := s1.flag .evtRingCtrl [] 63
    (was = false → now = false → exec (.eventRingEnable acc v) s = .next s2) ∧
    (was = false → now = true → s.ev.lostSince = 0 → s.ev.held = [] → s.isl.fallback = none → ∃ s', exec (.eventRingEnable acc v) s = .next s' ∧ s'.rf .evtRingHead [] 0 32 = 0 ∧ s'.rf .evtRingTail [] 0 32 = 0 ∧
      s'.flag .evtRingCtrl [] 63 = true ∧ 6 ≤ s'.rf .evtRingCtrl [] 16 5 ∧ s'.rf .evtRingCtrl [] 16 5 ≤ 20 ∧ s' = { s with ctl := s'.ctl }) ∧
    (was = false → now = true → s2.linkHeld s2.evPort = false → 0 < s.ev.lostSince → s.ev.lostSince < 2 ^ 64 → s.ev.held = [] → s.isl.fallback = none → ∃ s', exec (.eventRingEnable acc v) s = .next s' ∧ s'.rf .evtRingTail [] 0 32 = 1 ∧ s'.ev.lostSince = 0 ∧
      s'.bytes (hostKey (s.reg .evtRingBase [])) 32 = leBytes 2 3 ++ [1, 0] ++ leBytes 4 0 ++ leBytes 8 s.time ++ leBytes 8 s.ev.lostSince ++ leBytes 8 0) ∧
    let moved : Prop := s2.rf .evtRingCtrl [] 56 1 ≠ s.rf .evtRingCtrl [] 56 1 ∨ s2.rf .evtRingCtrl [] 16 5 ≠ s.rf .evtRingCtrl [] 16 5
    (was = true → moved → exec (.eventRingEnable acc v) s = .fault (.undefined (.ub 59))) ∧
    (was = true → now = true → ¬ moved → exec (.eventRingEnable acc v) s = .next s2) ∧
    (was = true → now = false → ¬ moved → (s.tallyAt (regOff .evtLost [])).count + s.ev.held.length ≤ 0xFFFFFFFF → ∃ s', exec (.eventRingEnable acc v) s = .next s' ∧ s'.flag .evtRingCtrl [] 63 = false ∧ s'.ev = { s.ev with held := [], lostSince := s.ev.lostSince + s.ev.held.length } ∧
      s'.tallyAt (regOff .evtLost []) = (s.tallyAt (regOff .evtLost [])).add s.ev.held.length ∧ (s.ev.held ≠ [] → s'.flag .evtRingCtrl [] 62 = true))) ∧
  (∀ (acc : Acc) (v : Word) (s : State), HostOpen 0 .evtRingHead [] acc v.toNat s → let s1 := s.ctlApply .evtRingHead [] acc v.toNat
    let used := (s1.rf .evtRingTail [] 0 32 + 2 ^ 32 - s1.rf .evtRingHead [] 0 32) % 2 ^ 32
    (s.flag .evtRingCtrl [] 63 = false → used ≤ 2 ^ s.rf .evtRingCtrl [] 16 5 → exec (.eventRingHeadWrite acc v) s = .next s1) ∧
    (2 ^ s.rf .evtRingCtrl [] 16 5 < used → exec (.eventRingHeadWrite acc v) s = .fault (.undefined (.ub 59))) ∧
    (s.flag .evtRingCtrl [] 63 = true → used ≤ 2 ^ s.rf .evtRingCtrl [] 16 5 → s.ev.held.length ≤ 1024 → ∃ s' sent, exec (.eventRingHeadWrite acc v) s = .next s' ∧ s.ev.held = sent ++ s'.ev.held ∧
      (s'.ringFull = true ∨ (s'.ev.held = [] ∧ s'.ev.lostSince = 0)) ∧ s'.reg .evtRingHead [] = s1.reg .evtRingHead [] ∧
      s'.rf .evtRingTail [] 0 32 = (s.rf .evtRingTail [] 0 32 + sent.length + (if s'.ev.lostSince = s.ev.lostSince then 0 else 1)) % 2 ^ 32 ∧ ∀ k, deviceKey k → s'.byte k = s.byte k)) ∧
  (∀ (vec : Fin 2048) (s : State), (∀ h ∈ s.ev.holdoff, h.1 ≠ vec.val) → exec (.holdoffEnd vec) s = .next s) ∧
  (∀ (vec : Fin 2048) (b : Bool) (s : State), s.ev.holdoff.find? (fun h => h.1 == vec.val) = some (vec.val, b) → let may := (s.cfg s.evPort).msixEnable && !(s.cfg s.evPort).funcMask && !s.msixMasked s.evPort vec
    ∃ s', exec (.holdoffEnd vec) s = .next s' ∧
    s'.ev.holdoff = s.ev.holdoff.filter (fun h => h.1 != vec.val) ++ (if b = true ∧ may = true ∧ s.rf .evtModerate [] 0 16 ≠ 0 then [(vec.val, false)] else []) ∧
    (s'.out = s.out ++ if b = true ∧ may = true ∧ s.linkHeld s.evPort = false then [.msix s.evPort vec (s.ctlRaw (msixOff s.evPort vec - 8)).toNat (fld (s.ctlRaw (msixOff s.evPort vec)).toNat 0 32)] else []) ∧ s' = { s with out := s'.out, ev := s'.ev }) ∧
  (∀ (clear : Bool) (s : State), HostOpen 0 .evtSnapCtrl [] .full (if clear then 0xC000000000000000 else 0x8000000000000000) s → let row : Instr := if clear then .snapshotClear else .snapshot
    (s.snap ≠ none → exec row s = .next s) ∧
    (s.snap = none → tblWf (fun _ => Tally.zero) s.tally → (∀ e ∈ s.tally, isTallyOff e.1 = true) → ∃ s1 : State, exec row s = .next s1 ∧ s1.snap ≠ none ∧ s1.flag .evtSnapCtrl [] 61 = true ∧ (∀ o, s1.tallyAt o = if clear then { s.tallyAt o with count := 0 } else s.tallyAt o) ∧
      (∀ o, o ≠ regOff .evtSnapCtrl [] → s1.ctlRaw o = s.ctlRaw o) ∧ ∃ s2, exec .snapshotComplete s1 = .next s2 ∧ s2.snap = none ∧ s2.flag .evtSnapCtrl [] 61 = false ∧ s2.reg .evtSnapTime [] = s.time % 2 ^ 64 ∧ s2.tally = s1.tally ∧
      ∀ o, isTallyOff o = true → s2.ctlRaw o = BitVec.ofNat 64 ((s.tallyAt o).count + bit (s.tallyAt o).sticky * 2 ^ 32))) ∧
  (∀ s : State, s.snap = none → exec .snapshotComplete s = .next s) ∧
  (∀ (off : Nat) (s : State), isTallyOff off = false → exec (.saturatedClear off) s = .next s) ∧
  (∀ (n : RegName) (idx : List Nat) (s : State), isTally n = true → regFind (regOff n idx) = some (n, idx) → HostOpen 0 n idx .full (2 ^ 32) s → ∃ s', exec (.saturatedClear (regOff n idx)) s = .next s' ∧
    s'.tallyAt (regOff n idx) = { s.tallyAt (regOff n idx) with sticky := false } ∧ s'.flag n idx 32 = false ∧ s'.rf n idx 0 32 = s.rf n idx 0 32 ∧ (∀ o, o ≠ regOff n idx → s'.tallyAt o = s.tallyAt o ∧ s'.ctlRaw o = s.ctlRaw o) ∧
    s' = { s with ctl := s'.ctl, tally := s'.tally }) ∧
  ∀ (t : Tally) (n : Nat), t.count ≤ 0xFFFFFFFF → t.add n = ⟨min (t.count + n) 0xFFFFFFFF, t.sticky || decide (0xFFFFFFFF < t.count + n)⟩

/-! ### Power, supplies and resets (chapters 13, 14) -/

/-- The start, the supplies and power-off (R499, R510, R511, R524, R525, R531-R534, R537): the start needs both supplies and nothing that holds the domain off, verifies the images and boots the slot of R524 or falls back, loads the images of R494 and locks the PLLs where the reference clock is good; READY ends it; MAIN's loss, an over-voltage and INHIBIT_N run the power-off sequence,
STBY's loss also stops the island; each release lifts its own hold; PERST_N of J2 is a warm reset. A start with SHEPHERD_UP already 1 skips the boot ROM (DESIGN CHOICE, log 7); that a second loss within the hold-up keeps the first record and that over-voltage leaves none are log 44's readings. -/
def Obligations.PowerAndSupplies : Prop :=
  (∀ (clk0 clk1 : Bool) (s : State),
    (¬ MayPower s → exec (.powerUp clk0 clk1) s = .next s) ∧
    (MayPower s → s.shepUp = true → ∃ s', exec (.powerUp clk0 clk1) s = .next s' ∧ PowerCome clk0 s' ∧ s'.isl.refclk = [clk0, clk1] ∧ s'.mem = s.mem) ∧
    (MayPower s → s.shepUp = false → ∀ b, FirstSlot b s →
      (s.imageFull b = true → ∃ s', exec (.powerUp clk0 clk1) s = .next s' ∧ PowerCome clk0 s' ∧ s'.isl.refclk = [clk0, clk1] ∧ s'.slotSt b = 1 ∧ s'.slotSt (1 - b) = s.slotSt (1 - b) ∧ s'.rf .clkStatus [] 35 1 = b ∧ s'.rf .clkStatus [] 36 1 = 0) ∧
      (s.imageFull b = false → s.imageFull (1 - b) = true → ∃ s', exec (.powerUp clk0 clk1) s = .next s' ∧ PowerCome clk0 s' ∧ s'.slotSt b = 3 ∧ s'.slotSt (1 - b) = 1 ∧ s'.rf .clkStatus [] 35 1 = 1 - b ∧ s'.rf .clkStatus [] 36 1 = 1 ∧
        s'.isl.fallback = some (1 - b, b)) ∧
      (s.imageFull b = false → s.imageFull (1 - b) = false → ∃ s', exec (.powerUp clk0 clk1) s = .next s' ∧ s'.isl.bootFail = true ∧ s'.isl.powered = false ∧ s'.slotSt b = 3 ∧ s'.shepUp = false)) ∧
    (MayPower s → s.shepUp = false → s.slotSt 0 = 1 → s.slotSt 1 = 1 → s.imageFull 0 = true → s.imageFull 1 = true → ∃ s', exec (.powerUp clk0 clk1) s = .next s' ∧ PowerCome clk0 s' ∧ s'.slotSt 0 = 1 ∧ s'.slotSt 1 = 1) ∧
    (MayPower s → s.shepUp = false → (∀ b < 2, s.slotSt b ≠ 1 ∧ s.slotSt b ≠ 2) → ∃ s', exec (.powerUp clk0 clk1) s = .next s' ∧ s'.isl.bootFail = true ∧ s'.isl.powered = false ∧ s'.ctl = s.ctl)) ∧
  (∀ s : State, let going : Prop := s.isl.starting = true ∧ s.rf .clkStatus [] 48 8 = 0xFF
    let svn := max (s.rf .shmStatus [] 48 8) (s.slotSvn (s.rf .clkStatus [] 35 1))
    (¬ going → exec .ready s = .next s) ∧
    (going → s.flag .shmStatus [] 60 = false → ∃ s', exec .ready s = .next s' ∧ s'.isReady = true ∧ s'.isl.starting = false ∧ s'.rf .shmStatus [] 48 8 = svn ∧ s' = { s with ctl := s'.ctl, isl := s'.isl }) ∧
    (∀ g rest, going → s.flag .shmStatus [] 60 = true → s.isl.gasps = g :: rest → ∃ x : State, exec .ready s = .next (x.raise 0x0703 0 0 0 g.cause 0) ∧ x.isReady = true ∧ x.isl.starting = false ∧
      x.rf .shmStatus [] 48 8 = svn ∧ x = { s with ctl := x.ctl, isl := x.isl })) ∧
  (∀ s : State, Registers.wf s.ctl →
    (s.isl.mainOk = false → exec .mainLoss s = .next s) ∧
    (s.isl.mainOk = true → ∃ s', exec .mainLoss s = .next s' ∧ s'.isl.mainOk = false ∧ s'.isl.mainLostAt = some s.time ∧ (s.isl.powered = true → PoweredOff s s') ∧ (s.isl.down = false → Gasped causeMain s s')) ∧
    (s.isl.stbyOk = false → exec .stbyLoss s = .next s) ∧
    (s.isl.stbyOk = true → ∃ s', exec .stbyLoss s = .next s' ∧ s'.isl.stbyOk = false ∧ s'.isl.down = true ∧ s'.shepUp = false ∧ s'.isl.stbyLostAt = some s.time ∧ (s.isl.powered = true → PoweredOff s s') ∧
      (s.isl.mainOk = true ∨ s.within s.isl.mainLostAt = false → Gasped causeStby s s') ∧ (s.isl.mainOk = false → s.within s.isl.mainLostAt = true → s'.isl.gasps = s.isl.gasps)) ∧
    (∃ s', exec .overVoltage s = .next s' ∧ s'.isl.overVolt = true ∧ s'.isl.powered = false ∧ (s.isl.powered = true → PoweredOff s s') ∧ (s.isl.powered = false → s' = s.setIsl { s.isl with overVolt := true })) ∧
    (∃ s', exec .inhibit s = .next s' ∧ s'.isl.inhibited = true ∧ s'.isl.powered = false ∧ (s.isl.powered = true → PoweredOff s s') ∧ (s.isl.powered = false → s' = s.setIsl { s.isl with inhibited := true }))) ∧
  (∀ s : State,
    (s.isl.mainOk = true → exec .mainValid s = .next s) ∧
    (s.isl.mainOk = false → exec .mainValid s = .next ((s.setIsl { s.isl with mainOk := true }).setRf .clkStatus [] 40 4 1)) ∧
    (s.isl.overVolt = false → exec .overVoltageRecovery s = .next s) ∧
    (s.isl.overVolt = true → exec .overVoltageRecovery s = .next ((s.setIsl { s.isl with overVolt := false, mainOk := true }).setRf .clkStatus [] 40 4 1)) ∧
    (s.isl.inhibited = false → exec .inhibitRelease s = .next s) ∧
    (s.isl.inhibited = true → exec .inhibitRelease s = .next (s.setIsl { s.isl with inhibited := false, heldOff := false }))) ∧
  (∀ (port : Fin 2) (s : State), Registers.wf s.ctl → let low (x : State) : Prop := port.val ∈ x.isl.perst ∧ x.hostUp port = false
    (port.val = 0 → s.isl.powered = true → s.isReady = true → ∃ s', exec (.perst port) s = .next s' ∧ WarmResets 2 false s s' ∧ low s') ∧
    (port.val = 1 ∨ s.isl.powered = false ∨ s.isReady = false → ∃ s', exec (.perst port) s = .next s' ∧ low s' ∧ s' = { s with isl := { s.isl with perst := s'.isl.perst } }) ∧
    (∃ x : State, exec (.perstRelease port) s = .next x.ringsLook ∧ port.val ∉ x.isl.perst ∧ (∀ p, p ≠ port.val → (p ∈ x.isl.perst ↔ p ∈ s.isl.perst)) ∧ x = { s with isl := { s.isl with perst := x.isl.perst } }) ∧
    ∃ s', exec (.perstRelease port) s = .next s' ∧ (∀ k, deviceKey k → s'.byte k = s.byte k) ∧ s'.tiles = s.tiles ∧ port.val ∉ s'.isl.perst)

/-- Resets (R486, R496, R515, R517-R521, R529): CLK.RESET asks for a reset with its KEY; each type does what R517 and R518 say; RESET_DONE ends the oldest, BUSY stays while one that CLK.RESET asked for waits or runs, and after a warm reset the device accepts work again, with the end of the zeroisation that asked for it, the work rings look at their entries, and what the reset held goes on; a cold
reset leaves the flash, the NOR and the key store; a lost PLL is a warm reset, and without J2's clock no PLL locks and READY stays 0 (R536); a die reset disables every channel with its contexts written back (R446, R518), and takes its tiles' votes out of a commit wave, which ends ABORTED (R521). That READY stays 1 at a die
reset, that a write with an out-of-range UNIT or while BUSY is ignored, cause 3, and what RESET_DONE's fields hold and when are the model's readings (log 43). -/
def Obligations.Resets : Prop :=
  (∀ (port : Fin 2) (acc : Acc) (v : Word) (s : State), HostOpen port .clkReset [] acc v.toNat s → let b := v.toNat
    let unit := fld b 16 11
    let named : Prop := acc = .full ∧ fld b 32 8 = 0x5A ∧ s.flag .clkReset [] 63 = false ∧ (fld b 0 3 = 2 ∨ (fld b 0 3 = 3 ∧ unit < 8) ∨ (fld b 0 3 = 4 ∧ unit < 1216) ∨ (fld b 0 3 = 5 ∧ unit < 36))
    (¬ named → exec (.registerWrite port (regOff .clkReset []) acc v) s = .next s) ∧
    (named → ∃ s', exec (.registerWrite port (regOff .clkReset []) acc v) s = .next s' ∧ s'.flag .clkReset [] 63 = true ∧ s'.isl.asked = s.isl.asked ++ [⟨fld b 0 3, if fld b 0 3 = 2 then 0 else unit, 3, true⟩] ∧
      s' = { s with ctl := s'.ctl, isl := { s.isl with asked := s'.isl.asked } })) ∧
  (∀ s : State, Registers.wf s.ctl → s.isl.powered = true →
    (∀ r, s.isl.asked.find? (fun r => r.kind == 2) = some r → ∃ s', exec .warmReset s = .next s' ∧ WarmResets r.cause r.here s s' ∧ s'.flag .clkReset [] 63 = r.here) ∧
    (∀ d : ClockLoss, ∃ s', exec (.pllLoss d) s = .next s' ∧ WarmResets 5 false s s' ∧ s'.isl.refclk = [d.clk0, d.clk1] ∧ (d.clk0 = true → s'.rf .clkStatus [] (48 + d.die.val) 1 = 0) ∧ (d.clk0 = false → s'.rf .clkStatus [] 48 8 = 0)) ∧
    (∀ (d : Fin 8) r, s.isl.asked.find? (fun r => r.kind == 3 && r.unit == d.val) = some r → s.wave.kind = false → VotesOn d s → ∃ s', exec (.dieReset d) s = .next s' ∧
      (s.isRoot = true → s'.wstate = 0 ∧ s'.rf .denWaveLast [] 60 4 = 3 ∧ s'.stepNo = s.nextStep ∧ s'.cv = s.cv ∧ s'.rf .ledCommit [] 54 2 = 3) ∧ (s.isRoot = false → s'.wave.lost = true ∧ s'.stepNo = s.stepNo ∧ s'.cv = s.cv)) ∧
    (∀ (d : Fin 8) r, s.isl.asked.find? (fun r => r.kind == 3 && r.unit == d.val) = some r → ¬ VotesOn d s → (∀ r ∈ s.cip.cache, r.dir < 2 ∧ r.bytes.length ≤ 128) → ∃ s', exec (.dieReset d) s = .next s' ∧ s'.rf .clkStatus [] 44 4 = 3 ∧ s'.rf .clkStatus [] 40 4 = r.cause % 16 ∧
      s'.rf .clkStatus [] 37 3 = d.val ∧ s'.isl.running = s.isl.running ++ [⟨3, d.val, r.cause, r.here⟩] ∧ (∀ t, t / 160 = d.val → s'.tile t = Tile.reset) ∧ (∀ x ∈ s'.xfers, x.die ≠ d.val) ∧
      (∀ k, k < 2 ^ 40 → (s.channels = [] ∨ ∀ a, s.ctxAddr 0 0 ≤ a → a < s.ctxAddr 0 0 + 2 ^ 21 → s.locate .unit true a ≠ .mem k) → s'.byte k = s.byte k) ∧
      (∀ c ∈ s.channels, s'.chanSt c = 0 ∧ s'.chan c = Chan.reset ∧ ∀ r ∈ s'.cip.cache, r.chan ≠ c) ∧ s'.wave.votes = s.wave.votes ∧ s'.wave.lost = s.wave.lost ∧
      (∀ k, tileBase (160 * d.val) ≤ k → k < tileBase (160 * d.val) + 0x40000000 → s'.byte k = 0) ∧ (∀ c, 4 ≤ c → c < 4096 → s'.chanOn c = false) ∧ (∀ q < 256, s'.queueOn q = false) ∧ s'.flag .drvFlashCtrl [] 63 = false ∧
      (∀ n < 32, s'.portOn n = false) ∧ s'.isReady = s.isReady ∧ ∀ n ∈ [RegName.ledCommit, .ledStep, .ledBase, .farRound, .farCfg, .farContrib, .denModule], s'.reg n [] = s.reg n []) ∧
    (∀ (t : TileId) r, s.isl.asked.find? (fun r => r.kind == 4 && s.physical r.unit == some t.val) = some r → ∃ s', exec (.tileReset t) s = .next s' ∧ s'.tile t = Tile.reset ∧ s'.reg .tileStartPc (tix t) = 0 ∧ s'.reg .tileTileCfg (tix t) = 0 ∧
      s'.isl.running = s.isl.running ++ [⟨4, r.unit, r.cause, r.here⟩] ∧ (∀ u, u ≠ t.val → s'.tile u = s.tile u) ∧ (∀ k, s'.byte k = s.byte k) ∧ s'.xfers = s.xfers ∧ s'.isReady = s.isReady) ∧
    (∀ (port : Nat) r, port < 32 → s.isl.asked.find? (fun r => r.kind == 5 && r.unit == port) = some r → ∃ s', exec (.linkReset port) s = .next s' ∧ (s.portOn port = true → s'.portSt port = 1) ∧
      s'.isl.running = s.isl.running ++ [⟨5, port, r.cause, r.here⟩] ∧ s'.tiles = s.tiles ∧ ∀ k, deviceKey k → s'.byte k = s.byte k) ∧
    (∀ (f : Fin 4) r, s.isl.asked.find? (fun r => r.kind == 5 && r.unit == 32 + f.val) = some r → ∃ s', exec (.linkReset (32 + f.val)) s = .next s' ∧ s'.farLink f = false ∧ s'.isl.running = s.isl.running ++ [⟨5, 32 + f.val, r.cause, r.here⟩] ∧
      (∀ c ∈ s.channels, s.chanPort c = f.val → ∀ h ∈ (s'.chan c).frames, 0 < h.sends → h.lost = true) ∧
      ((∀ c ∈ s.channels, s.chanPort c ≠ f.val) → (tblGet (fun _ => Cage.reset) s'.isl.cages f.val).lowPower = true) ∧ ∀ k, s'.byte k = s.byte k)) ∧
  (∀ s : State, s.isl.powered = false → exec .warmReset s = .next s ∧ (∀ d, exec (.dieReset d) s = .next s) ∧ (∀ t, exec (.tileReset t) s = .next s) ∧ (∀ p, exec (.linkReset p) s = .next s) ∧ ∀ d, exec (.pllLoss d) s = .next s) ∧
  (∀ s : State, s.isl.running = [] → exec .resetDone s = .next s) ∧
  (∀ (s : State) (r : Reset) (rest : List Reset), s.isl.running = r :: rest → 3 ≤ r.kind → ∃ x : State, x.isl = { s.isl with running := rest } ∧ x.isReady = s.isReady ∧ (x.flag .clkReset [] 63 = (!s.isl.asked.isEmpty || rest.any (fun q => q.here))) ∧
    x = { s with ctl := x.ctl, isl := x.isl } ∧ (3 < r.kind → exec .resetDone s = .next (x.raiseReset r)) ∧
    (r.kind = 3 → let y := (x.raiseReset r).ringsLook.unhold.resumeCtxs
      exec .resetDone s = (y.heldAll y.waitingIds).andThen State.flush ∧ (s.waitingIds = [] → s.net.held = [] → s.ctxs = [] → Unsent s → exec .resetDone s = .next (x.raiseReset r).ringsLook))) ∧
  (∀ (s : State) (c : Nat) (here : Bool) (rest : List Reset), s.isl.running = ⟨2, 0, c, here⟩ :: rest → ∃ x : State, x.isl = { s.isl with running := rest, zeroised := none } ∧ (x.isReady = if s.refOk 0 then !s.isl.starting else s.isReady) ∧
    x.rf .clkStatus [] 48 8 = (if s.refOk 0 then 0xFF else s.rf .clkStatus [] 48 8) ∧ (x.flag .clkReset [] 63 = (!s.isl.asked.isEmpty || rest.any (fun q => q.here))) ∧ x = { s with ctl := x.ctl, isl := x.isl } ∧ let y := x.raise 0x0707 0 0 0 2 (c * 2 ^ 32)
    let z := (match s.isl.zeroised with
      | some z => y.raise 0x070A 0 0 0 z 0
      | none => y).ringsLook
    exec .resetDone s = (z.unhold.resumeCtxs.heldAll z.unhold.resumeCtxs.waitingIds).andThen State.flush ∧ (s.waitingIds = [] → s.net.held = [] → s.ctxs = [] → Unsent s → exec .resetDone s = .next z)) ∧
  ∀ s : State, Registers.wf s.ctl → tblWf (fun _ => 0) s.cip.pseqs → ∃ s', exec .coldReset s = .next s' ∧ s'.time = 0 ∧ s'.tiles = [] ∧ s'.xfers = [] ∧ s'.tally = [] ∧ s'.far = Far.reset ∧ s'.isl.powered = false ∧ s'.isl.down = false ∧
    s'.isl.stbyOk = true ∧ s'.isl.mainOk = s.isl.mainOk ∧ s'.isl.heldOff = false ∧ s'.isReady = false ∧ s'.rf .clkStatus [] 44 4 = 1 ∧ s'.rf .clkStatus [] 40 4 = 1 ∧ s'.reg .shmFw [] = s.reg .shmFw [] ∧
    s'.cip = { Cip.reset with kek := s.cip.kek, kekGen := s.cip.kekGen, pkeys := s.cip.pkeys, pseqs := s'.cip.pseqs } ∧ (s.isl.down = false → s'.cip.pseqs = s.cip.pseqs) ∧
    (∀ k, ∃ d < 65536, tblGet (fun _ => 0) s'.cip.pseqs k = min (2 ^ 64) (tblGet (fun _ => 0) s.cip.pseqs k + d) ∨ tblGet (fun _ => 0) s'.cip.pseqs k = tblGet (fun _ => 0) s.cip.pseqs k) ∧
    (∀ k, k < 2 ^ 40 → s'.byte k = 0) ∧ (∀ k, 0x400000000000 ≤ k → deviceKey k → s'.byte k = s.byte k) ∧ ∀ o, regFind o ≠ none → (∀ n ∈ [RegName.shmFw, .shmStatus, .drvFlashStatus, .drvFlashWear, .drvFlashWearBytes, .clkStatus], o ≠ regOff n []) → s'.ctlRaw o = ctlReset o

/-- Power cap, heat and heartbeats (R495, R501, R503-R506, R542): RUN falls by one where P25 is above WATTS and RUN above FLOOR, rises by one after forty intervals below 15/16 of it, and keeps HOST_MAX; CAP_MISS after forty intervals above at FLOOR; the thermal limit moves by one; a trip powers off for good;
an overheated island and a tamper erase the keys first, on STBY's hold-up too; ten missed heartbeats reset a die. That forty intervals begin anew after each rise, and that THERMAL_WARN names the first reading over its limit, are the model's readings (log 45); the island's erasure on STBY's hold-up is log 44's. -/
def Obligations.PowerAndHeat : Prop :=
  (∀ (watts : Nat) (s : State), s.isl.down = true → exec (.powerInterval watts) s = .next s) ∧
  (∀ (watts : Nat) (s : State), s.isl.down = false → let run := s.runNow
    let cap := s.rf .clkCap [] 0 13
    ∃ s', exec (.powerInterval watts) s = .next s' ∧ s'.rf .clkPower [] 0 16 = watts % 65536 ∧ s'.rf .clkPower [] 32 16 = max (s.rf .clkPower [] 32 16) (min 65535 watts) ∧
      (cap < watts → s.runFloor < run → s'.runNow = min (run - 1) s.hostMax) ∧ (cap < watts → run ≤ s.runFloor → s'.runNow = min run s.hostMax) ∧ (watts ≤ cap → 15 * cap ≤ 16 * watts → s'.runNow = min run s.hostMax) ∧
      (16 * watts < 15 * cap → s.isl.lowRun + 1 < 40 → s'.runNow = min run s.hostMax ∧ s'.isl.lowRun = s.isl.lowRun + 1) ∧
      (16 * watts < 15 * cap → 40 ≤ s.isl.lowRun + 1 → s'.runNow = (if run < min s.hostMax s.isl.thermLimit then run + 1 else min run s.hostMax) ∧ s'.isl.lowRun = 0) ∧
      (cap < watts → run ≤ s.runFloor → s'.isl.overRun = s.isl.overRun + 1 ∧ (s.isl.overRun + 1 = 40 → s'.flag .clkCap [] 63 = true)) ∧ (watts ≤ cap ∨ s.runFloor < run → s'.isl.overRun = 0 ∧ s'.flag .clkCap [] 63 = s.flag .clkCap [] 63) ∧
      Quiet [regOff .clkPower [], regOff .clkThrottle [], regOff .clkCap []] [] { s with isl := s'.isl } s') ∧
  (∀ (dies hbm0 hbm1 coolant : List Nat) (s : State), s.isl.powered = false → exec (.thermalInterval dies hbm0 hbm1 coolant) s = .next s) ∧
  (∀ (dies hbm0 hbm1 coolant : List Nat) (s : State), s.isl.powered = true → dies.length = 8 → hbm0.length = 8 → hbm1.length = 8 → coolant.length = 4 →
    let dw : Int := 16 * s.rf .clkTherm [] 56 8
    let hw : Int := 16 * s.rf .clkTherm [] 40 8
    let cw : Int := 16 * s.rf .clkTherm [] 24 8
    let hot : Prop := (∃ x ∈ dies, dw < tempOf x) ∨ ∃ x ∈ hbm0 ++ hbm1, hw < tempOf x
    let cool : Prop := (∀ x ∈ dies, tempOf x ≤ dw - 48) ∧ ∀ x ∈ hbm0 ++ hbm1, tempOf x ≤ hw - 48
    ∃ s', exec (.thermalInterval dies hbm0 hbm1 coolant) s = .next s' ∧
      (∀ d < 8, s'.reg .clkTemp [d] = dies.getD d 0 % 65536 + hbm0.getD d 0 % 65536 * 2 ^ 16 + hbm1.getD d 0 % 65536 * 2 ^ 32) ∧ (∀ i < 4, s'.rf .clkCoolant [] (16 * i) 16 = coolant.getD i 0 % 65536) ∧
      (hot → s'.isl.thermLimit = max 1 (s.isl.thermLimit - 1)) ∧ (¬ hot → cool → s'.isl.thermLimit = min 16 (s.isl.thermLimit + 1)) ∧ (¬ hot → ¬ cool → s'.isl.thermLimit = s.isl.thermLimit) ∧
      (s'.runNow = min s.runNow s'.isl.thermLimit % 32) ∧ (s'.isl.dieOver = true ↔ ∃ x ∈ dies, dw < tempOf x) ∧ (s'.isl.hbmOver = true ↔ ∃ x ∈ hbm0 ++ hbm1, hw < tempOf x) ∧
      (¬ hot → (∀ i < 4, tempOf (coolant.getD i 0) ≤ cw) → s' = { s with ctl := s'.ctl, isl := s'.isl }) ∧
      (∀ d, s.isl.dieOver = false → firstOver (s.rf .clkTherm [] 56 8) dies = some (d, dies.getD d 0) → (∀ x ∈ hbm0 ++ hbm1, tempOf x ≤ hw) → (∀ i < 4, tempOf (coolant.getD i 0) ≤ cw) →
        ∃ x : State, s' = x.raise 0x0702 0 0 0 (warnUnit (100 + d)) (dies.getD d 0 % 65536) ∧ x = { s with ctl := x.ctl, isl := x.isl })) ∧
  (∀ (d : Fin 8) (hbm : Bool) (temp : Nat) (s : State), let lim := if hbm then s.rf .clkTherm [] 32 8 else s.rf .clkTherm [] 48 8
    (s.isl.powered = false ∨ temp < lim → exec (.thermalTrip d hbm temp) s = .next s) ∧
    (s.isl.powered = true → lim ≤ temp → Registers.wf s.ctl → ∃ s', exec (.thermalTrip d hbm temp) s = .next s' ∧ PoweredOff s s' ∧ s'.isl.heldOff = true ∧ s'.rf .clkStatus [] 40 4 = 6 ∧ Gasped causeTrip s s')) ∧
  (∀ (temp : Nat) (s : State), let erased (s' : State) : Prop := s'.cip.kek = none ∧ (∀ k, s'.pkey k = []) ∧ s'.isl.powered = false ∧ s'.isl.heldOff = true ∧ s'.rf .clkStatus [] 40 4 = 6 ∧ (s.isl.powered = true → PoweredOff s s') ∧ Gasped causeTrip s s'
    (temp < 125 ∨ s.islandRuns = false → exec (.islandOvertemp temp) s = .next s) ∧
    (125 ≤ temp → s.islandRuns = true → Registers.wf s.ctl → ∃ s', exec (.islandOvertemp temp) s = .next s' ∧ erased s') ∧
    (s.islandRuns = false → exec .tamper s = .next s) ∧ (s.islandRuns = true → Registers.wf s.ctl → ∃ s', exec .tamper s = .next s' ∧ erased s')) ∧
  (∀ (alive : List Bool) (s : State), s.isl.powered = false ∨ s.shepUp = false → exec (.heartbeatCheck alive) s = .next s) ∧
  ∀ (alive : List Bool) (s : State), s.isl.powered = true → s.shepUp = true →
    ((∀ d < 8, alive.getD d true = true ∨ s.isl.misses.getD d 0 < 9) → exec (.heartbeatCheck alive) s = .next (s.setIsl { s.isl with misses := (List.range 8).map (fun d => if alive.getD d true then 0 else s.isl.misses.getD d 0 + 1) })) ∧
    (∀ d < 8, alive.getD d true = false → 9 ≤ s.isl.misses.getD d 0 → (∀ e < 8, e ≠ d → alive.getD e true = true ∨ s.isl.misses.getD e 0 < 9) → Registers.wf s.ctl → ∃ s', exec (.heartbeatCheck alive) s = .next s' ∧
      s'.rf .clkStatus [] 44 4 = 3 ∧ s'.rf .clkStatus [] 40 4 = 8 ∧ s'.rf .clkStatus [] 37 3 = d ∧ s'.isl.running = s.isl.running ++ [⟨3, d, 8, false⟩] ∧ ∀ t, t / 160 = d → s'.tile t = Tile.reset)

/-! ### Shepherd: mailbox, service port, firmware (chapter 13) -/

/-- The mailbox and the service port (R507-R509, R511-R516): a mailbox command runs once, when Shepherd serves it and no handover holds it, and its result is written by MAILBOX_DONE's command; an unsigned request is answered, a signed one only under the operator's key and a greater nonce, one that
needs SVC_ARM is answered ARM_OPEN while the header is open; a handover holds all but the requests of R507; a die that does not answer reads 0 and is named; what each does. (The status numbers of responses, the places of a request's fields and the layouts of the page and of a record are the model's open values, log 17 to 19; that a request is dropped unanswered, that SMBus answers under any command code, that REG_READ reads as port 0 does and that other reset types are refused are its readings,
log 46.) QUIESCE and POWER_OFF of the mailbox run whatever Shepherd or a handover does (R507); what a reset or a quiesce holds waits (R509, R519); when the command in progress ends, a handover that waited passes control (R527). -/
def Obligations.ServiceRequests : Prop :=
  (∀ (s : State) (row : Instr) (op : Nat), ((row, op) ∈ [(Instr.quiesce, 1), (.powerOff, 2)] → s.flag .shmCmd [] 62 = false ∨ s.isl.result ≠ none ∨ s.rf .shmCmd [] 0 8 ≠ op → exec row s = .next s) ∧
    ((row, op) ∈ [(Instr.lastGaspRead, 3), (.lastGaspClear, 4), (.digestSweep, 5)] → s.mailFree = false ∨ s.rf .shmCmd [] 0 8 ≠ op → exec row s = .next s)) ∧
  (∀ s : State, s.mailFree = true ↔ s.shepUp = true ∧ s.flag .shmCmd [] 62 = true ∧ s.isl.result = none ∧ s.isl.handover = none) ∧
  (∀ s : State, s.flag .shmCmd [] 62 = true → s.isl.result = none → let op := s.rf .shmCmd [] 0 8
    let done (st v : Nat) (s' : State) : Prop := s'.isl.result = some (st, v)
    (op = 1 → ∃ s', exec .quiesce s = .next s' ∧ done 1 0 s' ∧ (∀ t < 1280, (s'.tile t).seq ≠ .running ∧ s'.gated t = true) ∧ s'.halted = true ∧ (∀ k, s'.byte k = s.byte k) ∧ s'.ctl = s.ctl) ∧
    (op = 2 → Registers.wf s.ctl → ∃ s', exec .powerOff s = .next s' ∧ done 1 0 s' ∧ s'.isl.heldOff = true ∧ (s.isl.powered = true → PoweredOff s s'))) ∧
  (∀ s : State, s.mailFree = true → s.breach = none → let op := s.rf .shmCmd [] 0 8
    let done (st v : Nat) (s' : State) : Prop := s'.isl.result = some (st, v)
    (op = 3 → let at_ (i : Nat) : Nat := (s.reg .shmArg [0] + i) % 2 ^ 48
      let das := (List.range 4096).map at_
      let as := das.filter (· < 2 ^ 40)
      (∀ g, s.isl.gasps[s.rf .shmArg [1] 0 4]? = some g → g.bytes.length = 4096 →
        (s.halted = true ∨ s.wrHeld .unit das = true → exec .lastGaspRead s = .next s) ∧
        (∀ u, s.halted = false → s.wrHeld .unit das = false → s.wrBreach (s.landing .unit as) = some u → exec .lastGaspRead s = .fault (.undefined u)) ∧
        (s.halted = false → s.wrHeld .unit das = false → s.wrBreach (s.landing .unit as) = none → OffLedger s as → Alone s .other (s.spKeys (.da .unit) true as) → ∃ s', exec .lastGaspRead s = .next s' ∧
          ((s.lowFault .unit true das).isSome = true ∨ (∃ a ∈ das, 2 ^ 40 ≤ a) → done 5 0 s') ∧ ((s.lowFault .unit true das).isSome = false → (∀ a ∈ das, a < 2 ^ 40) → done 1 g.cause s') ∧
          (∀ i < 4096, at_ i < 2 ^ 40 → ∀ k, s.locate .unit true (at_ i) = .mem k → (∀ j < 4096, s.locate .unit true (at_ j) = .mem k → j = i) → s'.byte k = g.bytes.getD i 0 % 256) ∧
          (∀ k, deviceKey k → (∀ a ∈ as, s.locate .unit true a ≠ .mem k) → s'.byte k = s.byte k))) ∧
      (s.isl.gasps[s.rf .shmArg [1] 0 4]? = none → exec .lastGaspRead s = .next (s.mailResult mailNoRecord 0))) ∧
    (op = 4 → ∃ s', exec .lastGaspClear s = .next s' ∧ done 1 0 s' ∧ s'.flag .shmStatus [] 60 = false ∧ s'.isl.gasps = s.isl.gasps) ∧
    (op = 5 → let scratch := s.reg .shmArg [0]
      let q := s.rf .shmArg [2] 0 8
      let first := s.rf .ledFlockSlots [] 0 8
      ∀ n len, s.weightEntries = [n] → s.entryLe n 0x2C 4 = len → s.rf .ledFlockSlots [] 8 9 = 1 → first < 256 → scratch % 64 = 0 → scratch + len ≤ 2 ^ 40 → len ≤ s.reg .shmArg [1] → len % 64 = 0 → (s.lowFault (.queue q) true ((List.range len).map (scratch + ·))).isSome = false → s.wrBreach ((List.range len).map (scratch + ·)) = none →
        s.queueOn q = true → s.flag .drvQueueCtrl [q] 30 = false → s.queueHead q = s.queueTail q → s.queueXfers q = [] → s.keyBad = false → let slot := s.entryLe n 0x20 6 + s.rf .ledCommit [] 0 48 % 4 * s.entryLe n 0x28 4
        let src := s.peeks (.queue q) slot len
        (s.sweepHeld q scratch len [n] = true → exec .digestSweep s = .next s) ∧ (s.sweepHeld q scratch len [n] = false → ∃ s', exec .digestSweep s = .next s' ∧ done 1 0 s' ∧
          s'.digestSlot first = ((List.range (len / 64)).map (fun j => digestTerm s.digestKey j ((src.drop (64 * j)).take 64))).sum % digestP ∧ (∀ k < 256, k ≠ first → s'.digestSlot k = s.digestSlot k) ∧
          s'.rf .evtProgState [66] 62 2 = 2 ∧ s'.reg .evtProgTotal [66] = len))) ∧
  (∀ s : State, s.isl.result = none → let op := s.rf .shmCmd [] 0 8
    (s.mailFree = false ∨ (1 ≤ op ∧ op ≤ 5) → exec .mailboxDone s = .next s) ∧ (s.mailFree = true → op = 0 ∨ 5 < op → exec .mailboxDone s = .next (s.mailDone 2 0))) ∧
  (∀ (s : State) (st v : Nat), s.isl.result = some (st, v) → (s.shepUp = false ∨ s.flag .shmCmd [] 62 = false → exec .mailboxDone s = .next s) ∧ (s.shepUp = true → s.flag .shmCmd [] 62 = true → exec .mailboxDone s = .next (s.mailDone st v))) ∧
  (∀ (s : State) (st v : Nat), st < 65536 → ∃ x : State, let done := x.raise 0x0708 0 0 0 (s.rf .shmCmd [] 0 8) st
    (s.isl.onD1 = true ∨ (∀ b, s.isl.handover ≠ some (b, false)) → s.mailDone st v = done) ∧ (∀ b, s.isl.onD1 = false → s.isl.handover = some (b, false) → s.mailDone st v = done.passToD1) ∧ x.rf .shmResult [] 48 16 = st ∧ x.rf .shmResult [] 0 48 = v % 2 ^ 48 ∧ x.flag .shmCmd [] 62 = false ∧ x.isl = { s.isl with result := none } ∧
    x = { s with ctl := x.ctl, isl := x.isl }) ∧
  (∀ s : State, s.passToD1 = { s with isl := { s.isl with record := s.passToD1.isl.record, session := none, onD1 := true } } ∧ s.passToD1.isl.record.drop 4048 = sha384 (s.passToD1.isl.record.take 4048) ∧
    ∀ i < 24, s.passToD1.isl.record.getD (16 + i) 0 = ([RegName.clkCap, .clkThrottle, .clkTherm].flatMap (fun n => leBytes 8 (s.reg n []))).getD i 0) ∧
  (∀ (signed : Bool) (d : List Byte) (r : SvcReq), svcParse signed d = some r → let b := d.map BitVec.toNat
    b.getD 0 0 = 0x10 ∧ r.op = b.getD 1 0 ∧ r.nonce = beVal ((b.drop 4).take 8) ∧ r.body.length = beVal ((b.drop 2).take 2) ∧ b.length = 16 + r.body.length + (if signed then 96 else 0) ∧ (∀ x ∈ (b.drop 12).take 4, x = 0) ∧ r.text = b.take (16 + r.body.length) ∧
    r.sig.length = if signed then 96 else 0) ∧
  (∀ (d : List Byte) (s : State), svcParse false d = none → (∀ row ∈ [Instr.statusRead d, .regRead d], exec row s = .next s) ∧ (s.isl.handover = none → ∀ row ∈ [Instr.serviceLastGaspRead d, .setSvcKey d], exec row s = .next s)) ∧
  (∀ (d : List Byte) (s : State), svcParse true d = none → (∀ row ∈ [Instr.serviceQuiesce d, .servicePowerOff d, .zeroise d], exec row s = .next s) ∧
    (s.isl.handover = none → ∀ row ∈ [Instr.powerOn d, .serviceReset d, .serviceKekInstall d], exec row s = .next s)) ∧
  (∀ (d : List Byte) (src : Nat) (s : State), s.isl.handover ≠ none → let held (op src : Nat) : Ans := .next (s.setIsl { s.isl with heldSvc := s.isl.heldSvc ++ [⟨op, src, d⟩] })
    (∀ row op, (row, op) ∈ [(Instr.serviceLastGaspRead d, 3), (.powerOn d, 0x12), (.serviceReset d, 0x13), (.serviceKekInstall d, 0x15), (.setSvcKey d, 0x24)] → exec row s = held op 0) ∧
    exec (.fwBegin src d) s = held 0x20 src ∧ exec (.fwData src d) s = held 0x21 src ∧ exec (.fwCommit src d) s = held 0x22 src) ∧
  (∀ s : State, s.deafDies.1 < 256 ∧ s.deafDies.2 = { s with free := s.deafDies.2.free } ∧ (s.isl.powered = false → s.deafDies = (0xFF, s)) ∧
    (∀ d < 8, s.isl.powered = true → s.dieDown d = false → s.isl.misses.getD d 0 = 0 → s.deafDies.1.testBit d = false) ∧ (s.isl.powered = true → (∀ d < 8, s.dieDown d = false ∧ s.isl.misses.getD d 0 = 0) → s.deafDies = (0, s))) ∧
  (∀ (d : List Byte) (r : SvcReq) (s : State),
    (SvcAsk false 1 d r s → ∃ s', exec (.statusRead d) s = .next s' ∧ Responded 1 svcOk (s.statusPage s.deafDies.1) s s' ∧ s' = { s with free := s'.free, out := s'.out }) ∧
    (SvcAsk false 2 d r s → let offs := (List.range (svcRegCount r.body)).map (svcRegOff r.body)
      ∃ s', exec (.regRead d) s = .next s' ∧ (svcSnap r.body = 0 → (∀ o ∈ offs, rcMask o = 0) → s' = { s with free := s'.free, out := s'.out } ∧ Responded 2 svcOk (offs.flatMap (fun o => let deaf := !islandBlock o && s.deafDies.1.testBit (s.dieOf o)
        beBytes 4 o ++ [bit deaf, 0, 0, 0] ++ beBytes 8 (if deaf then 0 else s.ctlRead 0 o))) s s')) ∧
    (s.isl.handover = none → SvcAsk false 3 d r s → let g := s.isl.gasps[svcRecord r.body]?
      ∃ s', exec (.serviceLastGaspRead d) s = .next s' ∧ Responded 3 (if g = none then svcNoRecord else svcOk) ((g.map Gasp.bytes).getD []) s s' ∧ s' = { s with free := s'.free, out := s'.out }) ∧
    (s.isl.handover = none → SvcAsk false 0x24 d r s → (s.armed = false → ∃ s', exec (.setSvcKey d) s = .next s' ∧ Responded 0x24 svcArmOpen [] s s' ∧ s' = { s with free := s'.free, out := s'.out }) ∧
      (s.armed = true → r.body.length = 96 → ∃ s', exec (.setSvcKey d) s = .next s' ∧ Responded 0x24 svcOk [] s s' ∧ s'.isl = { s.isl with svcKey := r.body }))) ∧
  (∀ (cmd : Nat) (s : State), (s.isl.down = true → exec (.smbusBlockRead cmd) s = .next s) ∧ (s.isl.down = false → exec (.smbusBlockRead cmd) s = .next { s with free := s.deafDies.2.free, out := s.out ++ [.smbus (((s.statusPage s.deafDies.1).take 64).map (BitVec.ofNat 8))] })) ∧
  (∀ (s : State) (deaf : Nat), (s.statusPage deaf).length = 256 ∧ (s.statusPage deaf).getD 63 0 = deaf) ∧
  (∀ (d : List Byte) (r : SvcReq) (s : State) (row : Instr) (op : Nat), (row, op) ∈ [(Instr.serviceQuiesce d, 0x10), (.servicePowerOff d, 0x11), (.powerOn d, 0x12), (.serviceReset d, 0x13), (.zeroise d, 0x14), (.serviceKekInstall d, 0x15)] → s.isl.handover = none ∨ op ∈ [0x10, 0x11, 0x14] → SvcAsk true op d r s →
    (op ≠ 0x15 ∨ s.armed = true → r.nonce ≤ s.isl.nonce ∨ ecdsaVerify s.isl.svcKey (sha384 r.text) r.sig = false → exec row s = .next s) ∧
    (op = 0x15 → s.armed = false → ∃ s', exec row s = .next s' ∧ Responded 0x15 svcArmOpen [] s s' ∧ s' = { s with free := s'.free, out := s'.out })) ∧
  ∀ (d : List Byte) (r : SvcReq) (s : State), Registers.wf s.ctl →
    (SvcGood 0x10 d r s → ∃ s', exec (.serviceQuiesce d) s = .next s' ∧ Responded 0x10 svcOk [] s s' ∧ s'.isl.nonce = r.nonce ∧ (s.isl.powered = true → ∀ t < 1280, (s'.tile t).seq ≠ .running ∧ s'.gated t = true)) ∧
    (SvcGood 0x11 d r s → ∃ s', exec (.servicePowerOff d) s = .next s' ∧ Responded 0x11 svcOk [] s s' ∧ s'.isl.nonce = r.nonce ∧ s'.isl.heldOff = true ∧ (s.isl.powered = true → PoweredOff s s')) ∧
    (s.isl.handover = none → SvcGood 0x12 d r s → ∃ s', exec (.powerOn d) s = .next s' ∧ Responded 0x12 svcOk [] s s' ∧ s'.isl = { s.isl with nonce := r.nonce, heldOff := false }) ∧
    (s.isl.handover = none → SvcGood 0x13 d r s → let typ := svcResetType r.body
      ∃ s', exec (.serviceReset d) s = .next s' ∧ Responded 0x13 (if typ ≤ 1 then svcOk else svcRefused) [] s s' ∧ s'.isl.nonce = r.nonce ∧ s'.cip.kek = s.cip.kek ∧ (typ = 1 → s.isl.powered = true → WarmResets 4 false s s') ∧
        (typ = 0 → s'.isl.powered = false ∧ s'.time = 0 ∧ s'.rf .clkStatus [] 44 4 = 1 ∧ s'.rf .clkStatus [] 40 4 = 4 ∧ ∀ k, k < 2 ^ 40 → s'.byte k = 0)) ∧
    (SvcGood 0x14 d r s → ∃ s', exec (.zeroise d) s = .next s' ∧ Responded 0x14 svcOk [] s s' ∧ s'.isl.nonce = r.nonce ∧ s'.cip.kek = none ∧ (∀ k, s'.pkey k = []) ∧ (s.isl.powered = true → s'.isl.running = [⟨2, 0, 7, false⟩])) ∧
    (r.body.length ≠ 145 → s.kekOf r.body = none) ∧
    (s.isl.handover = none → SvcGood 0x15 d r s → s.armed = true → let kek := s.kekOf r.body
      ∃ s', exec (.serviceKekInstall d) s = .next s' ∧ Responded 0x15 (if kek = none ∨ s.anyChannel = true then svcRefused else svcOk) [] s s' ∧ (kek = none ∨ s.anyChannel = true → s'.cip = s.cip) ∧
        (∀ k, kek = some k → s.anyChannel = false → s'.cip.kek = some k ∧ s'.cip.kekGen = (s.cip.kekGen + 1) % 2 ^ 32 ∧ ∀ j, s'.pkey j = []))

/-- Firmware and the plug-in modules (R523, R525-R528, R540-R542): FW_BEGIN erases the idle slot and opens a session; FW_DATA writes within it; FW_COMMIT checks the image and begins the handover; the handover ends with the new image or fails; opening SVC_ARM ends the session; a fatal error stops Shepherd. The handover passes control only once no mailbox command is in progress, and ends only from the new instance (R527). That data or a commit from another address is dropped, and the slot's NEXT after a handover, are the model's readings (log 47). A far port's link is up only with a plug-in module
that is out of reset and out of low-power mode, where a module of more than 25 W stays (log 51). -/
def Obligations.Firmware : Prop :=
  (∀ (src : Nat) (d : List Byte) (s : State), s.isl.handover = none → (svcParse true d = none → exec (.fwBegin src d) s = .next s ∧ exec (.fwCommit src d) s = .next s) ∧ (svcParse false d = none → exec (.fwData src d) s = .next s)) ∧
  (∀ (src : Nat) (d : List Byte) (r : SvcReq) (s : State), s.isl.handover = none →
    (SvcAsk true 0x20 d r s → s.armed = false → ∃ s', exec (.fwBegin src d) s = .next s' ∧ Responded 0x20 svcArmOpen [] s s' ∧ s' = { s with free := s'.free, out := s'.out }) ∧
    (SvcGood 0x20 d r s → s.armed = true → let b := 1 - s.rf .clkStatus [] 35 1
      ∃ s', exec (.fwBegin src d) s = .next s' ∧ Responded 0x20 svcOk [] s s' ∧ s'.slotSt b = 4 ∧ s'.slotSt (1 - b) = s.slotSt (1 - b) ∧ s'.isl = { s.isl with nonce := r.nonce, session := some ⟨src, b, svcSize r.body⟩ } ∧
        (∀ i, i < 31 * 2 ^ 20 → s'.byte (norKey (slotBase b + i)) = 0) ∧ ∀ k, k < norKey (slotBase b) → s'.byte k = s.byte k) ∧
    (SvcAsk false 0x21 d r s →
      (s.armed = false → ∃ s', exec (.fwData src d) s = .next s' ∧ Responded 0x21 svcArmOpen [] s s' ∧ s' = { s with free := s'.free, out := s'.out }) ∧
      (s.armed = true → s.isl.session = none → exec (.fwData src d) s = .next s) ∧
      (∀ x, s.armed = true → s.isl.session = some x → let off := svcOffset r.body
        let data := r.body.drop (svcOffWidth r.body)
        (x.src ≠ src → exec (.fwData src d) s = .next s) ∧
        let fits : Prop := data.length ≤ 1024 ∧ off + data.length ≤ 31 * 2 ^ 20
        (x.src = src → ∃ s', exec (.fwData src d) s = .next s' ∧ (¬ fits → s' = s) ∧ (fits → Responded 0x21 svcOk [] s s' ∧ s'.bytes (norKey (slotBase x.slot + off)) data.length = data.map (· % 256) ∧ s'.isl = s.isl ∧
          ∀ k, k < norKey (slotBase x.slot + off) ∨ norKey (slotBase x.slot + off) + data.length ≤ k → s'.byte k = s.byte k)))) ∧
    (SvcGood 0x22 d r s → s.armed = true → (s.isl.session = none → ∃ s', exec (.fwCommit src d) s = .next s' ∧ s'.ctl = s.ctl) ∧
      ∀ x, s.isl.session = some x → x.slot < 2 →
        (x.src ≠ src → ∃ s', exec (.fwCommit src d) s = .next s' ∧ s'.isl.session = some x ∧ s'.ctl = s.ctl) ∧
        (x.src = src → s.imageOk x = false → ∃ s', exec (.fwCommit src d) s = .next s' ∧ Responded 0x22 svcRefused [] s s' ∧ s'.slotSt x.slot = 3 ∧ s'.isl.session = none ∧ s'.isl.handover = s.isl.handover) ∧
        (x.src = src → s.imageOk x = true → ∃ s', exec (.fwCommit src d) s = .next s' ∧ Responded 0x22 svcOk [] s s' ∧ s'.slotSt x.slot = 2 ∧ s'.slotSvn x.slot = s.le (norKey (slotBase x.slot + 12)) 4 % 256 ∧ (s.shepUp = false ∨ s.isl.result = none → s'.isl.session = none) ∧
          (s.shepUp = true → s.isl.result ≠ none → s'.isl.session = some x ∧ s'.isl.onD1 = s.isl.onD1 ∧ s'.isl.record = s.isl.record) ∧
          (s.shepUp = true → s'.isl.handover = some (x.slot, false) ∧ (s.isl.result = none → s'.isl.onD1 = true ∧ ∀ i < 24, s'.isl.record.getD (16 + i) 0 = ([RegName.clkCap, .clkThrottle, .clkTherm].flatMap (fun n => leBytes 8 (s.reg n []))).getD i 0) ∧ s'.flag .shmStatus [] 62 = true ∧ s'.rf .evtProgState [65] 62 2 = 1)))) ∧
  (∀ (s : State) (b : Nat), s.isl.handover = some (b, false) → s.isl.onD1 = false → exec .fwHandoverDone s = .next s) ∧
  (∀ (s : State) (b : Nat), s.isl.handover = some (b, false) → s.isl.onD1 = true → b < 2 → ∃ x : State, exec .fwHandoverDone s = (x.raise 0x0705 0 0 0 (s.le (norKey (slotBase b + 16)) 8) (s.slotSvn b)).svcRelease ∧ x.rf .clkStatus [] 35 1 = b ∧ x.rf .shmFw [] 0 32 = s.le (norKey (slotBase b + 16)) 8 % 2 ^ 32 ∧
    x.flag .shmStatus [] 62 = false ∧ x.isl = { s.isl with handover := none, onD1 := false } ∧ ∀ k, deviceKey k → x.byte k = s.byte k) ∧
  (∀ (s : State) (b : Nat) (lost : Bool), s.isl.handover = some (b, lost) → b < 2 → ∃ x : State, exec .fwHandoverFail s = (x.raise 0x0706 (if lost then s.slotSt b else 3) 0 0 (if lost then failReset else failImage) 0).svcRelease ∧ x.slotSt b = (if lost then s.slotSt b else 3) ∧
    x.flag .shmStatus [] 62 = false ∧ x.isl = { s.isl with handover := none, onD1 := false, session := none } ∧ x.rf .clkStatus [] 35 1 = s.rf .clkStatus [] 35 1) ∧
  (∀ s : State, s.isl.heldSvc = [] → s.svcRelease = .next s) ∧ (∀ (s : State) (h : HeldSvc), s.isl.heldSvc = [h] → s.svcRelease = (s.setIsl { s.isl with heldSvc := [] }).svcServe h) ∧
  (∀ s : State, s.isl.heldSvc = [] → (∀ b < 2, s.isl.handover = some (b, false) → s.isl.onD1 = true → ∃ s', exec .fwHandoverDone s = .next s' ∧ s'.rf .clkStatus [] 35 1 = b ∧ s'.isl.handover = none) ∧
    (∀ b lost, b < 2 → s.isl.handover = some (b, lost) → ∃ s', exec .fwHandoverFail s = .next s' ∧ s'.slotSt b = (if lost then s.slotSt b else 3) ∧ s'.isl.handover = none)) ∧
  (∀ s : State, (s.isl.handover = none → exec .fwHandoverDone s = .next s ∧ exec .fwHandoverFail s = .next s) ∧ (∀ b, s.isl.handover = some (b, true) → exec .fwHandoverDone s = .next s)) ∧
  (∀ s : State, (s.shepUp = false ∨ s.isl.down = true → exec .shepherdFatalError s = .next s) ∧ (s.shepUp = true → s.isl.down = false → ∃ s', exec .shepherdFatalError s = .next s' ∧ s'.shepUp = false ∧ Gasped causeFatal s s')) ∧
  (∀ (closed : Bool) (s : State), (s.isl.armed = closed ∨ s.isl.down = true → exec (.svcArmChange closed) s = .next s) ∧
    (s.isl.armed ≠ closed → s.isl.down = false → (s.isl.session = none ∨ closed = true ∨ s.isl.handover ≠ none → exec (.svcArmChange closed) s = .next ((s.setIsl { s.isl with armed := closed }).raise 0x0709 0 0 0 (bit closed) 0)) ∧
      (∀ x, s.isl.session = some x → s.isl.handover = none → x.slot < 2 → closed = false → ∃ y : State, exec (.svcArmChange closed) s = .next (y.raise 0x0709 0 0 0 0 0) ∧ y.slotSt x.slot = 0 ∧ y.isl = { s.isl with armed := false, session := none }))) ∧
  (∀ (f : Fin 4) (s : State), let cage (z : State) : Cage := tblGet (fun _ => Cage.reset) z.isl.cages f.val
    let used (z : State) : Bool := z.farLink f || z.channels.any (fun c => z.chanPort c == f.val)
    (∀ watts, (s.isl.powered = false → exec (.plugInModuleChange f watts) s = .next (s.setCage f ⟨watts, watts.isSome, true⟩)) ∧
      (s.isl.powered = true → ∃ s', exec (.plugInModuleChange f watts) s = .next s' ∧ (cage s').watts = watts ∧ (cage s').inReset = false ∧ (∀ w, watts = some w → (cage s').lowPower = (!used s || decide (25 < w))) ∧
        s'.farLink f = (match watts with
          | some w => used s && decide (w ≤ 25)
          | none => false) ∧
        s' = { s with ctl := s'.ctl, isl := { s.isl with cages := s'.isl.cages } } ∧ ∀ o, o ≠ regOff .farPortCfg [f.val] → s'.ctlRaw o = s.ctlRaw o)) ∧
    ∀ up, ∃ s', exec (.farPortLinkChange f up) s = .next s' ∧ (s.isl.powered = true → s'.farLink f = (up && (cage s).watts.isSome && !(cage s).inReset && !(cage s).lowPower)) ∧ (s.isl.powered = false → s'.ctl = s.ctl) ∧
      cage s' = { cage s with lowPower := !used s' || decide (25 < (cage s).watts.getD 0) } ∧ s' = { s with ctl := s'.ctl, isl := { s.isl with cages := s'.isl.cages } } ∧ ∀ o, o ≠ regOff .farPortCfg [f.val] → s'.ctlRaw o = s.ctlRaw o)

/-! ### The whole machine -/

/-- Every step keeps the canonical form of the byte store and of the register file: addresses strictly rising, no entry equal to what an unlisted address reads as. -/
def Obligations.StepKeepsForm : Prop := ∀ s s' : State, s.Wf → step s = .next s' → s'.Wf

/-- The state after reset has that form; READY is 0, the compute domain is off, both supplies are valid, no command waits, and the memory lists nothing (R18, R499). That both supplies are valid is the model's choice (DESIGN CHOICE, log 7), and so is that every byte reads 0, host memory and NOR included (DESIGN CHOICE, log 9). -/
def Obligations.ResetForm : Prop :=
  State.reset.Wf ∧ State.reset.isReady = false ∧ State.reset.isl.powered = false ∧ State.reset.isl.mainOk = true ∧ State.reset.isl.stbyOk = true ∧ State.reset.pending = [] ∧ State.reset.mem = [] ∧
    (∀ o, State.reset.ctlRaw o = ctlReset o) ∧ ∀ k, State.reset.byte k = 0

end
end

