-- ==== Sys2Proof/Laws/Tbl.lean ====
section
/-!
SUPPORT. The laws of the sparse tables: a key reads back what was set, every other key reads as before, and every operation keeps the
canonical form.
-/
namespace Sys2Proof.Laws
open Sys2Proof

variable {α : Type}

theorem tblGet_erase_same (d : Nat → α) (l : Tbl α) (k : Nat) : tblGet d (tblErase l k) k = d k := by
  induction l with
  | nil => rfl
  | cons a r ih => obtain ⟨j, v⟩ := a; simp only [tblErase]; split <;> simp_all [tblGet]

theorem tblGet_erase_other (d : Nat → α) (l : Tbl α) {k j : Nat} (h : j ≠ k) : tblGet d (tblErase l k) j = tblGet d l j := by
  induction l with
  | nil => rfl
  | cons a r ih => obtain ⟨i, v⟩ := a; simp only [tblErase]; split <;> simp_all [tblGet]; intro h'; exact absurd h'.symm h

theorem tblGet_insert_same (d : Nat → α) (l : Tbl α) (k : Nat) (v : α) (h : ∀ x ∈ l, x.1 ≠ k) : tblGet d (tblInsert l k v) k = v := by
  induction l with
  | nil => simp [tblInsert, tblGet]
  | cons a r ih =>
    obtain ⟨i, w⟩ := a
    have hi : i ≠ k := h (i, w) (by simp)
    simp only [tblInsert]
    split
    · simp [tblGet]
    · simp only [tblGet, hi, if_false]; exact ih (fun x hx => h x (by simp [hx]))

theorem tblGet_insert_other (d : Nat → α) (l : Tbl α) {k j : Nat} (v : α) (h : j ≠ k) : tblGet d (tblInsert l k v) j = tblGet d l j := by
  induction l with
  | nil => simp [tblInsert, tblGet, Ne.symm h]
  | cons a r ih =>
    obtain ⟨i, w⟩ := a
    simp only [tblInsert]
    split
    · simp [tblGet, Ne.symm h]
    · simp only [tblGet, ih]

theorem mem_erase (l : Tbl α) (k : Nat) (x : Nat × α) (h : x ∈ tblErase l k) : x ∈ l ∧ x.1 ≠ k := by
  induction l with
  | nil => simp [tblErase] at h
  | cons a r ih =>
    obtain ⟨i, v⟩ := a
    simp only [tblErase] at h
    split at h
    · exact ⟨by simp [(ih h).1], (ih h).2⟩
    · rcases List.mem_cons.1 h with rfl | h
      · exact ⟨by simp, ‹_›⟩
      · exact ⟨by simp [(ih h).1], (ih h).2⟩

theorem mem_insert (l : Tbl α) (k : Nat) (v : α) (x : Nat × α) (h : x ∈ tblInsert l k v) : x = (k, v) ∨ x ∈ l := by
  induction l with
  | nil => simp [tblInsert] at h; exact .inl h
  | cons a r ih =>
    obtain ⟨i, w⟩ := a
    simp only [tblInsert] at h
    split at h
    · simpa using h
    · rcases List.mem_cons.1 h with rfl | h
      · simp
      · rcases ih h with h | h <;> simp [h]

/-- A key that was set reads back as what was set. -/
@[simp] theorem tblGet_set_same [DecidableEq α] (d : Nat → α) (l : Tbl α) (k : Nat) (v : α) : tblGet d (tblSet d l k v) k = v := by
  unfold tblSet
  split
  · rw [tblGet_erase_same]; exact Eq.symm ‹_›
  · exact tblGet_insert_same d _ k v (fun x hx => (mem_erase l k x hx).2)

/-- Every other key reads as before. -/
theorem tblGet_set_other [DecidableEq α] (d : Nat → α) (l : Tbl α) {k j : Nat} (v : α) (h : j ≠ k) :
    tblGet d (tblSet d l k v) j = tblGet d l j := by
  unfold tblSet
  split
  · exact tblGet_erase_other d l h
  · rw [tblGet_insert_other d _ v h, tblGet_erase_other d l h]

/-- What any key reads after a set. -/
theorem tblGet_set [DecidableEq α] (d : Nat → α) (l : Tbl α) (k j : Nat) (v : α) :
    tblGet d (tblSet d l k v) j = if j = k then v else tblGet d l j := by
  split
  · subst j; simp
  · exact tblGet_set_other d l v ‹_›

/-- The keys of a cleared range read as their default, every other key as before. -/
theorem tblGet_clear (d : Nat → α) (l : Tbl α) (a b j : Nat) :
    tblGet d (tblClear l a b) j = if a ≤ j ∧ j < b then d j else tblGet d l j := by
  induction l with
  | nil => simp [tblClear, tblGet]
  | cons x r ih =>
    obtain ⟨i, v⟩ := x
    have h : tblClear ((i, v) :: r) a b = if i < a ∨ b ≤ i then (i, v) :: tblClear r a b else tblClear r a b := by
      simp only [tblClear, List.filter_cons]; simp only [Bool.or_eq_true, decide_eq_true_eq]
    rw [h]
    by_cases hi : i < a ∨ b ≤ i
    · rw [if_pos hi]
      by_cases hj : i = j
      · subst hj; simp only [tblGet, if_true]; rw [if_neg (by omega)]
      · simp only [tblGet, hj, if_false, ih]
    · rw [if_neg hi, ih]
      by_cases hj : i = j
      · subst hj; rw [if_pos (by omega), if_pos (by omega)]
      · simp only [tblGet, hj, if_false]

theorem pairwise_insert (l : Tbl α) (k : Nat) (v : α) (hl : l.Pairwise (fun a b => a.1 < b.1)) (hk : ∀ x ∈ l, x.1 ≠ k) :
    (tblInsert l k v).Pairwise (fun a b => a.1 < b.1) := by
  induction l with
  | nil => simp [tblInsert]
  | cons a r ih =>
    obtain ⟨i, w⟩ := a
    rw [List.pairwise_cons] at hl
    simp only [tblInsert]
    split
    · rename_i hki
      refine List.pairwise_cons.2 ⟨?_, List.pairwise_cons.2 hl⟩
      intro x hx
      rcases List.mem_cons.1 hx with rfl | hx
      · exact hki
      · exact Nat.lt_trans hki (hl.1 x hx)
    · rename_i hki
      refine List.pairwise_cons.2 ⟨?_, ih hl.2 (fun x hx => hk x (by simp [hx]))⟩
      intro x hx
      rcases mem_insert r k v x hx with rfl | hx
      · have : i ≠ k := hk (i, w) (by simp)
        show i < k
        omega
      · exact hl.1 x hx

theorem erase_sublist (l : Tbl α) (k : Nat) : List.Sublist (tblErase l k) l := by
  induction l with
  | nil => exact List.Sublist.slnil
  | cons a r ih =>
    obtain ⟨i, v⟩ := a
    simp only [tblErase]
    split
    · exact ih.cons _
    · exact ih.cons_cons _

/-- A sublist of a canonical table is canonical. -/
theorem tblWf_sublist (d : Nat → α) {l m : Tbl α} (h : List.Sublist l m) (hm : tblWf d m) : tblWf d l :=
  ⟨hm.1.sublist h, fun x hx => hm.2 x (h.subset hx)⟩

theorem tblWf_erase (d : Nat → α) {l : Tbl α} (k : Nat) (h : tblWf d l) : tblWf d (tblErase l k) :=
  tblWf_sublist d (erase_sublist l k) h

/-- Setting a key keeps the canonical form. -/
theorem tblWf_set [DecidableEq α] (d : Nat → α) {l : Tbl α} (k : Nat) (v : α) (h : tblWf d l) : tblWf d (tblSet d l k v) := by
  unfold tblSet
  split
  · exact tblWf_erase d k h
  · refine ⟨pairwise_insert _ k v (tblWf_erase d k h).1 (fun x hx => (mem_erase l k x hx).2), ?_⟩
    intro x hx
    rcases mem_insert _ k v x hx with rfl | hx
    · assumption
    · exact (tblWf_erase d k h).2 x hx

/-- Clearing a range keeps the canonical form. -/
theorem tblWf_clear (d : Nat → α) {l : Tbl α} (a b : Nat) (h : tblWf d l) : tblWf d (tblClear l a b) :=
  tblWf_sublist d List.filter_sublist h

/-- Filtering keeps the canonical form. -/
theorem tblWf_filter (d : Nat → α) {l : Tbl α} (p : Nat × α → Bool) (h : tblWf d l) : tblWf d (l.filter p) :=
  tblWf_sublist d List.filter_sublist h

/-- The empty table is canonical. -/
theorem tblWf_nil (d : Nat → α) : tblWf d [] := ⟨List.Pairwise.nil, fun _ h => absurd h List.not_mem_nil⟩

end Sys2Proof.Laws
end

