-- ==== Sys2Proof/Laws/State.lean ====
section
/-!
SUPPORT. The laws of the state's updates: one lemma per field per update, and what each accessor reads after each update.
-/
namespace Sys2Proof.Laws
open Sys2Proof Sys2Proof.Machine


/-! ### setCtl -/

@[simp] theorem setCtl_pending (s : State) (o : Nat) (v : Word) : (s.setCtl o v).pending = s.pending := rfl
@[simp] theorem setCtl_breach (s : State) (o : Nat) (v : Word) : (s.setCtl o v).breach = s.breach := rfl
@[simp] theorem setCtl_free (s : State) (o : Nat) (v : Word) : (s.setCtl o v).free = s.free := rfl
@[simp] theorem setCtl_nextId (s : State) (o : Nat) (v : Word) : (s.setCtl o v).nextId = s.nextId := rfl
@[simp] theorem setCtl_lineGen (s : State) (o : Nat) (v : Word) : (s.setCtl o v).lineGen = s.lineGen := rfl
@[simp] theorem setCtl_gen (s : State) (o : Nat) (v : Word) : (s.setCtl o v).gen = s.gen := rfl
@[simp] theorem setCtl_fuses (s : State) (o : Nat) (v : Word) : (s.setCtl o v).fuses = s.fuses := rfl
@[simp] theorem setCtl_time (s : State) (o : Nat) (v : Word) : (s.setCtl o v).time = s.time := rfl
@[simp] theorem setCtl_out (s : State) (o : Nat) (v : Word) : (s.setCtl o v).out = s.out := rfl
@[simp] theorem setCtl_mem (s : State) (o : Nat) (v : Word) : (s.setCtl o v).mem = s.mem := rfl
@[simp] theorem setCtl_tally (s : State) (o : Nat) (v : Word) : (s.setCtl o v).tally = s.tally := rfl
@[simp] theorem setCtl_snap (s : State) (o : Nat) (v : Word) : (s.setCtl o v).snap = s.snap := rfl
@[simp] theorem setCtl_ev (s : State) (o : Nat) (v : Word) : (s.setCtl o v).ev = s.ev := rfl
@[simp] theorem setCtl_tiles (s : State) (o : Nat) (v : Word) : (s.setCtl o v).tiles = s.tiles := rfl
@[simp] theorem setCtl_xfers (s : State) (o : Nat) (v : Word) : (s.setCtl o v).xfers = s.xfers := rfl
@[simp] theorem setCtl_hostReads (s : State) (o : Nat) (v : Word) : (s.setCtl o v).hostReads = s.hostReads := rfl
@[simp] theorem setCtl_flash (s : State) (o : Nat) (v : Word) : (s.setCtl o v).flash = s.flash := rfl
@[simp] theorem setCtl_remotes (s : State) (o : Nat) (v : Word) : (s.setCtl o v).remotes = s.remotes := rfl
@[simp] theorem setCtl_flock (s : State) (o : Nat) (v : Word) : (s.setCtl o v).flock = s.flock := rfl
@[simp] theorem setCtl_closeStep (s : State) (o : Nat) (v : Word) : (s.setCtl o v).closeStep = s.closeStep := rfl
@[simp] theorem setCtl_closeHeld (s : State) (o : Nat) (v : Word) : (s.setCtl o v).closeHeld = s.closeHeld := rfl
@[simp] theorem setCtl_initHeld (s : State) (o : Nat) (v : Word) : (s.setCtl o v).initHeld = s.initHeld := rfl
@[simp] theorem setCtl_net (s : State) (o : Nat) (v : Word) : (s.setCtl o v).net = s.net := rfl
@[simp] theorem setCtl_ctxs (s : State) (o : Nat) (v : Word) : (s.setCtl o v).ctxs = s.ctxs := rfl
@[simp] theorem setCtl_barrier (s : State) (o : Nat) (v : Word) : (s.setCtl o v).barrier = s.barrier := rfl
@[simp] theorem setCtl_wave (s : State) (o : Nat) (v : Word) : (s.setCtl o v).wave = s.wave := rfl
@[simp] theorem setCtl_shard (s : State) (o : Nat) (v : Word) : (s.setCtl o v).shard = s.shard := rfl
@[simp] theorem setCtl_far (s : State) (o : Nat) (v : Word) : (s.setCtl o v).far = s.far := rfl
@[simp] theorem setCtl_cip (s : State) (o : Nat) (v : Word) : (s.setCtl o v).cip = s.cip := rfl
@[simp] theorem setCtl_isl (s : State) (o : Nat) (v : Word) : (s.setCtl o v).isl = s.isl := rfl
@[simp] theorem setCtl_rings (s : State) (o : Nat) (v : Word) : (s.setCtl o v).rings = s.rings := rfl

/-! ### setReg -/

@[simp] theorem setReg_pending (s : State) (n : RegName) (i : List Nat) (v : Nat) : (s.setReg n i v).pending = s.pending := rfl
@[simp] theorem setReg_breach (s : State) (n : RegName) (i : List Nat) (v : Nat) : (s.setReg n i v).breach = s.breach := rfl
@[simp] theorem setReg_free (s : State) (n : RegName) (i : List Nat) (v : Nat) : (s.setReg n i v).free = s.free := rfl
@[simp] theorem setReg_nextId (s : State) (n : RegName) (i : List Nat) (v : Nat) : (s.setReg n i v).nextId = s.nextId := rfl
@[simp] theorem setReg_lineGen (s : State) (n : RegName) (i : List Nat) (v : Nat) : (s.setReg n i v).lineGen = s.lineGen := rfl
@[simp] theorem setReg_gen (s : State) (n : RegName) (i : List Nat) (v : Nat) : (s.setReg n i v).gen = s.gen := rfl
@[simp] theorem setReg_fuses (s : State) (n : RegName) (i : List Nat) (v : Nat) : (s.setReg n i v).fuses = s.fuses := rfl
@[simp] theorem setReg_time (s : State) (n : RegName) (i : List Nat) (v : Nat) : (s.setReg n i v).time = s.time := rfl
@[simp] theorem setReg_out (s : State) (n : RegName) (i : List Nat) (v : Nat) : (s.setReg n i v).out = s.out := rfl
@[simp] theorem setReg_mem (s : State) (n : RegName) (i : List Nat) (v : Nat) : (s.setReg n i v).mem = s.mem := rfl
@[simp] theorem setReg_tally (s : State) (n : RegName) (i : List Nat) (v : Nat) : (s.setReg n i v).tally = s.tally := rfl
@[simp] theorem setReg_snap (s : State) (n : RegName) (i : List Nat) (v : Nat) : (s.setReg n i v).snap = s.snap := rfl
@[simp] theorem setReg_ev (s : State) (n : RegName) (i : List Nat) (v : Nat) : (s.setReg n i v).ev = s.ev := rfl
@[simp] theorem setReg_tiles (s : State) (n : RegName) (i : List Nat) (v : Nat) : (s.setReg n i v).tiles = s.tiles := rfl
@[simp] theorem setReg_xfers (s : State) (n : RegName) (i : List Nat) (v : Nat) : (s.setReg n i v).xfers = s.xfers := rfl
@[simp] theorem setReg_hostReads (s : State) (n : RegName) (i : List Nat) (v : Nat) : (s.setReg n i v).hostReads = s.hostReads := rfl
@[simp] theorem setReg_flash (s : State) (n : RegName) (i : List Nat) (v : Nat) : (s.setReg n i v).flash = s.flash := rfl
@[simp] theorem setReg_remotes (s : State) (n : RegName) (i : List Nat) (v : Nat) : (s.setReg n i v).remotes = s.remotes := rfl
@[simp] theorem setReg_flock (s : State) (n : RegName) (i : List Nat) (v : Nat) : (s.setReg n i v).flock = s.flock := rfl
@[simp] theorem setReg_closeStep (s : State) (n : RegName) (i : List Nat) (v : Nat) : (s.setReg n i v).closeStep = s.closeStep := rfl
@[simp] theorem setReg_closeHeld (s : State) (n : RegName) (i : List Nat) (v : Nat) : (s.setReg n i v).closeHeld = s.closeHeld := rfl
@[simp] theorem setReg_initHeld (s : State) (n : RegName) (i : List Nat) (v : Nat) : (s.setReg n i v).initHeld = s.initHeld := rfl
@[simp] theorem setReg_net (s : State) (n : RegName) (i : List Nat) (v : Nat) : (s.setReg n i v).net = s.net := rfl
@[simp] theorem setReg_ctxs (s : State) (n : RegName) (i : List Nat) (v : Nat) : (s.setReg n i v).ctxs = s.ctxs := rfl
@[simp] theorem setReg_barrier (s : State) (n : RegName) (i : List Nat) (v : Nat) : (s.setReg n i v).barrier = s.barrier := rfl
@[simp] theorem setReg_wave (s : State) (n : RegName) (i : List Nat) (v : Nat) : (s.setReg n i v).wave = s.wave := rfl
@[simp] theorem setReg_shard (s : State) (n : RegName) (i : List Nat) (v : Nat) : (s.setReg n i v).shard = s.shard := rfl
@[simp] theorem setReg_far (s : State) (n : RegName) (i : List Nat) (v : Nat) : (s.setReg n i v).far = s.far := rfl
@[simp] theorem setReg_cip (s : State) (n : RegName) (i : List Nat) (v : Nat) : (s.setReg n i v).cip = s.cip := rfl
@[simp] theorem setReg_isl (s : State) (n : RegName) (i : List Nat) (v : Nat) : (s.setReg n i v).isl = s.isl := rfl
@[simp] theorem setReg_rings (s : State) (n : RegName) (i : List Nat) (v : Nat) : (s.setReg n i v).rings = s.rings := rfl

/-! ### setRf -/

@[simp] theorem setRf_pending (s : State) (n : RegName) (i : List Nat) (lo len v : Nat) : (s.setRf n i lo len v).pending = s.pending := rfl
@[simp] theorem setRf_breach (s : State) (n : RegName) (i : List Nat) (lo len v : Nat) : (s.setRf n i lo len v).breach = s.breach := rfl
@[simp] theorem setRf_free (s : State) (n : RegName) (i : List Nat) (lo len v : Nat) : (s.setRf n i lo len v).free = s.free := rfl
@[simp] theorem setRf_nextId (s : State) (n : RegName) (i : List Nat) (lo len v : Nat) : (s.setRf n i lo len v).nextId = s.nextId := rfl
@[simp] theorem setRf_lineGen (s : State) (n : RegName) (i : List Nat) (lo len v : Nat) : (s.setRf n i lo len v).lineGen = s.lineGen := rfl
@[simp] theorem setRf_gen (s : State) (n : RegName) (i : List Nat) (lo len v : Nat) : (s.setRf n i lo len v).gen = s.gen := rfl
@[simp] theorem setRf_fuses (s : State) (n : RegName) (i : List Nat) (lo len v : Nat) : (s.setRf n i lo len v).fuses = s.fuses := rfl
@[simp] theorem setRf_time (s : State) (n : RegName) (i : List Nat) (lo len v : Nat) : (s.setRf n i lo len v).time = s.time := rfl
@[simp] theorem setRf_out (s : State) (n : RegName) (i : List Nat) (lo len v : Nat) : (s.setRf n i lo len v).out = s.out := rfl
@[simp] theorem setRf_mem (s : State) (n : RegName) (i : List Nat) (lo len v : Nat) : (s.setRf n i lo len v).mem = s.mem := rfl
@[simp] theorem setRf_tally (s : State) (n : RegName) (i : List Nat) (lo len v : Nat) : (s.setRf n i lo len v).tally = s.tally := rfl
@[simp] theorem setRf_snap (s : State) (n : RegName) (i : List Nat) (lo len v : Nat) : (s.setRf n i lo len v).snap = s.snap := rfl
@[simp] theorem setRf_ev (s : State) (n : RegName) (i : List Nat) (lo len v : Nat) : (s.setRf n i lo len v).ev = s.ev := rfl
@[simp] theorem setRf_tiles (s : State) (n : RegName) (i : List Nat) (lo len v : Nat) : (s.setRf n i lo len v).tiles = s.tiles := rfl
@[simp] theorem setRf_xfers (s : State) (n : RegName) (i : List Nat) (lo len v : Nat) : (s.setRf n i lo len v).xfers = s.xfers := rfl
@[simp] theorem setRf_hostReads (s : State) (n : RegName) (i : List Nat) (lo len v : Nat) : (s.setRf n i lo len v).hostReads = s.hostReads := rfl
@[simp] theorem setRf_flash (s : State) (n : RegName) (i : List Nat) (lo len v : Nat) : (s.setRf n i lo len v).flash = s.flash := rfl
@[simp] theorem setRf_remotes (s : State) (n : RegName) (i : List Nat) (lo len v : Nat) : (s.setRf n i lo len v).remotes = s.remotes := rfl
@[simp] theorem setRf_flock (s : State) (n : RegName) (i : List Nat) (lo len v : Nat) : (s.setRf n i lo len v).flock = s.flock := rfl
@[simp] theorem setRf_closeStep (s : State) (n : RegName) (i : List Nat) (lo len v : Nat) : (s.setRf n i lo len v).closeStep = s.closeStep := rfl
@[simp] theorem setRf_closeHeld (s : State) (n : RegName) (i : List Nat) (lo len v : Nat) : (s.setRf n i lo len v).closeHeld = s.closeHeld := rfl
@[simp] theorem setRf_initHeld (s : State) (n : RegName) (i : List Nat) (lo len v : Nat) : (s.setRf n i lo len v).initHeld = s.initHeld := rfl
@[simp] theorem setRf_net (s : State) (n : RegName) (i : List Nat) (lo len v : Nat) : (s.setRf n i lo len v).net = s.net := rfl
@[simp] theorem setRf_ctxs (s : State) (n : RegName) (i : List Nat) (lo len v : Nat) : (s.setRf n i lo len v).ctxs = s.ctxs := rfl
@[simp] theorem setRf_barrier (s : State) (n : RegName) (i : List Nat) (lo len v : Nat) : (s.setRf n i lo len v).barrier = s.barrier := rfl
@[simp] theorem setRf_wave (s : State) (n : RegName) (i : List Nat) (lo len v : Nat) : (s.setRf n i lo len v).wave = s.wave := rfl
@[simp] theorem setRf_shard (s : State) (n : RegName) (i : List Nat) (lo len v : Nat) : (s.setRf n i lo len v).shard = s.shard := rfl
@[simp] theorem setRf_far (s : State) (n : RegName) (i : List Nat) (lo len v : Nat) : (s.setRf n i lo len v).far = s.far := rfl
@[simp] theorem setRf_cip (s : State) (n : RegName) (i : List Nat) (lo len v : Nat) : (s.setRf n i lo len v).cip = s.cip := rfl
@[simp] theorem setRf_isl (s : State) (n : RegName) (i : List Nat) (lo len v : Nat) : (s.setRf n i lo len v).isl = s.isl := rfl
@[simp] theorem setRf_rings (s : State) (n : RegName) (i : List Nat) (lo len v : Nat) : (s.setRf n i lo len v).rings = s.rings := rfl

/-! ### setTile -/

@[simp] theorem setTile_pending (s : State) (t : Nat) (x : Tile) : (s.setTile t x).pending = s.pending := rfl
@[simp] theorem setTile_breach (s : State) (t : Nat) (x : Tile) : (s.setTile t x).breach = s.breach := rfl
@[simp] theorem setTile_free (s : State) (t : Nat) (x : Tile) : (s.setTile t x).free = s.free := rfl
@[simp] theorem setTile_nextId (s : State) (t : Nat) (x : Tile) : (s.setTile t x).nextId = s.nextId := rfl
@[simp] theorem setTile_lineGen (s : State) (t : Nat) (x : Tile) : (s.setTile t x).lineGen = s.lineGen := rfl
@[simp] theorem setTile_gen (s : State) (t : Nat) (x : Tile) : (s.setTile t x).gen = s.gen := rfl
@[simp] theorem setTile_fuses (s : State) (t : Nat) (x : Tile) : (s.setTile t x).fuses = s.fuses := rfl
@[simp] theorem setTile_time (s : State) (t : Nat) (x : Tile) : (s.setTile t x).time = s.time := rfl
@[simp] theorem setTile_out (s : State) (t : Nat) (x : Tile) : (s.setTile t x).out = s.out := rfl
@[simp] theorem setTile_mem (s : State) (t : Nat) (x : Tile) : (s.setTile t x).mem = s.mem := rfl
@[simp] theorem setTile_ctl (s : State) (t : Nat) (x : Tile) : (s.setTile t x).ctl = s.ctl := rfl
@[simp] theorem setTile_tally (s : State) (t : Nat) (x : Tile) : (s.setTile t x).tally = s.tally := rfl
@[simp] theorem setTile_snap (s : State) (t : Nat) (x : Tile) : (s.setTile t x).snap = s.snap := rfl
@[simp] theorem setTile_ev (s : State) (t : Nat) (x : Tile) : (s.setTile t x).ev = s.ev := rfl
@[simp] theorem setTile_xfers (s : State) (t : Nat) (x : Tile) : (s.setTile t x).xfers = s.xfers := rfl
@[simp] theorem setTile_hostReads (s : State) (t : Nat) (x : Tile) : (s.setTile t x).hostReads = s.hostReads := rfl
@[simp] theorem setTile_flash (s : State) (t : Nat) (x : Tile) : (s.setTile t x).flash = s.flash := rfl
@[simp] theorem setTile_remotes (s : State) (t : Nat) (x : Tile) : (s.setTile t x).remotes = s.remotes := rfl
@[simp] theorem setTile_flock (s : State) (t : Nat) (x : Tile) : (s.setTile t x).flock = s.flock := rfl
@[simp] theorem setTile_closeStep (s : State) (t : Nat) (x : Tile) : (s.setTile t x).closeStep = s.closeStep := rfl
@[simp] theorem setTile_closeHeld (s : State) (t : Nat) (x : Tile) : (s.setTile t x).closeHeld = s.closeHeld := rfl
@[simp] theorem setTile_initHeld (s : State) (t : Nat) (x : Tile) : (s.setTile t x).initHeld = s.initHeld := rfl
@[simp] theorem setTile_net (s : State) (t : Nat) (x : Tile) : (s.setTile t x).net = s.net := rfl
@[simp] theorem setTile_ctxs (s : State) (t : Nat) (x : Tile) : (s.setTile t x).ctxs = s.ctxs := rfl
@[simp] theorem setTile_barrier (s : State) (t : Nat) (x : Tile) : (s.setTile t x).barrier = s.barrier := rfl
@[simp] theorem setTile_wave (s : State) (t : Nat) (x : Tile) : (s.setTile t x).wave = s.wave := rfl
@[simp] theorem setTile_shard (s : State) (t : Nat) (x : Tile) : (s.setTile t x).shard = s.shard := rfl
@[simp] theorem setTile_far (s : State) (t : Nat) (x : Tile) : (s.setTile t x).far = s.far := rfl
@[simp] theorem setTile_cip (s : State) (t : Nat) (x : Tile) : (s.setTile t x).cip = s.cip := rfl
@[simp] theorem setTile_isl (s : State) (t : Nat) (x : Tile) : (s.setTile t x).isl = s.isl := rfl
@[simp] theorem setTile_rings (s : State) (t : Nat) (x : Tile) : (s.setTile t x).rings = s.rings := rfl

/-! ### tallyBump -/

@[simp] theorem tallyBump_pending (s : State) (o n : Nat) : (s.tallyBump o n).pending = s.pending := rfl
@[simp] theorem tallyBump_breach (s : State) (o n : Nat) : (s.tallyBump o n).breach = s.breach := rfl
@[simp] theorem tallyBump_free (s : State) (o n : Nat) : (s.tallyBump o n).free = s.free := rfl
@[simp] theorem tallyBump_nextId (s : State) (o n : Nat) : (s.tallyBump o n).nextId = s.nextId := rfl
@[simp] theorem tallyBump_lineGen (s : State) (o n : Nat) : (s.tallyBump o n).lineGen = s.lineGen := rfl
@[simp] theorem tallyBump_gen (s : State) (o n : Nat) : (s.tallyBump o n).gen = s.gen := rfl
@[simp] theorem tallyBump_fuses (s : State) (o n : Nat) : (s.tallyBump o n).fuses = s.fuses := rfl
@[simp] theorem tallyBump_time (s : State) (o n : Nat) : (s.tallyBump o n).time = s.time := rfl
@[simp] theorem tallyBump_out (s : State) (o n : Nat) : (s.tallyBump o n).out = s.out := rfl
@[simp] theorem tallyBump_mem (s : State) (o n : Nat) : (s.tallyBump o n).mem = s.mem := rfl
@[simp] theorem tallyBump_ctl (s : State) (o n : Nat) : (s.tallyBump o n).ctl = s.ctl := rfl
@[simp] theorem tallyBump_snap (s : State) (o n : Nat) : (s.tallyBump o n).snap = s.snap := rfl
@[simp] theorem tallyBump_ev (s : State) (o n : Nat) : (s.tallyBump o n).ev = s.ev := rfl
@[simp] theorem tallyBump_tiles (s : State) (o n : Nat) : (s.tallyBump o n).tiles = s.tiles := rfl
@[simp] theorem tallyBump_xfers (s : State) (o n : Nat) : (s.tallyBump o n).xfers = s.xfers := rfl
@[simp] theorem tallyBump_hostReads (s : State) (o n : Nat) : (s.tallyBump o n).hostReads = s.hostReads := rfl
@[simp] theorem tallyBump_flash (s : State) (o n : Nat) : (s.tallyBump o n).flash = s.flash := rfl
@[simp] theorem tallyBump_remotes (s : State) (o n : Nat) : (s.tallyBump o n).remotes = s.remotes := rfl
@[simp] theorem tallyBump_flock (s : State) (o n : Nat) : (s.tallyBump o n).flock = s.flock := rfl
@[simp] theorem tallyBump_closeStep (s : State) (o n : Nat) : (s.tallyBump o n).closeStep = s.closeStep := rfl
@[simp] theorem tallyBump_closeHeld (s : State) (o n : Nat) : (s.tallyBump o n).closeHeld = s.closeHeld := rfl
@[simp] theorem tallyBump_initHeld (s : State) (o n : Nat) : (s.tallyBump o n).initHeld = s.initHeld := rfl
@[simp] theorem tallyBump_net (s : State) (o n : Nat) : (s.tallyBump o n).net = s.net := rfl
@[simp] theorem tallyBump_ctxs (s : State) (o n : Nat) : (s.tallyBump o n).ctxs = s.ctxs := rfl
@[simp] theorem tallyBump_barrier (s : State) (o n : Nat) : (s.tallyBump o n).barrier = s.barrier := rfl
@[simp] theorem tallyBump_wave (s : State) (o n : Nat) : (s.tallyBump o n).wave = s.wave := rfl
@[simp] theorem tallyBump_shard (s : State) (o n : Nat) : (s.tallyBump o n).shard = s.shard := rfl
@[simp] theorem tallyBump_far (s : State) (o n : Nat) : (s.tallyBump o n).far = s.far := rfl
@[simp] theorem tallyBump_cip (s : State) (o n : Nat) : (s.tallyBump o n).cip = s.cip := rfl
@[simp] theorem tallyBump_isl (s : State) (o n : Nat) : (s.tallyBump o n).isl = s.isl := rfl
@[simp] theorem tallyBump_rings (s : State) (o n : Nat) : (s.tallyBump o n).rings = s.rings := rfl

/-! ### setByte -/

@[simp] theorem setByte_pending (s : State) (k v : Nat) : (s.setByte k v).pending = s.pending := rfl
@[simp] theorem setByte_breach (s : State) (k v : Nat) : (s.setByte k v).breach = s.breach := rfl
@[simp] theorem setByte_free (s : State) (k v : Nat) : (s.setByte k v).free = s.free := rfl
@[simp] theorem setByte_nextId (s : State) (k v : Nat) : (s.setByte k v).nextId = s.nextId := rfl
@[simp] theorem setByte_lineGen (s : State) (k v : Nat) : (s.setByte k v).lineGen = s.lineGen := rfl
@[simp] theorem setByte_gen (s : State) (k v : Nat) : (s.setByte k v).gen = s.gen := rfl
@[simp] theorem setByte_fuses (s : State) (k v : Nat) : (s.setByte k v).fuses = s.fuses := rfl
@[simp] theorem setByte_time (s : State) (k v : Nat) : (s.setByte k v).time = s.time := rfl
@[simp] theorem setByte_out (s : State) (k v : Nat) : (s.setByte k v).out = s.out := rfl
@[simp] theorem setByte_ctl (s : State) (k v : Nat) : (s.setByte k v).ctl = s.ctl := rfl
@[simp] theorem setByte_tally (s : State) (k v : Nat) : (s.setByte k v).tally = s.tally := rfl
@[simp] theorem setByte_snap (s : State) (k v : Nat) : (s.setByte k v).snap = s.snap := rfl
@[simp] theorem setByte_ev (s : State) (k v : Nat) : (s.setByte k v).ev = s.ev := rfl
@[simp] theorem setByte_tiles (s : State) (k v : Nat) : (s.setByte k v).tiles = s.tiles := rfl
@[simp] theorem setByte_xfers (s : State) (k v : Nat) : (s.setByte k v).xfers = s.xfers := rfl
@[simp] theorem setByte_hostReads (s : State) (k v : Nat) : (s.setByte k v).hostReads = s.hostReads := rfl
@[simp] theorem setByte_flash (s : State) (k v : Nat) : (s.setByte k v).flash = s.flash := rfl
@[simp] theorem setByte_remotes (s : State) (k v : Nat) : (s.setByte k v).remotes = s.remotes := rfl
@[simp] theorem setByte_flock (s : State) (k v : Nat) : (s.setByte k v).flock = s.flock := rfl
@[simp] theorem setByte_closeStep (s : State) (k v : Nat) : (s.setByte k v).closeStep = s.closeStep := rfl
@[simp] theorem setByte_closeHeld (s : State) (k v : Nat) : (s.setByte k v).closeHeld = s.closeHeld := rfl
@[simp] theorem setByte_initHeld (s : State) (k v : Nat) : (s.setByte k v).initHeld = s.initHeld := rfl
@[simp] theorem setByte_net (s : State) (k v : Nat) : (s.setByte k v).net = s.net := rfl
@[simp] theorem setByte_ctxs (s : State) (k v : Nat) : (s.setByte k v).ctxs = s.ctxs := rfl
@[simp] theorem setByte_barrier (s : State) (k v : Nat) : (s.setByte k v).barrier = s.barrier := rfl
@[simp] theorem setByte_wave (s : State) (k v : Nat) : (s.setByte k v).wave = s.wave := rfl
@[simp] theorem setByte_shard (s : State) (k v : Nat) : (s.setByte k v).shard = s.shard := rfl
@[simp] theorem setByte_far (s : State) (k v : Nat) : (s.setByte k v).far = s.far := rfl
@[simp] theorem setByte_cip (s : State) (k v : Nat) : (s.setByte k v).cip = s.cip := rfl
@[simp] theorem setByte_isl (s : State) (k v : Nat) : (s.setByte k v).isl = s.isl := rfl
@[simp] theorem setByte_rings (s : State) (k v : Nat) : (s.setByte k v).rings = s.rings := rfl

/-! ### Free values -/

@[simp] theorem takeWord_pending (s : State) : s.takeWord.2.pending = s.pending := rfl
@[simp] theorem takeBool_pending (s : State) : s.takeBool.2.pending = s.pending := rfl
@[simp] theorem takeWord_breach (s : State) : s.takeWord.2.breach = s.breach := rfl
@[simp] theorem takeBool_breach (s : State) : s.takeBool.2.breach = s.breach := rfl
@[simp] theorem takeWord_nextId (s : State) : s.takeWord.2.nextId = s.nextId := rfl
@[simp] theorem takeBool_nextId (s : State) : s.takeBool.2.nextId = s.nextId := rfl
@[simp] theorem takeWord_lineGen (s : State) : s.takeWord.2.lineGen = s.lineGen := rfl
@[simp] theorem takeBool_lineGen (s : State) : s.takeBool.2.lineGen = s.lineGen := rfl
@[simp] theorem takeWord_gen (s : State) : s.takeWord.2.gen = s.gen := rfl
@[simp] theorem takeBool_gen (s : State) : s.takeBool.2.gen = s.gen := rfl
@[simp] theorem takeWord_fuses (s : State) : s.takeWord.2.fuses = s.fuses := rfl
@[simp] theorem takeBool_fuses (s : State) : s.takeBool.2.fuses = s.fuses := rfl
@[simp] theorem takeWord_time (s : State) : s.takeWord.2.time = s.time := rfl
@[simp] theorem takeBool_time (s : State) : s.takeBool.2.time = s.time := rfl
@[simp] theorem takeWord_out (s : State) : s.takeWord.2.out = s.out := rfl
@[simp] theorem takeBool_out (s : State) : s.takeBool.2.out = s.out := rfl
@[simp] theorem takeWord_mem (s : State) : s.takeWord.2.mem = s.mem := rfl
@[simp] theorem takeBool_mem (s : State) : s.takeBool.2.mem = s.mem := rfl
@[simp] theorem takeWord_ctl (s : State) : s.takeWord.2.ctl = s.ctl := rfl
@[simp] theorem takeBool_ctl (s : State) : s.takeBool.2.ctl = s.ctl := rfl
@[simp] theorem takeWord_tally (s : State) : s.takeWord.2.tally = s.tally := rfl
@[simp] theorem takeBool_tally (s : State) : s.takeBool.2.tally = s.tally := rfl
@[simp] theorem takeWord_snap (s : State) : s.takeWord.2.snap = s.snap := rfl
@[simp] theorem takeBool_snap (s : State) : s.takeBool.2.snap = s.snap := rfl
@[simp] theorem takeWord_ev (s : State) : s.takeWord.2.ev = s.ev := rfl
@[simp] theorem takeBool_ev (s : State) : s.takeBool.2.ev = s.ev := rfl
@[simp] theorem takeWord_tiles (s : State) : s.takeWord.2.tiles = s.tiles := rfl
@[simp] theorem takeBool_tiles (s : State) : s.takeBool.2.tiles = s.tiles := rfl
@[simp] theorem takeWord_xfers (s : State) : s.takeWord.2.xfers = s.xfers := rfl
@[simp] theorem takeBool_xfers (s : State) : s.takeBool.2.xfers = s.xfers := rfl
@[simp] theorem takeWord_hostReads (s : State) : s.takeWord.2.hostReads = s.hostReads := rfl
@[simp] theorem takeBool_hostReads (s : State) : s.takeBool.2.hostReads = s.hostReads := rfl
@[simp] theorem takeWord_flash (s : State) : s.takeWord.2.flash = s.flash := rfl
@[simp] theorem takeBool_flash (s : State) : s.takeBool.2.flash = s.flash := rfl
@[simp] theorem takeWord_remotes (s : State) : s.takeWord.2.remotes = s.remotes := rfl
@[simp] theorem takeBool_remotes (s : State) : s.takeBool.2.remotes = s.remotes := rfl
@[simp] theorem takeWord_flock (s : State) : s.takeWord.2.flock = s.flock := rfl
@[simp] theorem takeBool_flock (s : State) : s.takeBool.2.flock = s.flock := rfl
@[simp] theorem takeWord_closeStep (s : State) : s.takeWord.2.closeStep = s.closeStep := rfl
@[simp] theorem takeBool_closeStep (s : State) : s.takeBool.2.closeStep = s.closeStep := rfl
@[simp] theorem takeWord_closeHeld (s : State) : s.takeWord.2.closeHeld = s.closeHeld := rfl
@[simp] theorem takeBool_closeHeld (s : State) : s.takeBool.2.closeHeld = s.closeHeld := rfl
@[simp] theorem takeWord_initHeld (s : State) : s.takeWord.2.initHeld = s.initHeld := rfl
@[simp] theorem takeBool_initHeld (s : State) : s.takeBool.2.initHeld = s.initHeld := rfl
@[simp] theorem takeWord_net (s : State) : s.takeWord.2.net = s.net := rfl
@[simp] theorem takeBool_net (s : State) : s.takeBool.2.net = s.net := rfl
@[simp] theorem takeWord_ctxs (s : State) : s.takeWord.2.ctxs = s.ctxs := rfl
@[simp] theorem takeBool_ctxs (s : State) : s.takeBool.2.ctxs = s.ctxs := rfl
@[simp] theorem takeWord_barrier (s : State) : s.takeWord.2.barrier = s.barrier := rfl
@[simp] theorem takeBool_barrier (s : State) : s.takeBool.2.barrier = s.barrier := rfl
@[simp] theorem takeWord_wave (s : State) : s.takeWord.2.wave = s.wave := rfl
@[simp] theorem takeBool_wave (s : State) : s.takeBool.2.wave = s.wave := rfl
@[simp] theorem takeWord_shard (s : State) : s.takeWord.2.shard = s.shard := rfl
@[simp] theorem takeBool_shard (s : State) : s.takeBool.2.shard = s.shard := rfl
@[simp] theorem takeWord_far (s : State) : s.takeWord.2.far = s.far := rfl
@[simp] theorem takeBool_far (s : State) : s.takeBool.2.far = s.far := rfl
@[simp] theorem takeWord_cip (s : State) : s.takeWord.2.cip = s.cip := rfl
@[simp] theorem takeBool_cip (s : State) : s.takeBool.2.cip = s.cip := rfl
@[simp] theorem takeWord_isl (s : State) : s.takeWord.2.isl = s.isl := rfl
@[simp] theorem takeBool_isl (s : State) : s.takeBool.2.isl = s.isl := rfl
@[simp] theorem takeWord_rings (s : State) : s.takeWord.2.rings = s.rings := rfl
@[simp] theorem takeBool_rings (s : State) : s.takeBool.2.rings = s.rings := rfl

/-! ### setBytes and setLe -/

@[simp] theorem setBytes_pending (s : State) (k : Nat) (l : List Nat) : (s.setBytes k l).pending = s.pending := by
  induction l generalizing s k with
  | nil => rfl
  | cons b r ih => simp [State.setBytes, ih]
@[simp] theorem setLe_pending (s : State) (k n v : Nat) : (s.setLe k n v).pending = s.pending := by simp [State.setLe]
@[simp] theorem setBytes_breach (s : State) (k : Nat) (l : List Nat) : (s.setBytes k l).breach = s.breach := by
  induction l generalizing s k with
  | nil => rfl
  | cons b r ih => simp [State.setBytes, ih]
@[simp] theorem setLe_breach (s : State) (k n v : Nat) : (s.setLe k n v).breach = s.breach := by simp [State.setLe]
@[simp] theorem setBytes_free (s : State) (k : Nat) (l : List Nat) : (s.setBytes k l).free = s.free := by
  induction l generalizing s k with
  | nil => rfl
  | cons b r ih => simp [State.setBytes, ih]
@[simp] theorem setLe_free (s : State) (k n v : Nat) : (s.setLe k n v).free = s.free := by simp [State.setLe]
@[simp] theorem setBytes_nextId (s : State) (k : Nat) (l : List Nat) : (s.setBytes k l).nextId = s.nextId := by
  induction l generalizing s k with
  | nil => rfl
  | cons b r ih => simp [State.setBytes, ih]
@[simp] theorem setLe_nextId (s : State) (k n v : Nat) : (s.setLe k n v).nextId = s.nextId := by simp [State.setLe]
@[simp] theorem setBytes_lineGen (s : State) (k : Nat) (l : List Nat) : (s.setBytes k l).lineGen = s.lineGen := by
  induction l generalizing s k with
  | nil => rfl
  | cons b r ih => simp [State.setBytes, ih]
@[simp] theorem setLe_lineGen (s : State) (k n v : Nat) : (s.setLe k n v).lineGen = s.lineGen := by simp [State.setLe]
@[simp] theorem setBytes_gen (s : State) (k : Nat) (l : List Nat) : (s.setBytes k l).gen = s.gen := by
  induction l generalizing s k with
  | nil => rfl
  | cons b r ih => simp [State.setBytes, ih]
@[simp] theorem setLe_gen (s : State) (k n v : Nat) : (s.setLe k n v).gen = s.gen := by simp [State.setLe]
@[simp] theorem setBytes_fuses (s : State) (k : Nat) (l : List Nat) : (s.setBytes k l).fuses = s.fuses := by
  induction l generalizing s k with
  | nil => rfl
  | cons b r ih => simp [State.setBytes, ih]
@[simp] theorem setLe_fuses (s : State) (k n v : Nat) : (s.setLe k n v).fuses = s.fuses := by simp [State.setLe]
@[simp] theorem setBytes_time (s : State) (k : Nat) (l : List Nat) : (s.setBytes k l).time = s.time := by
  induction l generalizing s k with
  | nil => rfl
  | cons b r ih => simp [State.setBytes, ih]
@[simp] theorem setLe_time (s : State) (k n v : Nat) : (s.setLe k n v).time = s.time := by simp [State.setLe]
@[simp] theorem setBytes_out (s : State) (k : Nat) (l : List Nat) : (s.setBytes k l).out = s.out := by
  induction l generalizing s k with
  | nil => rfl
  | cons b r ih => simp [State.setBytes, ih]
@[simp] theorem setLe_out (s : State) (k n v : Nat) : (s.setLe k n v).out = s.out := by simp [State.setLe]
@[simp] theorem setBytes_ctl (s : State) (k : Nat) (l : List Nat) : (s.setBytes k l).ctl = s.ctl := by
  induction l generalizing s k with
  | nil => rfl
  | cons b r ih => simp [State.setBytes, ih]
@[simp] theorem setLe_ctl (s : State) (k n v : Nat) : (s.setLe k n v).ctl = s.ctl := by simp [State.setLe]
@[simp] theorem setBytes_tally (s : State) (k : Nat) (l : List Nat) : (s.setBytes k l).tally = s.tally := by
  induction l generalizing s k with
  | nil => rfl
  | cons b r ih => simp [State.setBytes, ih]
@[simp] theorem setLe_tally (s : State) (k n v : Nat) : (s.setLe k n v).tally = s.tally := by simp [State.setLe]
@[simp] theorem setBytes_snap (s : State) (k : Nat) (l : List Nat) : (s.setBytes k l).snap = s.snap := by
  induction l generalizing s k with
  | nil => rfl
  | cons b r ih => simp [State.setBytes, ih]
@[simp] theorem setLe_snap (s : State) (k n v : Nat) : (s.setLe k n v).snap = s.snap := by simp [State.setLe]
@[simp] theorem setBytes_ev (s : State) (k : Nat) (l : List Nat) : (s.setBytes k l).ev = s.ev := by
  induction l generalizing s k with
  | nil => rfl
  | cons b r ih => simp [State.setBytes, ih]
@[simp] theorem setLe_ev (s : State) (k n v : Nat) : (s.setLe k n v).ev = s.ev := by simp [State.setLe]
@[simp] theorem setBytes_tiles (s : State) (k : Nat) (l : List Nat) : (s.setBytes k l).tiles = s.tiles := by
  induction l generalizing s k with
  | nil => rfl
  | cons b r ih => simp [State.setBytes, ih]
@[simp] theorem setLe_tiles (s : State) (k n v : Nat) : (s.setLe k n v).tiles = s.tiles := by simp [State.setLe]
@[simp] theorem setBytes_xfers (s : State) (k : Nat) (l : List Nat) : (s.setBytes k l).xfers = s.xfers := by
  induction l generalizing s k with
  | nil => rfl
  | cons b r ih => simp [State.setBytes, ih]
@[simp] theorem setLe_xfers (s : State) (k n v : Nat) : (s.setLe k n v).xfers = s.xfers := by simp [State.setLe]
@[simp] theorem setBytes_hostReads (s : State) (k : Nat) (l : List Nat) : (s.setBytes k l).hostReads = s.hostReads := by
  induction l generalizing s k with
  | nil => rfl
  | cons b r ih => simp [State.setBytes, ih]
@[simp] theorem setLe_hostReads (s : State) (k n v : Nat) : (s.setLe k n v).hostReads = s.hostReads := by simp [State.setLe]
@[simp] theorem setBytes_flash (s : State) (k : Nat) (l : List Nat) : (s.setBytes k l).flash = s.flash := by
  induction l generalizing s k with
  | nil => rfl
  | cons b r ih => simp [State.setBytes, ih]
@[simp] theorem setLe_flash (s : State) (k n v : Nat) : (s.setLe k n v).flash = s.flash := by simp [State.setLe]
@[simp] theorem setBytes_remotes (s : State) (k : Nat) (l : List Nat) : (s.setBytes k l).remotes = s.remotes := by
  induction l generalizing s k with
  | nil => rfl
  | cons b r ih => simp [State.setBytes, ih]
@[simp] theorem setLe_remotes (s : State) (k n v : Nat) : (s.setLe k n v).remotes = s.remotes := by simp [State.setLe]
@[simp] theorem setBytes_flock (s : State) (k : Nat) (l : List Nat) : (s.setBytes k l).flock = s.flock := by
  induction l generalizing s k with
  | nil => rfl
  | cons b r ih => simp [State.setBytes, ih]
@[simp] theorem setLe_flock (s : State) (k n v : Nat) : (s.setLe k n v).flock = s.flock := by simp [State.setLe]
@[simp] theorem setBytes_closeStep (s : State) (k : Nat) (l : List Nat) : (s.setBytes k l).closeStep = s.closeStep := by
  induction l generalizing s k with
  | nil => rfl
  | cons b r ih => simp [State.setBytes, ih]
@[simp] theorem setLe_closeStep (s : State) (k n v : Nat) : (s.setLe k n v).closeStep = s.closeStep := by simp [State.setLe]
@[simp] theorem setBytes_closeHeld (s : State) (k : Nat) (l : List Nat) : (s.setBytes k l).closeHeld = s.closeHeld := by
  induction l generalizing s k with
  | nil => rfl
  | cons b r ih => simp [State.setBytes, ih]
@[simp] theorem setLe_closeHeld (s : State) (k n v : Nat) : (s.setLe k n v).closeHeld = s.closeHeld := by simp [State.setLe]
@[simp] theorem setBytes_initHeld (s : State) (k : Nat) (l : List Nat) : (s.setBytes k l).initHeld = s.initHeld := by
  induction l generalizing s k with
  | nil => rfl
  | cons b r ih => simp [State.setBytes, ih]
@[simp] theorem setLe_initHeld (s : State) (k n v : Nat) : (s.setLe k n v).initHeld = s.initHeld := by simp [State.setLe]
@[simp] theorem setBytes_net (s : State) (k : Nat) (l : List Nat) : (s.setBytes k l).net = s.net := by
  induction l generalizing s k with
  | nil => rfl
  | cons b r ih => simp [State.setBytes, ih]
@[simp] theorem setLe_net (s : State) (k n v : Nat) : (s.setLe k n v).net = s.net := by simp [State.setLe]
@[simp] theorem setBytes_ctxs (s : State) (k : Nat) (l : List Nat) : (s.setBytes k l).ctxs = s.ctxs := by
  induction l generalizing s k with
  | nil => rfl
  | cons b r ih => simp [State.setBytes, ih]
@[simp] theorem setLe_ctxs (s : State) (k n v : Nat) : (s.setLe k n v).ctxs = s.ctxs := by simp [State.setLe]
@[simp] theorem setBytes_barrier (s : State) (k : Nat) (l : List Nat) : (s.setBytes k l).barrier = s.barrier := by
  induction l generalizing s k with
  | nil => rfl
  | cons b r ih => simp [State.setBytes, ih]
@[simp] theorem setLe_barrier (s : State) (k n v : Nat) : (s.setLe k n v).barrier = s.barrier := by simp [State.setLe]
@[simp] theorem setBytes_wave (s : State) (k : Nat) (l : List Nat) : (s.setBytes k l).wave = s.wave := by
  induction l generalizing s k with
  | nil => rfl
  | cons b r ih => simp [State.setBytes, ih]
@[simp] theorem setLe_wave (s : State) (k n v : Nat) : (s.setLe k n v).wave = s.wave := by simp [State.setLe]
@[simp] theorem setBytes_shard (s : State) (k : Nat) (l : List Nat) : (s.setBytes k l).shard = s.shard := by
  induction l generalizing s k with
  | nil => rfl
  | cons b r ih => simp [State.setBytes, ih]
@[simp] theorem setLe_shard (s : State) (k n v : Nat) : (s.setLe k n v).shard = s.shard := by simp [State.setLe]
@[simp] theorem setBytes_far (s : State) (k : Nat) (l : List Nat) : (s.setBytes k l).far = s.far := by
  induction l generalizing s k with
  | nil => rfl
  | cons b r ih => simp [State.setBytes, ih]
@[simp] theorem setLe_far (s : State) (k n v : Nat) : (s.setLe k n v).far = s.far := by simp [State.setLe]
@[simp] theorem setBytes_cip (s : State) (k : Nat) (l : List Nat) : (s.setBytes k l).cip = s.cip := by
  induction l generalizing s k with
  | nil => rfl
  | cons b r ih => simp [State.setBytes, ih]
@[simp] theorem setLe_cip (s : State) (k n v : Nat) : (s.setLe k n v).cip = s.cip := by simp [State.setLe]
@[simp] theorem setBytes_isl (s : State) (k : Nat) (l : List Nat) : (s.setBytes k l).isl = s.isl := by
  induction l generalizing s k with
  | nil => rfl
  | cons b r ih => simp [State.setBytes, ih]
@[simp] theorem setLe_isl (s : State) (k n v : Nat) : (s.setLe k n v).isl = s.isl := by simp [State.setLe]
@[simp] theorem setBytes_rings (s : State) (k : Nat) (l : List Nat) : (s.setBytes k l).rings = s.rings := by
  induction l generalizing s k with
  | nil => rfl
  | cons b r ih => simp [State.setBytes, ih]
@[simp] theorem setLe_rings (s : State) (k n v : Nat) : (s.setLe k n v).rings = s.rings := by simp [State.setLe]

/-! ### Reads after writes -/

@[simp] theorem ctlRaw_setCtl_same (s : State) (o : Nat) (v : Word) : (s.setCtl o v).ctlRaw o = v := by simp [State.ctlRaw, State.setCtl]

theorem ctlRaw_setCtl (s : State) (o j : Nat) (v : Word) : (s.setCtl o v).ctlRaw j = if j = o then v else s.ctlRaw j := by
  simp [State.ctlRaw, State.setCtl, tblGet_set]

theorem ctlRaw_setCtl_other (s : State) {o j : Nat} (v : Word) (h : j ≠ o) : (s.setCtl o v).ctlRaw j = s.ctlRaw j := by
  rw [ctlRaw_setCtl, if_neg h]

theorem ctlRaw_setReg (s : State) (n : RegName) (i : List Nat) (v j : Nat) :
    (s.setReg n i v).ctlRaw j = if j = regOff n i then BitVec.ofNat 64 v else s.ctlRaw j := ctlRaw_setCtl _ _ _ _

theorem ctlRaw_setRf_other (s : State) (n : RegName) (i : List Nat) (lo len v : Nat) {j : Nat} (h : j ≠ regOff n i) :
    (s.setRf n i lo len v).ctlRaw j = s.ctlRaw j := ctlRaw_setCtl_other _ _ h

/-- A register reads back what was written, cut to 64 bits. -/
theorem reg_setReg_same (s : State) (n : RegName) (i : List Nat) (v : Nat) : (s.setReg n i v).reg n i = v % 2 ^ 64 := by
  simp [State.reg, State.setReg]

theorem reg_setReg_other (s : State) {n m : RegName} {i j : List Nat} (v : Nat) (h : regOff m j ≠ regOff n i) :
    (s.setReg n i v).reg m j = s.reg m j := by
  simp [State.reg, State.setReg, ctlRaw_setCtl_other _ _ h]

@[simp] theorem tile_setTile_same (s : State) (t : Nat) (x : Tile) : (s.setTile t x).tile t = x := by simp [State.tile, State.setTile]

theorem tile_setTile (s : State) (t u : Nat) (x : Tile) : (s.setTile t x).tile u = if u = t then x else s.tile u := by
  simp [State.tile, State.setTile, tblGet_set]

theorem tile_setTile_other (s : State) {t u : Nat} (x : Tile) (h : u ≠ t) : (s.setTile t x).tile u = s.tile u := by
  rw [tile_setTile, if_neg h]

theorem byte_setByte (s : State) (k v j : Nat) : (s.setByte k v).byte j = if j = k then v % 256 else s.byte j := by
  have h : (s.setByte k v).mem = tblSet memDefault s.mem k (BitVec.ofNat 8 v) := rfl
  simp only [State.byte, h, tblGet_set]
  split <;> simp

@[simp] theorem byte_setByte_same (s : State) (k v : Nat) : (s.setByte k v).byte k = v % 256 := by rw [byte_setByte, if_pos rfl]

theorem byte_setByte_other (s : State) {k j : Nat} (v : Nat) (h : j ≠ k) : (s.setByte k v).byte j = s.byte j := by
  rw [byte_setByte, if_neg h]

/-- Bytes outside the written range read as before. -/
theorem byte_setBytes_other (s : State) (k : Nat) (l : List Nat) {j : Nat} (h : j < k ∨ k + l.length ≤ j) :
    (s.setBytes k l).byte j = s.byte j := by
  induction l generalizing s k with
  | nil => rfl
  | cons b r ih =>
    simp only [List.length_cons] at h
    rw [State.setBytes, ih _ _ (by omega), byte_setByte_other _ _ (by omega)]

/-- Bytes inside the written range read as written. -/
theorem byte_setBytes_at (s : State) (k : Nat) (l : List Nat) {i : Nat} (h : i < l.length) :
    (s.setBytes k l).byte (k + i) = l[i] % 256 := by
  induction l generalizing s k i with
  | nil => simp at h
  | cons b r ih =>
    rw [State.setBytes]
    cases i with
    | zero => rw [byte_setBytes_other _ _ _ (by omega)]; simp
    | succ i => rw [show k + (i + 1) = k + 1 + i by omega, ih _ _ (by simpa using h)]; simp

@[simp] theorem leBytes_length (n v : Nat) : (leBytes n v).length = n := by
  induction n generalizing v with
  | zero => rfl
  | succ n ih => simp [leBytes, ih]

/-- Little-endian bytes hold their value modulo their size. -/
theorem leVal_leBytes (n v : Nat) : leVal (leBytes n v) = v % 256 ^ n := by
  induction n generalizing v with
  | zero => simp [leBytes, leVal, Nat.mod_one]
  | succ n ih => simp only [leBytes, leVal, ih, Nat.mod_mod]; rw [Nat.pow_succ']; exact Nat.mod_mul.symm

theorem leBytes_lt (n v b : Nat) (h : b ∈ leBytes n v) : b < 256 := by
  induction n generalizing v with
  | zero => simp [leBytes] at h
  | succ n ih =>
    rcases List.mem_cons.1 h with rfl | h
    · exact Nat.mod_lt _ (by decide)
    · exact ih _ h

/-- A little-endian value reads back as written, modulo its size. -/
theorem le_setLe_same (s : State) (k n v : Nat) : (s.setLe k n v).le k n = v % 256 ^ n := by
  have h : (s.setLe k n v).bytes k n = leBytes n v := by
    apply List.ext_getElem
    · simp [State.bytes]
    · intro i h1 h2
      simp only [State.bytes, List.getElem_map, List.getElem_range, State.setLe]
      rw [byte_setBytes_at _ _ _ h2]
      exact Nat.mod_eq_of_lt (leBytes_lt n v _ (List.getElem_mem h2))
  rw [State.le, h, leVal_leBytes]

theorem byte_setLe_other (s : State) (k n v : Nat) {j : Nat} (h : j < k ∨ k + n ≤ j) : (s.setLe k n v).byte j = s.byte j :=
  byte_setBytes_other _ _ _ (by simpa using h)

/-- A value that a range of bytes gives does not change where no byte of it does. -/
theorem bytes_congr {s s' : State} {k n : Nat} (h : ∀ i < n, s'.byte (k + i) = s.byte (k + i)) : s'.bytes k n = s.bytes k n := by
  apply List.map_congr_left
  intro i hi
  exact h i (List.mem_range.1 hi)

theorem le_congr {s s' : State} {k n : Nat} (h : ∀ i < n, s'.byte (k + i) = s.byte (k + i)) : s'.le k n = s.le k n := by
  rw [State.le, State.le, bytes_congr h]

theorem tallyAt_bump (s : State) (o n j : Nat) : (s.tallyBump o n).tallyAt j = if j = o then (s.tallyAt o).add n else s.tallyAt j := by
  simp [State.tallyAt, State.tallyBump, tblGet_set]

/-! ### Accessors of untouched parts -/

@[simp] theorem setCtl_byte (s : State) (o : Nat) (v : Word) (j : Nat) : (s.setCtl o v).byte j = s.byte j := by simp [State.byte]
@[simp] theorem setCtl_tile (s : State) (o : Nat) (v : Word) (u : Nat) : (s.setCtl o v).tile u = s.tile u := by simp [State.tile]
@[simp] theorem setCtl_tallyAt (s : State) (o : Nat) (v : Word) (j : Nat) : (s.setCtl o v).tallyAt j = s.tallyAt j := by simp [State.tallyAt]
@[simp] theorem setReg_byte (s : State) (n : RegName) (i : List Nat) (v : Nat) (j : Nat) : (s.setReg n i v).byte j = s.byte j := by simp [State.byte]
@[simp] theorem setReg_tile (s : State) (n : RegName) (i : List Nat) (v : Nat) (u : Nat) : (s.setReg n i v).tile u = s.tile u := by simp [State.tile]
@[simp] theorem setReg_tallyAt (s : State) (n : RegName) (i : List Nat) (v : Nat) (j : Nat) : (s.setReg n i v).tallyAt j = s.tallyAt j := by simp [State.tallyAt]
@[simp] theorem setRf_byte (s : State) (n : RegName) (i : List Nat) (lo len v : Nat) (j : Nat) : (s.setRf n i lo len v).byte j = s.byte j := by simp [State.byte]
@[simp] theorem setRf_tile (s : State) (n : RegName) (i : List Nat) (lo len v : Nat) (u : Nat) : (s.setRf n i lo len v).tile u = s.tile u := by simp [State.tile]
@[simp] theorem setRf_tallyAt (s : State) (n : RegName) (i : List Nat) (lo len v : Nat) (j : Nat) : (s.setRf n i lo len v).tallyAt j = s.tallyAt j := by simp [State.tallyAt]
@[simp] theorem setTile_ctlRaw (s : State) (t : Nat) (x : Tile) (j : Nat) : (s.setTile t x).ctlRaw j = s.ctlRaw j := by simp [State.ctlRaw]
@[simp] theorem setTile_reg (s : State) (t : Nat) (x : Tile) (m : RegName) (j : List Nat) : (s.setTile t x).reg m j = s.reg m j := by simp [State.reg, State.ctlRaw]
@[simp] theorem setTile_rf (s : State) (t : Nat) (x : Tile) (m : RegName) (j : List Nat) (a b : Nat) : (s.setTile t x).rf m j a b = s.rf m j a b := by simp [State.rf, State.reg, State.ctlRaw]
@[simp] theorem setTile_flag (s : State) (t : Nat) (x : Tile) (m : RegName) (j : List Nat) (a : Nat) : (s.setTile t x).flag m j a = s.flag m j a := by simp [State.flag, State.rf, State.reg, State.ctlRaw]
@[simp] theorem setTile_byte (s : State) (t : Nat) (x : Tile) (j : Nat) : (s.setTile t x).byte j = s.byte j := by simp [State.byte]
@[simp] theorem setTile_tallyAt (s : State) (t : Nat) (x : Tile) (j : Nat) : (s.setTile t x).tallyAt j = s.tallyAt j := by simp [State.tallyAt]
@[simp] theorem tallyBump_ctlRaw (s : State) (o n : Nat) (j : Nat) : (s.tallyBump o n).ctlRaw j = s.ctlRaw j := by simp [State.ctlRaw]
@[simp] theorem tallyBump_reg (s : State) (o n : Nat) (m : RegName) (j : List Nat) : (s.tallyBump o n).reg m j = s.reg m j := by simp [State.reg, State.ctlRaw]
@[simp] theorem tallyBump_rf (s : State) (o n : Nat) (m : RegName) (j : List Nat) (a b : Nat) : (s.tallyBump o n).rf m j a b = s.rf m j a b := by simp [State.rf, State.reg, State.ctlRaw]
@[simp] theorem tallyBump_flag (s : State) (o n : Nat) (m : RegName) (j : List Nat) (a : Nat) : (s.tallyBump o n).flag m j a = s.flag m j a := by simp [State.flag, State.rf, State.reg, State.ctlRaw]
@[simp] theorem tallyBump_byte (s : State) (o n : Nat) (j : Nat) : (s.tallyBump o n).byte j = s.byte j := by simp [State.byte]
@[simp] theorem tallyBump_tile (s : State) (o n : Nat) (u : Nat) : (s.tallyBump o n).tile u = s.tile u := by simp [State.tile]
@[simp] theorem setByte_ctlRaw (s : State) (k w : Nat) (j : Nat) : (s.setByte k w).ctlRaw j = s.ctlRaw j := by simp [State.ctlRaw]
@[simp] theorem setByte_reg (s : State) (k w : Nat) (m : RegName) (j : List Nat) : (s.setByte k w).reg m j = s.reg m j := by simp [State.reg, State.ctlRaw]
@[simp] theorem setByte_rf (s : State) (k w : Nat) (m : RegName) (j : List Nat) (a b : Nat) : (s.setByte k w).rf m j a b = s.rf m j a b := by simp [State.rf, State.reg, State.ctlRaw]
@[simp] theorem setByte_flag (s : State) (k w : Nat) (m : RegName) (j : List Nat) (a : Nat) : (s.setByte k w).flag m j a = s.flag m j a := by simp [State.flag, State.rf, State.reg, State.ctlRaw]
@[simp] theorem setByte_tile (s : State) (k w : Nat) (u : Nat) : (s.setByte k w).tile u = s.tile u := by simp [State.tile]
@[simp] theorem setByte_tallyAt (s : State) (k w : Nat) (j : Nat) : (s.setByte k w).tallyAt j = s.tallyAt j := by simp [State.tallyAt]
@[simp] theorem setBytes_ctlRaw (s : State) (k : Nat) (l : List Nat) (j : Nat) : (s.setBytes k l).ctlRaw j = s.ctlRaw j := by simp [State.ctlRaw]
@[simp] theorem setBytes_reg (s : State) (k : Nat) (l : List Nat) (m : RegName) (j : List Nat) : (s.setBytes k l).reg m j = s.reg m j := by simp [State.reg, State.ctlRaw]
@[simp] theorem setBytes_rf (s : State) (k : Nat) (l : List Nat) (m : RegName) (j : List Nat) (a b : Nat) : (s.setBytes k l).rf m j a b = s.rf m j a b := by simp [State.rf, State.reg, State.ctlRaw]
@[simp] theorem setBytes_flag (s : State) (k : Nat) (l : List Nat) (m : RegName) (j : List Nat) (a : Nat) : (s.setBytes k l).flag m j a = s.flag m j a := by simp [State.flag, State.rf, State.reg, State.ctlRaw]
@[simp] theorem setBytes_tile (s : State) (k : Nat) (l : List Nat) (u : Nat) : (s.setBytes k l).tile u = s.tile u := by simp [State.tile]
@[simp] theorem setBytes_tallyAt (s : State) (k : Nat) (l : List Nat) (j : Nat) : (s.setBytes k l).tallyAt j = s.tallyAt j := by simp [State.tallyAt]
@[simp] theorem setLe_ctlRaw (s : State) (k n v : Nat) (j : Nat) : (s.setLe k n v).ctlRaw j = s.ctlRaw j := by simp [State.ctlRaw]
@[simp] theorem setLe_reg (s : State) (k n v : Nat) (m : RegName) (j : List Nat) : (s.setLe k n v).reg m j = s.reg m j := by simp [State.reg, State.ctlRaw]
@[simp] theorem setLe_rf (s : State) (k n v : Nat) (m : RegName) (j : List Nat) (a b : Nat) : (s.setLe k n v).rf m j a b = s.rf m j a b := by simp [State.rf, State.reg, State.ctlRaw]
@[simp] theorem setLe_flag (s : State) (k n v : Nat) (m : RegName) (j : List Nat) (a : Nat) : (s.setLe k n v).flag m j a = s.flag m j a := by simp [State.flag, State.rf, State.reg, State.ctlRaw]
@[simp] theorem setLe_tile (s : State) (k n v : Nat) (u : Nat) : (s.setLe k n v).tile u = s.tile u := by simp [State.tile]
@[simp] theorem setLe_tallyAt (s : State) (k n v : Nat) (j : Nat) : (s.setLe k n v).tallyAt j = s.tallyAt j := by simp [State.tallyAt]
@[simp] theorem takeWord_ctlRaw (s : State)  (j : Nat) : (s.takeWord.2).ctlRaw j = s.ctlRaw j := by simp [State.ctlRaw]
@[simp] theorem takeWord_reg (s : State)  (m : RegName) (j : List Nat) : (s.takeWord.2).reg m j = s.reg m j := by simp [State.reg, State.ctlRaw]
@[simp] theorem takeWord_rf (s : State)  (m : RegName) (j : List Nat) (a b : Nat) : (s.takeWord.2).rf m j a b = s.rf m j a b := by simp [State.rf, State.reg, State.ctlRaw]
@[simp] theorem takeWord_flag (s : State)  (m : RegName) (j : List Nat) (a : Nat) : (s.takeWord.2).flag m j a = s.flag m j a := by simp [State.flag, State.rf, State.reg, State.ctlRaw]
@[simp] theorem takeWord_byte (s : State)  (j : Nat) : (s.takeWord.2).byte j = s.byte j := by simp [State.byte]
@[simp] theorem takeWord_tile (s : State)  (u : Nat) : (s.takeWord.2).tile u = s.tile u := by simp [State.tile]
@[simp] theorem takeWord_tallyAt (s : State)  (j : Nat) : (s.takeWord.2).tallyAt j = s.tallyAt j := by simp [State.tallyAt]
@[simp] theorem takeBool_ctlRaw (s : State)  (j : Nat) : (s.takeBool.2).ctlRaw j = s.ctlRaw j := by simp [State.ctlRaw]
@[simp] theorem takeBool_reg (s : State)  (m : RegName) (j : List Nat) : (s.takeBool.2).reg m j = s.reg m j := by simp [State.reg, State.ctlRaw]
@[simp] theorem takeBool_rf (s : State)  (m : RegName) (j : List Nat) (a b : Nat) : (s.takeBool.2).rf m j a b = s.rf m j a b := by simp [State.rf, State.reg, State.ctlRaw]
@[simp] theorem takeBool_flag (s : State)  (m : RegName) (j : List Nat) (a : Nat) : (s.takeBool.2).flag m j a = s.flag m j a := by simp [State.flag, State.rf, State.reg, State.ctlRaw]
@[simp] theorem takeBool_byte (s : State)  (j : Nat) : (s.takeBool.2).byte j = s.byte j := by simp [State.byte]
@[simp] theorem takeBool_tile (s : State)  (u : Nat) : (s.takeBool.2).tile u = s.tile u := by simp [State.tile]
@[simp] theorem takeBool_tallyAt (s : State)  (j : Nat) : (s.takeBool.2).tallyAt j = s.tallyAt j := by simp [State.tallyAt]

end Sys2Proof.Laws
end

