-- ==== Sys2Proof/Laws/Fields.lean ====
section
/-!
SUPPORT. The laws of bit fields: a field that was set reads back, every field apart from it reads as before, in a word and in a register.
-/
namespace Sys2Proof.Laws
open Sys2Proof Sys2Proof.Machine

/-- A word cut at a field: what lies below it, the field, what lies above. -/
theorem setBits_parts (w lo len v : Nat) : setBits w lo len v = w % 2 ^ lo + 2 ^ lo * (v % 2 ^ len + 2 ^ len * (w / 2 ^ lo / 2 ^ len)) := by
  have h1 := Nat.div_add_mod w (2 ^ lo)
  have h2 := Nat.div_add_mod (w / 2 ^ lo) (2 ^ len)
  unfold setBits fld
  generalize hq : w / 2 ^ lo = q at *
  generalize ha : 2 ^ lo = a at *
  generalize hb : 2 ^ len = b at *
  have : q % b * a = a * (q % b) := Nat.mul_comm _ _
  have h3 : a * q = a * (q % b) + a * (b * (q / b)) := by rw [← Nat.mul_add]; congr 1; omega
  rw [Nat.mul_add, Nat.mul_comm (v % b) a]
  omega

theorem fld_setBits_same (w lo len v : Nat) : fld (setBits w lo len v) lo len = v % 2 ^ len := by
  rw [setBits_parts]
  unfold fld
  have hp : 0 < 2 ^ lo := Nat.two_pow_pos _
  rw [Nat.add_mul_div_left _ _ hp, Nat.div_eq_of_lt (Nat.mod_lt _ hp), Nat.zero_add, Nat.add_mul_mod_self_left, Nat.mod_mod]

/-- Fields that lie apart do not meet. -/
theorem fld_setBits_apart (w lo len v : Nat) {l n : Nat} (h : l + n ≤ lo ∨ lo + len ≤ l) : fld (setBits w lo len v) l n = fld w l n := by
  rw [setBits_parts]
  unfold fld
  have hp : 0 < 2 ^ lo := Nat.two_pow_pos _
  rcases h with h | h
  · obtain ⟨d, rfl⟩ := Nat.exists_eq_add_of_le h
    have e : w % 2 ^ (l + n + d) + 2 ^ (l + n + d) * (v % 2 ^ len + 2 ^ len * (w / 2 ^ (l + n + d) / 2 ^ len)) =
        w % 2 ^ (l + n + d) + 2 ^ l * (2 ^ n * (2 ^ d * (v % 2 ^ len + 2 ^ len * (w / 2 ^ (l + n + d) / 2 ^ len)))) := by
      rw [Nat.pow_add, Nat.pow_add]; simp only [Nat.mul_assoc]
    rw [e, Nat.add_mul_div_left _ _ (Nat.two_pow_pos _), Nat.add_mul_mod_self_left]
    rw [show l + n + d = l + (n + d) by omega, Nat.pow_add, Nat.mod_mul_right_div_self, Nat.pow_add]
    exact Nat.mod_mul_right_mod _ _ _
  · obtain ⟨d, rfl⟩ := Nat.exists_eq_add_of_le h
    rw [Nat.pow_add, Nat.pow_add, ← Nat.div_div_eq_div_mul, ← Nat.div_div_eq_div_mul, ← Nat.div_div_eq_div_mul, ← Nat.div_div_eq_div_mul]
    rw [Nat.add_mul_div_left _ _ hp, Nat.div_eq_of_lt (Nat.mod_lt _ hp), Nat.zero_add, Nat.add_mul_div_left _ _ (Nat.two_pow_pos _), Nat.div_eq_of_lt (Nat.mod_lt _ (Nat.two_pow_pos _)), Nat.zero_add]

theorem setBits_lt {w lo len v k : Nat} (hw : w < 2 ^ k) (hl : lo + len ≤ k) : setBits w lo len v < 2 ^ k := by
  rw [setBits_parts]
  obtain ⟨d, rfl⟩ := Nat.exists_eq_add_of_le hl
  have h1 : w / 2 ^ lo / 2 ^ len < 2 ^ d := by
    rw [Nat.div_div_eq_div_mul, ← Nat.pow_add]
    exact Nat.div_lt_of_lt_mul (by rw [← Nat.pow_add]; exact hw)
  have h2 : w % 2 ^ lo < 2 ^ lo := Nat.mod_lt _ (Nat.two_pow_pos _)
  have h3 : v % 2 ^ len < 2 ^ len := Nat.mod_lt _ (Nat.two_pow_pos _)
  have h4 : v % 2 ^ len + 2 ^ len * (w / 2 ^ lo / 2 ^ len) < 2 ^ (len + d) := by
    rw [Nat.pow_add]
    calc v % 2 ^ len + 2 ^ len * (w / 2 ^ lo / 2 ^ len) < 2 ^ len + 2 ^ len * (w / 2 ^ lo / 2 ^ len) := by omega
      _ = 2 ^ len * (w / 2 ^ lo / 2 ^ len + 1) := by rw [Nat.mul_succ, Nat.add_comm]
      _ ≤ 2 ^ len * 2 ^ d := Nat.mul_le_mul_left _ h1
  rw [Nat.add_assoc, Nat.pow_add]
  calc w % 2 ^ lo + 2 ^ lo * (v % 2 ^ len + 2 ^ len * (w / 2 ^ lo / 2 ^ len)) < 2 ^ lo + 2 ^ lo * (v % 2 ^ len + 2 ^ len * (w / 2 ^ lo / 2 ^ len)) := by omega
    _ = 2 ^ lo * (v % 2 ^ len + 2 ^ len * (w / 2 ^ lo / 2 ^ len) + 1) := by rw [Nat.mul_succ, Nat.add_comm]
    _ ≤ 2 ^ lo * 2 ^ (len + d) := Nat.mul_le_mul_left _ h4

theorem reg_lt (s : State) (n : RegName) (i : List Nat) : s.reg n i < 2 ^ 64 := (s.ctlRaw _).isLt

/-- A register after one of its fields was set. -/
theorem reg_setRf_same (s : State) (n : RegName) (i : List Nat) {lo len : Nat} (v : Nat) (h : lo + len ≤ 64) : (s.setRf n i lo len v).reg n i = setBits (s.reg n i) lo len v := by
  unfold State.setRf
  rw [reg_setReg_same, Nat.mod_eq_of_lt (setBits_lt (reg_lt _ _ _) h)]
theorem reg_setRf_other (s : State) {n m : RegName} {i j : List Nat} (lo len v : Nat) (h : regOff m j ≠ regOff n i) : (s.setRf n i lo len v).reg m j = s.reg m j :=
  reg_setReg_other _ _ h

/-- A field that was set reads back what was written, cut to its width. -/
theorem rf_setRf_same (s : State) (n : RegName) (i : List Nat) {lo len : Nat} (v : Nat) (h : lo + len ≤ 64) : (s.setRf n i lo len v).rf n i lo len = v % 2 ^ len := by
  unfold State.rf
  rw [reg_setRf_same _ _ _ _ h, fld_setBits_same]
/-- Other fields of the register read as before. -/
theorem rf_setRf_apart (s : State) (n : RegName) (i : List Nat) {lo len l k : Nat} (v : Nat) (h : lo + len ≤ 64) (ha : l + k ≤ lo ∨ lo + len ≤ l) : (s.setRf n i lo len v).rf n i l k = s.rf n i l k := by
  unfold State.rf
  rw [reg_setRf_same _ _ _ _ h, fld_setBits_apart _ _ _ _ ha]
/-- Fields of other registers read as before. -/
theorem rf_setRf_other (s : State) {n m : RegName} {i j : List Nat} (lo len v l k : Nat) (h : regOff m j ≠ regOff n i) : (s.setRf n i lo len v).rf m j l k = s.rf m j l k := by
  unfold State.rf
  rw [reg_setRf_other _ _ _ _ h]
theorem rf_setReg_other (s : State) {n m : RegName} {i j : List Nat} (v l k : Nat) (h : regOff m j ≠ regOff n i) : (s.setReg n i v).rf m j l k = s.rf m j l k := by
  unfold State.rf
  rw [reg_setReg_other _ _ h]
theorem rf_setReg_same (s : State) (n : RegName) (i : List Nat) (v l k : Nat) : (s.setReg n i v).rf n i l k = fld (v % 2 ^ 64) l k := by
  unfold State.rf
  rw [reg_setReg_same]

theorem flag_setRf_same (s : State) (n : RegName) (i : List Nat) {b : Nat} (v : Nat) (h : b < 64) : (s.setRf n i b 1 v).flag n i b = (v % 2 == 1) := by
  unfold State.flag
  rw [rf_setRf_same _ _ _ _ (by omega), Nat.pow_one]
theorem flag_setRf_apart (s : State) (n : RegName) (i : List Nat) {lo len b : Nat} (v : Nat) (h : lo + len ≤ 64) (ha : b < lo ∨ lo + len ≤ b) : (s.setRf n i lo len v).flag n i b = s.flag n i b := by
  unfold State.flag
  rw [rf_setRf_apart _ _ _ _ h (by omega)]
theorem flag_setRf_other (s : State) {n m : RegName} {i j : List Nat} (lo len v b : Nat) (h : regOff m j ≠ regOff n i) : (s.setRf n i lo len v).flag m j b = s.flag m j b := by
  unfold State.flag
  rw [rf_setRf_other _ _ _ _ _ _ h]

/-- A change of the register file only, in one register. -/
theorem setRf_frame (s : State) (n : RegName) (i : List Nat) (lo len v : Nat) : s.setRf n i lo len v = { s with ctl := (s.setRf n i lo len v).ctl } := rfl
theorem setReg_frame (s : State) (n : RegName) (i : List Nat) (v : Nat) : s.setReg n i v = { s with ctl := (s.setReg n i v).ctl } := rfl

end Sys2Proof.Laws
end

