-- ==== Sys2Proof/Laws/Host.lean ====
section
/-!
SUPPORT. What a write of a register over a host port comes to: the register's own effect, and what waits in the outbox after it.
-/
namespace Sys2Proof.Laws
open Sys2Proof Sys2Proof.Machine

/-- A write that reaches its register: the register's effect, then the outbox. -/
theorem hostWrite_eq {s : State} {port : Nat} {n : RegName} {idx : List Nat} {acc : Acc} {v : Nat} (hr : regFind (regOff n idx) = some (n, idx))
    (h : HostOpen port n idx acc v s) : s.hostWrite port (regOff n idx) acc v = (s.regWrite port n idx acc v).andThen State.flush := by
  unfold State.hostWrite State.ctlWrite
  rw [if_pos h.up, if_neg h.size, hr]
  dsimp only
  rw [if_neg (by rintro ⟨a, b⟩; rcases h.ready with r | r <;> simp_all), if_neg (by simpa using h.reserved)]

/-- With nothing to send and no undefined case met, the end of a command answers the state. -/
theorem flush_none (s : State) (h : Unsent s) : s.flush = .next s := by
  obtain ⟨h1, h2, h3⟩ := h
  unfold State.flush; unfold State.flushGo; rw [h1]
  simp only [State.arbitrate, h2, State.done, h3]

end Sys2Proof.Laws
end

