-- ==== Sys2Proof/Laws/Ops.lean ====
section
/-!
SUPPORT. One lemma per shared operation on what it may move: events, tallies, faults, tokens, deposits, the instruction cache; and that each keeps
the canonical forms.
-/
namespace Sys2Proof.Machine
open Sys2Proof.Laws

/-! ### Frames compose -/

theorem Quiet.refl (r ts : List Nat) (s : State) : Quiet r ts s s := ⟨rfl, fun _ _ => rfl, fun _ _ _ => rfl, fun _ _ _ => rfl⟩

theorem Quiet.trans {r ts : List Nat} {a b c : State} (h : Quiet r ts a b) (g : Quiet r ts b c) : Quiet r ts a c where
  rest := by rw [g.rest, h.rest]
  mem k hk := (g.mem k hk).trans (h.mem k hk)
  ctl o h1 h2 := (g.ctl o h1 h2).trans (h.ctl o h1 h2)
  tally o h1 h2 := (g.tally o h1 h2).trans (h.tally o h1 h2)

theorem Quiet.mono {r r' ts ts' : List Nat} {a b : State} (h : Quiet r ts a b) (hr : ∀ x ∈ r, x ∈ r') (ht : ∀ x ∈ ts, x ∈ ts') :
    Quiet r' ts' a b :=
  ⟨h.rest, h.mem, fun o h1 h2 => h.ctl o h1 (fun h3 => h2 (hr o h3)), fun o h1 h2 => h.tally o h1 (fun h3 => h2 (ht o h3))⟩

theorem Quiet.of_nil {r ts : List Nat} {a b : State} (h : Quiet [] [] a b) : Quiet r ts a b :=
  h.mono (fun _ h => absurd h List.not_mem_nil) (fun _ h => absurd h List.not_mem_nil)

theorem Quiet.tiles {r ts : List Nat} {a b : State} (h : Quiet r ts a b) : b.tiles = a.tiles := by rw [h.rest]
theorem Quiet.tile {r ts : List Nat} {a b : State} (h : Quiet r ts a b) (t : Nat) : b.tile t = a.tile t := by simp [State.tile, h.tiles]

theorem Quiet.ev {r ts : List Nat} (s : State) (e : EvUnit) : Quiet r ts s { s with ev := e } :=
  ⟨rfl, fun _ _ => rfl, fun _ _ _ => rfl, fun _ _ _ => rfl⟩

theorem Quiet.out {r ts : List Nat} (s : State) (e : List Out) : Quiet r ts s { s with out := e } :=
  ⟨rfl, fun _ _ => rfl, fun _ _ _ => rfl, fun _ _ _ => rfl⟩

theorem Quiet.setCtl {r ts : List Nat} (s : State) (o : Nat) (v : Word) (h : o ∈ eventRegs ∨ o ∈ r) : Quiet r ts s (s.setCtl o v) :=
  ⟨rfl, fun _ _ => rfl, fun j h1 h2 => ctlRaw_setCtl_other _ _ (fun e => by subst e; exact h.elim h1 h2), fun _ _ _ => rfl⟩

theorem Quiet.setReg {r ts : List Nat} (s : State) (n : RegName) (i : List Nat) (v : Nat) (h : regOff n i ∈ eventRegs ∨ regOff n i ∈ r) :
    Quiet r ts s (s.setReg n i v) := Quiet.setCtl s _ _ h

theorem Quiet.setRf {r ts : List Nat} (s : State) (n : RegName) (i : List Nat) (lo len v : Nat) (h : regOff n i ∈ eventRegs ∨ regOff n i ∈ r) :
    Quiet r ts s (s.setRf n i lo len v) := Quiet.setCtl s _ _ h

theorem Quiet.tallyBump {r ts : List Nat} (s : State) (o n : Nat) (h : o = regOff .evtLost [] ∨ o ∈ ts) : Quiet r ts s (s.tallyBump o n) :=
  ⟨rfl, fun _ _ => rfl, fun _ _ _ => rfl, fun j h1 h2 => by
    rw [tallyAt_bump, if_neg]; intro e; subst e; exact h.elim h1 h2⟩

theorem setByte_rest (s : State) (k v : Nat) : s.setByte k v = { s with mem := (s.setByte k v).mem } := rfl

theorem Quiet.setByte {r ts : List Nat} (s : State) (k v : Nat) (h : 2 ^ 64 ≤ k ∧ k < 2 ^ 66) : Quiet r ts s (s.setByte k v) where
  rest := setByte_rest s k v
  mem j hj := byte_setByte_other _ _ (by rcases hj with hj | hj <;> omega)
  ctl _ _ _ := by simp
  tally _ _ _ := by simp

theorem Quiet.setBytes {r ts : List Nat} (s : State) (k : Nat) (l : List Nat) (h : 2 ^ 64 ≤ k ∧ k + l.length ≤ 2 ^ 66) :
    Quiet r ts s (s.setBytes k l) := by
  induction l generalizing s k with
  | nil => exact Quiet.refl _ _ _
  | cons b l ih =>
    simp only [List.length_cons] at h
    exact (Quiet.setByte s k b (by omega)).trans (ih _ _ (by omega))

theorem hostKey_bounds (a : Nat) : 2 ^ 64 ≤ hostKey a ∧ hostKey a < 2 ^ 65 := by
  unfold hostKey; have := Nat.mod_lt a (show 0 < 2 ^ 64 by decide); constructor <;> omega

/-! ### Events and tallies -/

theorem msixMessage_quiet (s : State) (p v : Nat) : Quiet [] [] s (s.msixMessage p v) := by
  unfold State.msixMessage; dsimp only
  have h : ∀ u, Quiet [] [] s u → Quiet [] [] s (if (u.rf .evtModerate [] 0 16 = 0 || u.ev.holdoff.any (fun h => h.1 == v)) = true then u
      else { u with ev := { u.ev with holdoff := u.ev.holdoff ++ [(v, false)] } }) := by
    intro u hu; split
    · exact hu
    · exact hu.trans (Quiet.ev _ _)
  refine h _ ?_
  split
  · exact Quiet.refl _ _ _
  · exact Quiet.out _ _

theorem sendMsix_quiet (s : State) (v : Nat) : Quiet [] [] s (s.sendMsix v) := by
  unfold State.sendMsix; dsimp only
  split
  · exact Quiet.refl _ _ _
  · split
    · split
      · exact Quiet.refl _ _ _
      · exact Quiet.ev _ _
    · exact msixMessage_quiet _ _ _

theorem recordMsix_quiet (s : State) (c i : Nat) : Quiet [] [] s (s.recordMsix c i) := by
  unfold State.recordMsix; dsimp only
  split
  · exact Quiet.ev _ _
  · exact sendMsix_quiet _ _

theorem rec_bytes_length (r : EvRec) (p : Nat) : (r.bytes p).length = 32 := by simp [EvRec.bytes]

theorem writeRec_quiet (s : State) (r : EvRec) : Quiet [] [] s (s.writeRec r) := by
  unfold State.writeRec; dsimp only
  refine Quiet.trans ?_ (recordMsix_quiet _ _ _)
  refine Quiet.trans ?_ (Quiet.setReg _ _ _ _ (Or.inl (by simp [eventRegs])))
  refine Quiet.trans ?_ (Quiet.ev _ _)
  split
  · exact Quiet.refl _ _ _
  refine Quiet.setBytes _ _ _ ⟨(hostKey_bounds _).1, ?_⟩
  rw [rec_bytes_length]
  have := (hostKey_bounds (s.reg .evtRingBase [] + 32 * (s.rf .evtRingTail [] 0 32 % 2 ^ s.rf .evtRingCtrl [] 16 5))).2
  omega

theorem discard_quiet (s : State) (n : Nat) : Quiet [] [] s (s.discard n) := by
  unfold State.discard; dsimp only
  refine Quiet.trans ?_ (Quiet.tallyBump _ _ _ (Or.inl rfl))
  exact (Quiet.ev _ _).trans (Quiet.setRf _ _ _ _ _ _ (Or.inl (by simp [eventRegs])))

theorem drainRing_quiet (k : Nat) (s : State) : Quiet [] [] s (s.drainRing k) := by
  induction k generalizing s with
  | zero => exact Quiet.refl _ _ _
  | succ k ih =>
    unfold State.drainRing; dsimp only
    split
    · split
      · exact ((Quiet.ev _ _).trans (writeRec_quiet _ _)).trans (ih _)
      · split
        · exact Quiet.refl _ _ _
        · exact ((Quiet.ev _ _).trans (writeRec_quiet _ _)).trans (ih _)
    · exact Quiet.refl _ _ _

theorem emit_quiet (s : State) (r : EvRec) : Quiet [] [] s (s.emit r) := by
  unfold State.emit
  split
  · exact Quiet.refl _ _ _
  · split
    · exact discard_quiet _ _
    · exact (Quiet.ev _ _).trans (drainRing_quiet _ _)

/-- An event moves only the event unit, host memory, the messages, the ring's registers and EVT.LOST (R478-R482). -/
theorem raise_quiet (s : State) (c d k i a b : Nat) : Quiet [] [] s (s.raise c d k i a b) := by
  unfold State.raise; dsimp only
  split
  · exact (emit_quiet _ _).trans (emit_quiet _ _)
  · exact emit_quiet _ _

theorem raiseTile_quiet (s : State) (t c d a : Nat) : Quiet [] [] s (s.raiseTile t c d a) := raise_quiet _ _ _ _ _ _ _

theorem raiseBy_quiet (s : State) (b : Issuer) (c : Nat) : Quiet [] [] s (s.raiseBy b c) := by
  cases b <;> exact raise_quiet _ _ _ _ _ _ _

/-- A tally's increment moves that tally and what an event moves (R489). -/
theorem tallyAdd_quiet (s : State) (o n : Nat) : Quiet [] [o] s (s.tallyAdd o n) := by
  unfold State.tallyAdd; dsimp only
  split
  · exact (Quiet.tallyBump _ _ _ (Or.inr (by simp))).trans (raise_quiet _ _ _ _ _ _ _).of_nil
  · exact Quiet.tallyBump _ _ _ (Or.inr (by simp))

/-- An address fault moves ID.ADDR_FAULT and what an event moves (R55). -/
theorem addrFault_quiet (s : State) (b : Issuer) (da k : Nat) : Quiet [regOff .idAddrFault []] [] s (s.addrFault b da k) := by
  unfold State.addrFault; dsimp only
  refine Quiet.trans ?_ (raiseBy_quiet _ _ _).of_nil
  split
  · exact Quiet.setRf _ _ _ _ _ _ (Or.inr (by simp))
  · exact Quiet.setReg _ _ _ _ (Or.inr (by simp))

theorem recordFaults_quiet (s : State) (b : Issuer) (w : Bool) (l : List Nat) :
    Quiet [regOff .idAddrFault []] [] s (s.recordFaults b w l) := by
  unfold State.recordFaults
  split
  · exact addrFault_quiet _ _ _ _
  · exact Quiet.refl _ _ _

/-- A host fault moves DRV.HOST_FAULT and what an event moves (R285). -/
theorem hostFault_quiet (s : State) (b o : Nat) : Quiet [regOff .drvHostFault []] [] s (s.hostFault b o) := by
  unfold State.hostFault; dsimp only
  refine Quiet.trans ?_ (raise_quiet _ _ _ _ _ _ _).of_nil
  split
  · exact Quiet.setRf _ _ _ _ _ _ (Or.inr (by simp))
  · exact Quiet.setReg _ _ _ _ (Or.inr (by simp))

/-! ### One tile at work -/

theorem TileOnly.refl (t : Nat) (w : Nat → Prop) (r ts : List Nat) (s : State) : TileOnly t w r ts s s :=
  ⟨rfl, fun _ _ => rfl, fun _ _ _ => rfl, fun _ _ _ => rfl, fun _ _ _ => rfl⟩

theorem TileOnly.trans {t : Nat} {w : Nat → Prop} {r ts : List Nat} {a b c : State} (h : TileOnly t w r ts a b) (g : TileOnly t w r ts b c) :
    TileOnly t w r ts a c where
  rest := by rw [g.rest, h.rest]
  tiles u hu := (g.tiles u hu).trans (h.tiles u hu)
  mem k h1 h2 := (g.mem k h1 h2).trans (h.mem k h1 h2)
  ctl o h1 h2 := (g.ctl o h1 h2).trans (h.ctl o h1 h2)
  tally o h1 h2 := (g.tally o h1 h2).trans (h.tally o h1 h2)

theorem TileOnly.mono {t : Nat} {w w' : Nat → Prop} {r r' ts ts' : List Nat} {a b : State} (h : TileOnly t w r ts a b)
    (hw : ∀ k, w k → w' k) (hr : ∀ x ∈ r, x ∈ r') (ht : ∀ x ∈ ts, x ∈ ts') : TileOnly t w' r' ts' a b :=
  ⟨h.rest, h.tiles, fun k h1 h2 => h.mem k h1 (fun h3 => h2 (hw k h3)), fun o h1 h2 => h.ctl o h1 (fun h3 => h2 (hr o h3)),
    fun o h1 h2 => h.tally o h1 (fun h3 => h2 (ht o h3))⟩

theorem Quiet.tileOnly {r ts : List Nat} {a b : State} (h : Quiet r ts a b) (t : Nat) (w : Nat → Prop) : TileOnly t w r ts a b where
  rest := by rw [h.rest]
  tiles u _ := h.tile u
  mem k h1 _ := h.mem k h1
  ctl := h.ctl
  tally := h.tally

theorem TileOnly.setTile (s : State) (t : Nat) (w : Nat → Prop) (r ts : List Nat) (x : Tile) : TileOnly t w r ts s (s.setTile t x) :=
  ⟨rfl, fun _ hu => tile_setTile_other _ _ hu, fun _ _ _ => rfl, fun _ _ _ => rfl, fun _ _ _ => rfl⟩

theorem TileOnly.free (s : State) (t : Nat) (w : Nat → Prop) (r ts : List Nat) (n : Nat) : TileOnly t w r ts s { s with free := n } :=
  ⟨rfl, fun _ _ => rfl, fun _ _ _ => rfl, fun _ _ _ => rfl, fun _ _ _ => rfl⟩

theorem TileOnly.setByte (s : State) (t : Nat) (w : Nat → Prop) (r ts : List Nat) (k v : Nat) (h : w k) : TileOnly t w r ts s (s.setByte k v) where
  rest := rfl
  tiles _ _ := by simp
  mem j _ hj := byte_setByte_other _ _ (fun e => by subst e; exact hj h)
  ctl _ _ _ := by simp
  tally _ _ _ := by simp

theorem TileOnly.setBytes (s : State) (t : Nat) (w : Nat → Prop) (r ts : List Nat) (k : Nat) (l : List Nat) (h : ∀ i < l.length, w (k + i)) :
    TileOnly t w r ts s (s.setBytes k l) := by
  induction l generalizing s k with
  | nil => exact TileOnly.refl _ _ _ _ _
  | cons b l ih =>
    simp only [List.length_cons] at h
    refine (TileOnly.setByte s t w r ts k b (h 0 (by omega))).trans (ih _ _ (fun i hi => ?_))
    have := h (i + 1) (by omega)
    rwa [show k + 1 + i = k + (i + 1) by omega]

/-- Adding to a token moves its tile and what an event moves (R131, R134). -/
theorem addToken_only (s : State) (t k n : Nat) (w : Nat → Prop) : TileOnly t w [] [] s (s.addToken t k n) := by
  unfold State.addToken; dsimp only
  split
  · exact TileOnly.refl _ _ _ _ _
  · split
    · exact TileOnly.setTile _ _ _ _ _ _
    · exact (TileOnly.setTile _ _ _ _ _ _).trans ((raiseTile_quiet _ _ _ _ _).tileOnly _ _)

theorem signal_only (s : State) (t k : Nat) (w : Nat → Prop) : TileOnly t w [] [] s (s.signal t k) := addToken_only _ _ _ _ _

theorem readUnder_only (s : State) (t r : Nat) (v : Word) (l : List Flight) (w : Nat → Prop) :
    TileOnly t w [] [] s (s.readUnder r v l).2 := by
  induction l generalizing s v with
  | nil => exact TileOnly.refl _ _ _ _ _
  | cons f fs ih =>
    unfold State.readUnder
    split
    · dsimp only [State.takeBool]
      exact (TileOnly.free _ _ _ _ _ _).trans (ih _ _)
    · exact ih _ _

/-- A sequencer read takes free values at most (R138). -/
theorem readS_only (s : State) (t r : Nat) (w : Nat → Prop) : TileOnly t w [] [] s (s.readS t r).2 := by
  unfold State.readS
  split
  · exact TileOnly.refl _ _ _ _ _
  · exact readUnder_only _ _ _ _ _ _

/-- A read moves only the counter of free values. -/
theorem readUnder_eq (s : State) (r : Nat) (v : Word) (l : List Flight) : ∃ n, (s.readUnder r v l).2 = { s with free := n } := by
  induction l generalizing s v with
  | nil => exact ⟨s.free, rfl⟩
  | cons f fs ih =>
    unfold State.readUnder
    split
    · dsimp only [State.takeBool]
      obtain ⟨n, h⟩ := ih { s with free := s.free + 1 } (if Config.freeBool s.free = true then f.dep else v)
      exact ⟨n, by rw [h]⟩
    · exact ih _ _

theorem readS_eq (s : State) (t r : Nat) : ∃ n, (s.readS t r).2 = { s with free := n } := by
  unfold State.readS
  split
  · exact ⟨s.free, rfl⟩
  · exact readUnder_eq _ _ _ _

/-- A read depends on the state through the counter of free values alone, and moves nothing else. -/
theorem readUnder_free (s s' : State) (h : s'.free = s.free) (r : Nat) (v : Word) (l : List Flight) :
    s'.readUnder r v l = ((s.readUnder r v l).1, { s' with free := (s.readUnder r v l).2.free }) := by
  induction l generalizing s s' v with
  | nil => simp only [State.readUnder, ← h]
  | cons f fs ih =>
    have e1 := ih { s with free := s.free + 1 } { s' with free := s'.free + 1 } (by simp [h])
    unfold State.readUnder
    by_cases hf : f.sdst = r ∧ f.hasDep = true
    · rw [if_pos hf, if_pos hf]
      dsimp only [State.takeBool]
      rw [h]
      rw [← h, e1, h]
    · rw [if_neg hf, if_neg hf]; exact ih s s' h v

/-- What a read gives where the register, the flights and the counter are the same. -/
theorem readS_congr (s s' : State) (t r : Nat) (h : s'.free = s.free) (hs : (s'.tile t).s = (s.tile t).s) (hf : (s'.tile t).flights = (s.tile t).flights) :
    s'.readS t r = ((s.readS t r).1, { s' with free := (s.readS t r).2.free }) := by
  unfold State.readS
  by_cases hr : r = 0
  · simp only [hr, if_true, ← h]
  · simp only [hr, if_false, hf, Tile.sreg, hs]
    exact readUnder_free s s' h _ _ _

/-- Without a pending deposit into the register, a read takes the register's value (R118, R138). -/
theorem readUnder_none (s : State) (r : Nat) (v : Word) (l : List Flight) (h : ∀ f ∈ l, f.sdst ≠ r) : s.readUnder r v l = (v, s) := by
  induction l with
  | nil => rfl
  | cons f fs ih =>
    unfold State.readUnder
    rw [if_neg (fun e => h f (by simp) e.1)]
    exact ih (fun g hg => h g (by simp [hg]))

theorem readS_none (s : State) (t r : Nat) (h : ∀ f ∈ (s.tile t).flights, f.sdst ≠ r) : s.readS t r = ((s.tile t).sreg r, s) := by
  unfold State.readS
  split
  · subst r; simp [Tile.sreg]
  · exact readUnder_none _ _ _ _ h

theorem writeS_only (s : State) (t r : Nat) (v : Word) (w : Nat → Prop) : TileOnly t w [] [] s (s.writeS t r v) := by
  unfold State.writeS; exact TileOnly.setTile _ _ _ _ _ _

theorem deposit_only (s : State) (t : Nat) (f : Flight) (w : Nat → Prop) : TileOnly t w [] [] s (s.deposit t f) := by
  unfold State.deposit
  split
  · exact TileOnly.refl _ _ _ _ _
  · split
    · dsimp only [State.takeBool]
      split
      · exact (TileOnly.free _ _ _ _ _ _).trans (TileOnly.setTile _ _ _ _ _ _)
      · exact TileOnly.free _ _ _ _ _ _
    · exact TileOnly.setTile _ _ _ _ _ _

/-- A completion moves its tile and what an event moves (R131, R137). -/
theorem complete_only (s : State) (t : Nat) (f : Flight) (w : Nat → Prop) : TileOnly t w [] [] s (s.complete t f) :=
  (deposit_only _ _ _ _).trans (signal_only _ _ _ _)

theorem addFlight_only (s : State) (t : Nat) (f : Flight) (w : Nat → Prop) : TileOnly t w [] [] s (s.addFlight t f) :=
  TileOnly.setTile _ _ _ _ _ _

theorem nil_sub {l : List Nat} : ∀ x ∈ ([] : List Nat), x ∈ l := fun _ h => absurd h List.not_mem_nil

theorem TileOnly.of_nil {t : Nat} {w : Nat → Prop} {r ts : List Nat} {a b : State} (h : TileOnly t w [] [] a b) : TileOnly t w r ts a b :=
  h.mono (fun _ h => h) nil_sub nil_sub

theorem fetchFaultAt_only (s : State) (t l : Nat) (w : Nat → Prop) : TileOnly t w [regOff .idAddrFault []] [] s (s.fetchFaultAt t l) := by
  unfold State.fetchFaultAt; dsimp only
  refine TileOnly.trans (TileOnly.trans ?_ (TileOnly.setTile _ _ _ _ _ _)) ((raiseTile_quiet _ _ _ _ _).tileOnly _ _).of_nil
  split
  · exact (addrFault_quiet _ _ _ _).tileOnly _ _
  · exact TileOnly.refl _ _ _ _ _

theorem nextLine_only (s : State) (t l : Nat) (w : Nat → Prop) : TileOnly t w [] [] s (s.nextLine t l) := by
  unfold State.nextLine; dsimp only
  split
  · exact TileOnly.refl _ _ _ _ _
  · exact TileOnly.setTile _ _ _ _ _ _

/-- Moving the program counter moves the tile, ID.ADDR_FAULT and what an event moves (R166, R169). -/
theorem seek_only (s s' : State) (t pc : Nat) (w : Nat → Prop) (h : s.seek t pc = .next s') : TileOnly t w [regOff .idAddrFault []] [] s s' := by
  unfold State.seek at h; dsimp only at h
  split at h
  · simp [ub] at h
  · split at h
    · cases h; exact TileOnly.setTile _ _ _ _ _ _
    · split at h
      · cases h; exact (TileOnly.setTile _ _ _ _ _ _).trans (fetchFaultAt_only _ _ _ _)
      · cases h
        exact ((TileOnly.setTile _ _ _ _ _ _).trans (TileOnly.setTile _ _ _ _ _ _)).trans (nextLine_only _ _ _ _).of_nil

end Sys2Proof.Machine
end

