-- ==== Sys2Proof/Laws/RegMap.lean ====
section
/-!
SUPPORT. The register map is one to one: each register, under each of its indices, is what a search at its offset finds.
-/
namespace Sys2Proof.Laws
open Sys2Proof

/-- Indices that a register has. -/
def idxOk : List (Nat × Nat) → Nat → List Nat → Prop
  | [], _, [] => True
  | (_, c) :: ds, lo, i :: is => i < c ∧ (ds = [] → lo ≤ i) ∧ idxOk ds lo is
  | _, _, _ => False

/-- One more than the largest distance from a register's base. -/
def regSpan : List (Nat × Nat) → Nat
  | [] => 1
  | (s, c) :: ds => s * (c - 1) + regSpan ds

/-- Each inner array fits into the outer stride. -/
def regNested : List (Nat × Nat) → Bool
  | [] => true
  | (s, c) :: ds => 0 < s && regSpan ds ≤ s && regNested ds

/-- Whether no place of an array `ds'` shifted by `d` is one of an array `ds`. -/
def regApart : List (Nat × Nat) → Nat → List (Nat × Nat) → Bool
  | [], d, _ => 0 < d
  | (s, c) :: _, d, [] => s * c ≤ d
  | (s, c) :: ds, d, (s', c') :: ds' => s * c ≤ d || (s' == s && d + regSpan ds' ≤ s && regApart ds d ds')

theorem regOffGo_lt (ds : List (Nat × Nat)) (lo : Nat) (is : List Nat) (h : idxOk ds lo is) : regOffGo ds is < regSpan ds := by
  induction ds generalizing is with
  | nil => cases is <;> simp_all [idxOk, regOffGo, regSpan]
  | cons a ds ih =>
    obtain ⟨s, c⟩ := a
    cases is with
    | nil => simp [idxOk] at h
    | cons i is =>
      simp only [idxOk] at h
      have := ih is h.2.2
      have h1 : s * i ≤ s * (c - 1) := Nat.mul_le_mul_left s (by omega)
      simp only [regOffGo, regSpan]; omega

theorem regIdxGo_own (ds : List (Nat × Nat)) (lo : Nat) (is : List Nat) (hn : regNested ds = true) (h : idxOk ds lo is) :
    regIdxGo ds lo (regOffGo ds is) = some is := by
  induction ds generalizing is with
  | nil => cases is <;> simp_all [idxOk, regOffGo, regIdxGo]
  | cons a ds ih =>
    obtain ⟨s, c⟩ := a
    cases is with
    | nil => simp [idxOk] at h
    | cons i is =>
      simp only [idxOk] at h
      simp only [regNested, Bool.and_eq_true, decide_eq_true_eq] at hn
      have hl := regOffGo_lt ds lo is h.2.2
      have hs : 0 < s := by omega
      have hd : (s * i + regOffGo ds is) / s = i := by
        rw [Nat.mul_add_div hs, Nat.div_eq_of_lt (by omega)]; omega
      have hm : (s * i + regOffGo ds is) % s = regOffGo ds is := by
        rw [Nat.mul_add_mod, Nat.mod_eq_of_lt (by omega)]
      simp only [regOffGo, regIdxGo, hd, hm, ih is hn.2 h.2.2]
      rw [if_pos]
      refine ⟨h.1, ?_⟩
      by_cases e : ds = []
      · exact .inr (h.2.1 e)
      · exact .inl e

theorem regIdxGo_apart (ds ds' : List (Nat × Nat)) (lo lo' d : Nat) (is : List Nat) (ha : regApart ds d ds' = true) (h : idxOk ds' lo' is)
    (hn : regNested ds = true) : regIdxGo ds lo (d + regOffGo ds' is) = none := by
  induction ds generalizing ds' d is with
  | nil => simp only [regApart, decide_eq_true_eq] at ha; simp only [regIdxGo]; rw [if_neg (by omega)]
  | cons a ds ih =>
    obtain ⟨s, c⟩ := a
    simp only [regNested, Bool.and_eq_true, decide_eq_true_eq] at hn
    have far : ∀ x, s * c ≤ x → regIdxGo ((s, c) :: ds) lo x = none := by
      intro x hx
      have : c ≤ x / s := (Nat.le_div_iff_mul_le hn.1.1).2 (by rw [Nat.mul_comm]; exact hx)
      simp only [regIdxGo]; rw [if_neg (by omega)]
    cases ds' with
    | nil =>
      simp only [regApart, decide_eq_true_eq] at ha
      exact far _ (by omega)
    | cons b ds' =>
      obtain ⟨s', c'⟩ := b
      cases is with
      | nil => simp [idxOk] at h
      | cons i is =>
        simp only [regApart, Bool.or_eq_true, Bool.and_eq_true, decide_eq_true_eq, beq_iff_eq] at ha
        rcases ha with ha | ⟨⟨rfl, hb⟩, hc⟩
        · exact far _ (by omega)
        · simp only [idxOk] at h
          have hl := regOffGo_lt ds' lo' is h.2.2
          have e : d + regOffGo ((s', c') :: ds') (i :: is) = s' * i + (d + regOffGo ds' is) := by simp only [regOffGo]; omega
          have hd : (s' * i + (d + regOffGo ds' is)) / s' = i := by rw [Nat.mul_add_div hn.1.1, Nat.div_eq_of_lt (by omega)]; omega
          have hm : (s' * i + (d + regOffGo ds' is)) % s' = d + regOffGo ds' is := by rw [Nat.mul_add_mod, Nat.mod_eq_of_lt (by omega)]
          rw [e]
          simp only [regIdxGo, hd, hm, ih ds' d is hc h.2.2 hn.2]
          split <;> rfl

/-- Whether a register earlier in the map can never be found at the place of a later one. -/
def namesApart (m n : RegName) : Bool :=
  let a := regRow m
  let b := regRow n
  regNested a.dims && (b.base + regSpan b.dims ≤ a.base || (a.base ≤ b.base && regApart a.dims (b.base - a.base) b.dims))

theorem regIdx_apart (m n : RegName) (is : List Nat) (ha : namesApart m n = true) (h : idxOk (regRow n).dims (regRow n).lo is) :
    regIdx m (regOff n is) = none := by
  simp only [namesApart, Bool.and_eq_true, Bool.or_eq_true, decide_eq_true_eq] at ha
  have hl := regOffGo_lt _ _ _ h
  unfold regIdx regOff
  rcases ha.2 with hb | ⟨hb, hc⟩
  · dsimp only; rw [if_neg (by omega)]
  · dsimp only; rw [if_pos (by omega)]
    rw [show (regRow n).base + regOffGo (regRow n).dims is - (regRow m).base = ((regRow n).base - (regRow m).base) + regOffGo (regRow n).dims is by omega]
    exact regIdxGo_apart _ _ _ _ _ _ hc h ha.1

theorem regFindIn_own (l : List RegName) (n : RegName) (is : List Nat) (h : idxOk (regRow n).dims (regRow n).lo is) (hn : regNested (regRow n).dims = true)
    (hl : n ∈ l) (ha : l.Pairwise (fun a b => namesApart a b = true)) : regFindIn l (regOff n is) = some (n, is) := by
  induction l with
  | nil => exact absurd hl List.not_mem_nil
  | cons m l ih =>
    unfold regFindIn
    by_cases e : m = n
    · subst e
      have : regIdx m (regOff m is) = some is := by
        unfold regIdx regOff; dsimp only
        rw [if_pos (by omega), Nat.add_sub_cancel_left]
        exact regIdxGo_own _ _ _ hn h
      rw [this]
    · have hl' : n ∈ l := by simpa [Ne.symm e] using hl
      rw [List.pairwise_cons] at ha
      rw [regIdx_apart m n is (ha.1 n hl') h]
      exact ih hl' ha.2

theorem names_complete (n : RegName) : n ∈ regNames := by cases n <;> decide

theorem names_apart : regNames.Pairwise (fun a b => namesApart a b = true) := by decide +kernel

theorem names_nested : ∀ n ∈ regNames, regNested (regRow n).dims = true := by decide +kernel

/-- A search at a register's offset finds that register with its indices (R11, R469). -/
theorem regFind_regOff (n : RegName) (is : List Nat) (h : idxOk (regRow n).dims (regRow n).lo is) : regFind (regOff n is) = some (n, is) :=
  regFindIn_own _ n is h (names_nested n (names_complete n)) (names_complete n) names_apart

/-- Registers with other names or indices stand at other offsets. -/
theorem regOff_inj {m n : RegName} {i j : List Nat} (hi : idxOk (regRow m).dims (regRow m).lo i) (hj : idxOk (regRow n).dims (regRow n).lo j)
    (h : regOff m i = regOff n j) : m = n ∧ i = j := by
  have a := regFind_regOff m i hi
  rw [h, regFind_regOff n j hj] at a
  simp only [Option.some.injEq, Prod.mk.injEq] at a
  exact ⟨a.1.symm, a.2.symm⟩

end Sys2Proof.Laws
end

