-- ==== Sys2Proof/Laws/Seq.lean ====
section
/-!
SUPPORT. What retiring a sequencer instruction leaves, once for all instructions.
-/
namespace Sys2Proof.Machine
open Sys2Proof.Laws

/-- A token's count after a token was set. -/
theorem token_setToken (x : Tile) (k n j : Nat) : (x.setToken k n).token j = if j = 0 then 0 else if j = k then n else x.token j := by
  unfold Tile.setToken Tile.token
  by_cases hj : j = 0
  · simp [hj]
  · by_cases hk : k = 0
    · simp [hj, hk]
    · simp [hj, hk, tblGet_set]

theorem setToken_rest (x : Tile) (k n : Nat) : x.setToken k n = { x with tok := (x.setToken k n).tok } := by
  unfold Tile.setToken; split <;> rfl

theorem takeToken_rest (x : Tile) (k : Nat) : x.takeToken k = { x with tok := (x.takeToken k).tok } := setToken_rest _ _ _

theorem touch_rest (x : Tile) (l : Nat) : x.touch l = { x with icache := (x.touch l).icache } := by
  unfold Tile.touch; split <;> rfl

theorem token_takeToken (x : Tile) (k j : Nat) : (x.takeToken k).token j = if j = k then x.token j - 1 else x.token j := by
  unfold Tile.takeToken; rw [token_setToken]
  by_cases h0 : j = 0
  · subst h0; simp [Tile.token]
  · rw [if_neg h0]; split
    · subst j; rfl
    · rfl

/-- The tile after increments of a token (R131, R134). -/
theorem addToken_tile (s : State) (t k n : Nat) : ∃ tk sat, (s.addToken t k n).tile t = { s.tile t with tok := tk, tokenSat := sat } ∧
    ∀ j, ((s.addToken t k n).tile t).token j = if j = 0 then 0 else if j = k then min 255 ((s.tile t).token k + n) else (s.tile t).token j := by
  unfold State.addToken; dsimp only
  split
  · subst k
    refine ⟨(s.tile t).tok, (s.tile t).tokenSat, rfl, fun j => ?_⟩
    by_cases hj : j = 0
    · simp [hj, Tile.token]
    · simp [hj]
  · split
    · refine ⟨_, (s.tile t).tokenSat, by rw [tile_setTile_same, setToken_rest], fun j => ?_⟩
      rw [tile_setTile_same, token_setToken]
      rw [Nat.min_eq_right ‹_›]
    · refine ⟨((s.tile t).setToken k 255).tok, true, by rw [(raiseTile_quiet _ _ _ _ _).tile, tile_setTile_same, setToken_rest], fun j => ?_⟩
      rw [(raiseTile_quiet _ _ _ _ _).tile, tile_setTile_same, Nat.min_eq_left (by omega)]
      exact token_setToken _ _ _ _

/-- The registers that address translation reads are neither the event ring's nor ID.ADDR_FAULT. -/
theorem hbmRegion_apart (r : Nat) (h : r < 1024) : regOff .idHbmRegion [r] ∉ eventRegs ∧ regOff .idHbmRegion [r] ≠ regOff .idAddrFault [] := by
  simp only [regOff, regRow, regOffGo, eventRegs, List.mem_cons, List.not_mem_nil, or_false]; omega

theorem tileCfg_apart (t : Nat) : regOff .tileTileCfg (tix t) ∉ eventRegs ∧ regOff .tileTileCfg (tix t) ≠ regOff .idAddrFault [] := by
  simp only [regOff, regRow, regOffGo, eventRegs, tix, List.mem_cons, List.not_mem_nil, or_false]; omega

theorem idPaddock_apart : regOff .idPaddock [] ∉ eventRegs ∧ regOff .idPaddock [] ≠ regOff .idAddrFault [] := by
  simp only [regOff, regRow, regOffGo, eventRegs, List.mem_cons, List.not_mem_nil, or_false]; omega

/-- Where an HBM line faults is decided by registers that neither events nor address faults move. -/
theorem lineFaults_congr {s s' : State} (t l : Nat) (h : 256 * l < 2 ^ 40) (hf : s'.fuses = s.fuses)
    (hc : ∀ o, o ∉ eventRegs → o ≠ regOff .idAddrFault [] → s'.ctlRaw o = s.ctlRaw o) : s'.lineFaults t l = s.lineFaults t l := by
  have hp : s'.isPaddock t = s.isPaddock t := by
    unfold State.isPaddock State.slice State.present State.rf State.reg
    rw [hf, hc _ (tileCfg_apart t).1 (tileCfg_apart t).2]
  have ho : s'.paddockOn = s.paddockOn := by
    unfold State.paddockOn State.flag State.rf State.reg; rw [hc _ idPaddock_apart.1 idPaddock_apart.2]
  have h1 : s'.reg .idHbmRegion [256 * l / 2 ^ 30] = s.reg .idHbmRegion [256 * l / 2 ^ 30] := by
    unfold State.reg
    have := hbmRegion_apart (256 * l / 2 ^ 30) (by omega)
    rw [hc _ this.1 this.2]
  unfold State.lineFaults State.locate
  rw [if_pos h, if_pos h]
  simp only [h1, State.refused, ho, State.sideOf, hp]

theorem TileOnly.lineFaults {t u : Nat} {w : Nat → Prop} {s s' : State} (h : TileOnly t w [regOff .idAddrFault []] [] s s') (l : Nat) (hl : 256 * l < 2 ^ 40) :
    s'.lineFaults u l = s.lineFaults u l :=
  lineFaults_congr u l hl (by rw [h.rest]) (fun o h1 h2 => h.ctl o h1 (by simpa using h2))

/-- The tile after the program counter has moved. -/
theorem seek_tile (s : State) (t pc : Nat) (h : pc < 2 ^ 40) : ∃ s', s.seek t pc = .next s' ∧ ∃ rq q c f,
    s'.tile t = { s.tile t with pc := pc, icReq := rq, seq := q, cause := c, fetchFault := f } ∧
    ((q = (s.tile t).seq ∧ c = (s.tile t).cause ∧ f = (s.tile t).fetchFault) ∨
      (s.lineFaults t (pc / 256) = true ∧ q = .draining ∧ c = .fetchFault ∧ f = true)) := by
  unfold State.seek; dsimp only
  rw [if_neg (by omega)]
  split
  · exact ⟨_, rfl, (s.tile t).icReq, (s.tile t).seq, (s.tile t).cause, (s.tile t).fetchFault, by rw [tile_setTile_same], .inl ⟨rfl, rfl, rfl⟩⟩
  · split
    · rename_i hl
      have hl' : s.lineFaults t (pc / 256) = true := by
        rw [← hl]; symm
        exact lineFaults_congr t _ (by omega) rfl (fun _ _ _ => rfl)
      refine ⟨_, rfl, [], .draining, .fetchFault, true, ?_, .inr ⟨hl', rfl, rfl, rfl⟩⟩
      unfold State.fetchFaultAt; dsimp only
      rw [(raiseTile_quiet _ _ _ _ _).tile, tile_setTile_same]
      split
      · rw [(addrFault_quiet _ _ _ _).tile, tile_setTile_same]
      · rw [tile_setTile_same]
    · refine ⟨_, rfl, ?_⟩
      unfold State.nextLine; dsimp only
      split
      · exact ⟨_, (s.tile t).seq, (s.tile t).cause, (s.tile t).fetchFault, by rw [tile_setTile_same, tile_setTile_same], .inl ⟨rfl, rfl, rfl⟩⟩
      · exact ⟨_, (s.tile t).seq, (s.tile t).cause, (s.tile t).fetchFault, by rw [tile_setTile_same, tile_setTile_same, tile_setTile_same], .inl ⟨rfl, rfl, rfl⟩⟩

/-- Retiring: the signal rises, the program counter moves, the next fetch begins (R131, R166). -/
theorem retire_spec (s s1 : State) (t : Nat) (i : KInsn) (d : Done) (w : Nat → Prop) (own : Tile) (hf : d.fetch = true)
    (hn : d.pc.getD (((s1.tile t).pc + 8) % 2 ^ 48) < 2 ^ 40) (h1 : TileOnly t w [] [] s d.st)
    (hown : ∃ p tk ic rq, d.st.tile t = { own with pc := p, tok := tk, icache := ic, icReq := rq }) :
    ∃ s', s1.retire t i d = .next s' ∧ SqRetired t own (d.st.tile t).token (if d.sig then i.signal.val else 0) (d.pc.getD (((s1.tile t).pc + 8) % 2 ^ 48)) w s s' := by
  unfold State.retire; dsimp only
  rw [if_pos hf]
  generalize hk : (if d.sig then i.signal.val else 0) = sg
  have e : (if d.sig = true then d.st.signal t i.signal.val else d.st) = d.st.addToken t sg 1 := by
    cases hd : d.sig
    · rw [hd] at hk; subst hk; rfl
    · rw [hd] at hk; subst hk; rfl
  rw [e]
  generalize d.pc.getD (((s1.tile t).pc + 8) % 2 ^ 48) = nx at *
  obtain ⟨p0, tk0, ic0, rq0, hown⟩ := hown
  obtain ⟨tk, sat, ht, htok⟩ := addToken_tile d.st t sg 1
  obtain ⟨s', hs', rq, q, c, f, htile, hgo⟩ := seek_tile (d.st.addToken t sg 1) t nx hn
  have f2 : TileOnly t w [] [] s (d.st.addToken t sg 1) := h1.trans (addToken_only _ _ _ _ _)
  have f3 : TileOnly t w [regOff .idAddrFault []] [] s s' := f2.of_nil.trans (seek_only _ _ _ _ _ hs')
  refine ⟨s', hs', f3, by rw [htile], ?_, ?_, ?_⟩
  · simp only [htile, ht, hown]
  · intro k
    have e1 : (s'.tile t).token k = ((d.st.addToken t sg 1).tile t).token k := by rw [htile]; rfl
    rw [e1, htok]
    by_cases hs : k = sg
    · subst hs; rfl
    · simp [hs]
  · rcases hgo with ⟨h1, h2, h3⟩ | ⟨h1, h2, h3, h4⟩
    · left
      rw [htile]; dsimp only
      rw [h1, h2, h3, ht, hown]; exact ⟨rfl, rfl, rfl⟩
    · right
      refine ⟨?_, by rw [htile]; exact h2, by rw [htile]; exact h3, by rw [htile]; exact h4⟩
      rw [← h1]; symm
      exact (f2.of_nil (r := [regOff .idAddrFault []])).lineFaults _ (by omega)

/-- The state on which a going instruction's own effect works: the wait has taken its token and the line is the most recently used. -/
theorem sqRun_go (s : State) (t : Nat) (i : KInsn) (want ready : KBody → Bool) (f : KBody → KInsn → State → Except UB Done) (h : SqGo t i s)
    (hw : want i.body = true) (hr : ready i.body = true) :
    s.sqRun t want ready f =
      (let s1 := s.setTile t (((s.tile t).takeToken i.wait.val).touch ((s.tile t).pc / 256))
       match f i.body i s1 with
       | .ok d => s1.retire t i d
       | .error u => .fault (.undefined u)) := by
  unfold State.sqRun
  rw [h.fetch]; dsimp only
  rw [if_pos (by simp [hw, h.token])]
  simp only [h.pred, hr, Bool.true_eq_false, if_false, if_true]
  all_goals rfl

/-- The record on which a going instruction's own effect works: only its tokens and the order of its lines differ. -/
def ranTile (x : Tile) (i : KInsn) : Tile := (x.takeToken i.wait.val).touch (x.pc / 256)

theorem ranTile_rest (x : Tile) (i : KInsn) : ranTile x i = { x with tok := (ranTile x i).tok, icache := (ranTile x i).icache } := by
  unfold ranTile; rw [touch_rest, takeToken_rest]

theorem ranTile_token (x : Tile) (i : KInsn) (k : Nat) : (ranTile x i).token k = waited x i k := by
  unfold ranTile
  rw [touch_rest]
  exact token_takeToken x i.wait.val k

/-- The state on which a going instruction's own effect works, after some free values have been taken. -/
def ran (s : State) (t : Nat) (i : KInsn) (n : Nat) : State := { s.setTile t (ranTile (s.tile t) i) with free := n }

theorem ran_tile (s : State) (t : Nat) (i : KInsn) (n : Nat) : (ran s t i n).tile t = ranTile (s.tile t) i := tile_setTile_same _ _ _

theorem ran_only (s : State) (t : Nat) (i : KInsn) (n : Nat) (w : Nat → Prop) : TileOnly t w [] [] s (ran s t i n) :=
  (TileOnly.setTile _ _ _ _ _ _).trans (TileOnly.free _ _ _ _ _ _)

/-- A read of the state on which the own effect works takes what a read of the state before takes. -/
theorem readS_ran (s : State) (t : Nat) (i : KInsn) (r : Nat) :
    (ran s t i s.free).readS t r = ((s.readS t r).1, ran s t i (s.readS t r).2.free) := by
  refine readS_congr s _ t r rfl ?_ ?_
  · rw [ran_tile, ranTile_rest]
  · rw [ran_tile, ranTile_rest]

/-- A second read after a first. -/
theorem readS_ran2 (s : State) (t : Nat) (i : KInsn) (a b : Nat) :
    (ran s t i (s.readS t a).2.free).readS t b = (((s.readS t a).2.readS t b).1, ran s t i ((s.readS t a).2.readS t b).2.free) := by
  obtain ⟨m, hm⟩ := readS_eq s t a
  rw [hm]
  refine readS_congr _ _ t b rfl ?_ ?_
  · rw [ran_tile, ranTile_rest]; rfl
  · rw [ran_tile, ranTile_rest]; rfl

/-- A write of an s-register, its mark on pending deposits included, whichever tokens and lines the tile has. -/
theorem writeS_ran (s : State) (t : Nat) (i : KInsn) (n r : Nat) (v : Word) :
    ((ran s t i n).writeS t r v).tile t = { ((s.writeS t r v).tile t) with tok := (ranTile (s.tile t) i).tok, icache := (ranTile (s.tile t) i).icache } := by
  unfold State.writeS; dsimp only
  rw [tile_setTile_same, tile_setTile_same, ran_tile, ranTile_rest]
  unfold Tile.setSreg; split <;> rfl

/-- A going instruction completes when its own effect does: from what the effect leaves, what the instruction leaves. -/
theorem sqRun_spec (s : State) (t : Nat) (i : KInsn) (want ready : KBody → Bool) (f : KBody → KInsn → State → Except UB Done) (h : SqGo t i s)
    (hw : want i.body = true) (hr : ready i.body = true) (d : Done) (hd : f i.body i (ran s t i s.free) = .ok d)
    (own : Tile) (tk : Nat → Nat) (w : Nat → Prop) (next : Nat) (hf : d.fetch = true)
    (hn : d.pc.getD ((s.tile t).pc + 8) = next) (hl : next < 2 ^ 40)
    (h1 : TileOnly t w [] [] s d.st) (hown : ∃ p tk ic rq, d.st.tile t = { own with pc := p, tok := tk, icache := ic, icReq := rq })
    (htk : ∀ k, (d.st.tile t).token k = tk k) :
    ∃ s', s.sqRun t want ready f = .next s' ∧ SqRetired t own tk (if d.sig then i.signal.val else 0) next w s s' := by
  rw [sqRun_go s t i want ready f h hw hr]
  have hp : d.pc.getD ((((s.setTile t (ranTile (s.tile t) i)).tile t).pc + 8) % 2 ^ 48) = next := by
    rw [tile_setTile_same, ranTile_rest]; dsimp only
    rw [Nat.mod_eq_of_lt (by have := h.room; omega), hn]
  obtain ⟨s', hs', r⟩ := retire_spec s (s.setTile t (ranTile (s.tile t) i)) t i d w own hf (by rw [hp]; exact hl) h1 hown
  refine ⟨s', ?_, ?_⟩
  · show (match f i.body i (s.setTile t (ranTile (s.tile t) i)) with
      | .ok d => (s.setTile t (ranTile (s.tile t) i)).retire t i d
      | .error u => .fault (.undefined u)) = _
    rw [show s.setTile t (ranTile (s.tile t) i) = ran s t i s.free from rfl] at *; rw [hd]; exact hs'
  · rw [hp] at r
    have : (d.st.tile t).token = tk := funext htk
    rw [this] at r; exact r

end Sys2Proof.Machine
end

