-- ==== Sys2Proof/Laws/Wf.lean ====
section
/-!
SUPPORT. Every operation over memory and registers keeps the canonical form of the two stores: addresses strictly rising, no entry equal to what an
unlisted address reads as. The state after reset has it.
-/
namespace Sys2Proof.Laws
open Sys2Proof Sys2Proof.Machine

theorem reset_wf : State.reset.Wf := ⟨tblWf_nil _, tblWf_nil _⟩

/-- A change that leaves both stores alone. -/
theorem wf_of {s s' : State} (h : s.Wf) (hm : s'.mem = s.mem) (hc : s'.ctl = s.ctl) : s'.Wf := ⟨by rw [hm]; exact h.1, by rw [hc]; exact h.2⟩

/-! ### Registers -/

theorem setCtl_wf {s : State} (h : s.Wf) (o : Nat) (v : Word) : (s.setCtl o v).Wf := ⟨h.1, tblWf_set _ _ _ h.2⟩
theorem setReg_wf {s : State} (h : s.Wf) (n : RegName) (i : List Nat) (v : Nat) : (s.setReg n i v).Wf := setCtl_wf h _ _
theorem setRf_wf {s : State} (h : s.Wf) (n : RegName) (i : List Nat) (lo len v : Nat) : (s.setRf n i lo len v).Wf := setReg_wf h _ _ _
theorem ctlApply_wf {s : State} (h : s.Wf) (n : RegName) (i : List Nat) (acc : Acc) (v : Nat) : (s.ctlApply n i acc v).Wf := setReg_wf h _ _ _

theorem filterMap_wf {α : Type} (d : Nat → α) (f : Nat × α → Option (Nat × α)) (hk : ∀ e x, f e = some x → x.1 = e.1 ∧ x.2 ≠ d x.1) {l : Tbl α} (h : tblWf d l) : tblWf d (l.filterMap f) := by
  refine ⟨?_, ?_⟩
  · refine List.Pairwise.filterMap f ?_ h.1
    intro a b hab x hx y hy
    rw [(hk a x hx).1, (hk b y hy).1]; exact hab
  · intro x hx
    obtain ⟨e, _, he⟩ := List.mem_filterMap.1 hx
    exact (hk e x he).2

/-- A reset keeps the register file's form, whatever bits it keeps. -/
theorem keepCtl_wf {s : State} (h : s.Wf) (f : RegName → List Nat → Nat) : (s.keepCtl f).Wf := by
  refine ⟨h.1, filterMap_wf _ _ ?_ h.2⟩
  intro e x hx
  dsimp only at hx
  split at hx
  · exact absurd hx (by simp)
  · split at hx
    · exact absurd hx (by simp)
    · rename_i hne
      rw [Option.some.injEq] at hx
      subst hx
      exact ⟨rfl, hne⟩

/-! ### Memory -/

theorem setByte_wf {s : State} (h : s.Wf) (k v : Nat) : (s.setByte k v).Wf := ⟨tblWf_set _ _ _ h.1, h.2⟩
theorem setBytes_wf (l : List Nat) {s : State} (h : s.Wf) (k : Nat) : (s.setBytes k l).Wf := by
  induction l generalizing s k with
  | nil => exact h
  | cons b l ih => exact ih (setByte_wf h _ _) _
theorem setLe_wf {s : State} (h : s.Wf) (k n v : Nat) : (s.setLe k n v).Wf := setBytes_wf _ h _
theorem clear_wf {s : State} (h : s.Wf) (a b : Nat) : ({ s with mem := tblClear s.mem a b }).Wf := ⟨tblWf_clear _ _ _ h.1, h.2⟩
/-- Noting a write touches neither store. -/
theorem noted_wf {s : State} (h : s.Wf) (da k v : Nat) : (s.noted da k v).Wf := by
  unfold State.noted
  dsimp only
  split <;> split <;> exact h
theorem poke_wf {s : State} (h : s.Wf) (by_ : Issuer) (da v : Nat) : (s.poke by_ da v).Wf := by
  unfold State.poke
  split
  · exact noted_wf (setByte_wf h _ _) _ _ _
  · exact h
theorem pokes_wf (l : List Nat) {s : State} (h : s.Wf) (by_ : Issuer) (da : Nat) : (s.pokes by_ da l).Wf := by
  induction l generalizing s da with
  | nil => exact h
  | cons b l ih => exact ih (poke_wf h _ _ _) _
theorem pokeAll_wf (l : List (Nat × Nat)) {s : State} (h : s.Wf) (by_ : Issuer) : (s.pokeAll by_ l).Wf := by
  induction l generalizing s with
  | nil => exact h
  | cons e l ih => exact ih (poke_wf h _ _ _)
theorem clearGroup_wf {s : State} (h : s.Wf) (t g : Nat) : (s.clearGroup t g).Wf := clear_wf h _ _
theorem zeroGranule_wf {s : State} (h : s.Wf) (da : Nat) : (s.zeroGranule da).Wf := by
  unfold State.zeroGranule
  split
  · exact clear_wf h _ _
  · exact h

/-! ### Events, tallies, free values -/

theorem takeWord_wf {s : State} (h : s.Wf) : s.takeWord.2.Wf := h
theorem takeBool_wf {s : State} (h : s.Wf) : s.takeBool.2.Wf := h
theorem setTile_wf {s : State} (h : s.Wf) (t : Nat) (x : Tile) : (s.setTile t x).Wf := h
theorem tallyBump_wf {s : State} (h : s.Wf) (o n : Nat) : (s.tallyBump o n).Wf := h
theorem discard_wf {s : State} (h : s.Wf) (n : Nat) : (s.discard n).Wf := by
  unfold State.discard
  dsimp only
  refine tallyBump_wf (setRf_wf ?_ _ _ _ _ _) _ _
  exact h
theorem msixMessage_wf {s : State} (h : s.Wf) (p v : Nat) : (s.msixMessage p v).Wf := by
  unfold State.msixMessage
  dsimp only
  split <;> split <;> exact h
theorem sendMsix_wf {s : State} (h : s.Wf) (v : Nat) : (s.sendMsix v).Wf := by
  unfold State.sendMsix
  dsimp only
  split
  · exact h
  · split
    · split <;> exact h
    · exact msixMessage_wf h _ _
theorem recordMsix_wf {s : State} (h : s.Wf) (c i : Nat) : (s.recordMsix c i).Wf := by
  unfold State.recordMsix
  dsimp only
  split
  · exact h
  · exact sendMsix_wf h _
theorem writeRec_wf {s : State} (h : s.Wf) (r : EvRec) : (s.writeRec r).Wf := by
  unfold State.writeRec
  dsimp only
  refine recordMsix_wf (setReg_wf ?_ _ _ _) _ _
  refine wf_of (s := if s.linkHeld s.evPort then s else _) ?_ rfl rfl
  split
  · exact h
  · exact setBytes_wf _ h _
theorem drainRing_wf (k : Nat) {s : State} (h : s.Wf) : (s.drainRing k).Wf := by
  induction k generalizing s with
  | zero => exact h
  | succ k ih =>
    unfold State.drainRing
    dsimp only
    split
    · split
      · refine ih (writeRec_wf ?_ _)
        exact h
      · split
        · exact h
        · refine ih (writeRec_wf ?_ _)
          exact h
    · exact h
theorem emit_wf {s : State} (h : s.Wf) (r : EvRec) : (s.emit r).Wf := by
  unfold State.emit
  split
  · exact h
  · split
    · exact discard_wf h _
    · refine drainRing_wf _ ?_
      exact h
theorem raise_wf {s : State} (h : s.Wf) (c d k i a b : Nat) : (s.raise c d k i a b).Wf := by
  unfold State.raise
  dsimp only
  split
  · exact emit_wf (emit_wf h _) _
  · exact emit_wf h _
theorem tallyAdd_wf {s : State} (h : s.Wf) (o n : Nat) : (s.tallyAdd o n).Wf := by
  unfold State.tallyAdd
  dsimp only
  split
  · exact raise_wf (tallyBump_wf h _ _) _ _ _ _ _ _
  · exact tallyBump_wf h _ _

/-! ### Resets -/

theorem lose_wf {s : State} (h : s.Wf) (n : Nat) : (s.lose n).Wf := by
  unfold State.lose
  dsimp only
  split
  · exact emit_wf (discard_wf h _) _
  · exact discard_wf h _
theorem dropHeld_wf {s : State} (h : s.Wf) : s.dropHeld.Wf := by
  unfold State.dropHeld
  dsimp only
  split
  · exact h
  · have h0 : State.Wf { s with ev := { s.ev with held := [] } } := h
    have h1 := lose_wf h0 s.ev.held.length
    by_cases e : (State.lose { s with ev := { s.ev with held := [] } } s.ev.held.length).ev.held.isEmpty = true
    · rw [if_pos e]; exact h1
    · rw [if_neg e]; exact discard_wf h1 (State.lose { s with ev := { s.ev with held := [] } } s.ev.held.length).ev.held.length
theorem setCtls_wf (l : List (Nat × Word)) {s : State} (h : s.Wf) : (l.foldl (fun (s : State) (e : Nat × Word) => s.setCtl e.1 e.2) s).Wf := by
  induction l generalizing s with
  | nil => exact h
  | cons e l ih => exact ih (setCtl_wf h _ _)
theorem snapShow_wf {s : State} (h : s.Wf) : s.snapShow.Wf := by
  unfold State.snapShow
  split
  · exact h
  · refine setRf_wf ?_ _ _ _ _ _
    exact setCtls_wf _ h
theorem clearUnits_wf {s : State} (h : s.Wf) : s.clearUnits.Wf := clear_wf (dropHeld_wf (snapShow_wf h)) _ _
theorem clearPower_wf {s : State} (h : s.Wf) : s.clearPower.Wf := clear_wf (keepCtl_wf (clearUnits_wf h) _) _ _

end Sys2Proof.Laws
end

