-- ==== Sys2Proof/Tests/Slice0.lean ====
section
/-!
SUPPORT. Tests: ill-formed terms that WellFormed refuses, words written out from the spec's encodings, worked examples of the spec, and for each statement a state
and operands that meet its hypotheses.
-/
set_option Elab.async false

namespace Sys2Proof.Tests
open Sys2Proof Sys2Proof.Machine

/-- The module under way: powered, READY, region 0 interleaved, region 1 not mapped, tile 0 in slice 1, tile 1 in the paddock's slice. -/
def up : State :=
  let s := { State.reset with isl := { Island.reset with powered := true } }
  let s := s.setReg .clkStatus [] (2 ^ 63)
  let s := s.setReg .idHbmRegion [0] (1 <<< 18)
  let s := s.setReg .idHbmRegion [1] 0
  (s.setReg .tileTileCfg [0, 0] 1).setReg .tileTileCfg [0, 1] 63

/-- Tile 0 with its sequencer running before the word `w` at DA 0x1000, in a cached line. -/
def atWord (w : Nat) (x : Tile := Tile.reset) : State :=
  let s := up.pokes .unit 0x1000 (leBytes 8 w)
  s.setTile 0 { x with seq := .running, pc := 0x1000, icache := [(0x10, leBytes 8 w ++ List.replicate 248 0)], icGen := s.gen }

/-- The tile of the tests. -/
abbrev t0 : TileId := 0

/-- The state that a command leaves; the state itself where it stops. -/
def after (c : Instr) (s : State) : State :=
  match exec c s with
  | .next s' => s'
  | _ => s

/-- The fault in which a command ends, if it does. -/
def stop (c : Instr) (s : State) : Option Fault :=
  match exec c s with
  | .fault f => some f
  | _ => none

/-- Whether the sequencer has the instruction before it, ready to go. -/
def goes (t : Nat) (i : KInsn) (s : State) : Bool :=
  s.fetch t == .insn i && (s.tile t).tokenReady i.wait.val && (s.tile t).preg i.pred.val && decide ((s.tile t).pc + 8 < 2 ^ 40)

theorem sqGo_of {t : Nat} {i : KInsn} {s : State} (h : goes t i s = true) : SqGo t i s := by
  simp only [goes, Bool.and_eq_true, beq_iff_eq, decide_eq_true_eq] at h
  exact ⟨h.1.1.1, h.1.1.2, h.1.2, h.2⟩

/-- Tile 0 before the instruction `i`, encoded. -/
def atInsn (i : KInsn) (x : Tile := Tile.reset) : State := atWord (kEncode i).toNat x
/-- An instruction without guard and tokens. -/
def plain (b : KBody) : KInsn := ⟨0, 0, 0, b⟩

/-! ### Decoding and well-formedness -/

theorem test_words_decode :
    kDecode 0x040801C840000001 = some ⟨2, 0, 7, .aluI .add 4 4 1⟩ ∧
    kDecode 0x01E0000621880000 = some ⟨0, 0, 0, .alu .sel 3 2 3 2⟩ ∧
    kDecode 0x0840300463800000 = some ⟨0, 3, 0, .cmp .lt 2 6 7⟩ ∧
    kDecode 0x1000400A13FFFFFE = some ⟨0, 4, 0, .br false .nz 5 0 (-2)⟩ := by decide +kernel
theorem test_words_decode_rest :
    kDecode 0x1400000002400004 = some ⟨0, 0, 0, .tset 9 4⟩ ∧
    kDecode 0x1840050800000000 = some ⟨0, 0, 20, .fence 4⟩ ∧
    kDecode 0x1C00000888800040 = some ⟨0, 0, 0, .mov .aa 2 2 64⟩ ∧
    kDecode 0x2040000E30000040 = some ⟨0, 0, 0, .mem .ld32u 7 3 64⟩ ∧
    kDecode 0x2400001908800001 = some ⟨0, 0, 0, .dld 4 2 1⟩ ∧
    kDecode 0x4020000000100500 = some ⟨0, 0, 0, .eng (.mx .close) 0 0 0 0x100500⟩ := by decide +kernel
/-- Words that spell nothing: a minor without the IMM form, a major without meaning, a reserved bit. -/
theorem test_words_refused : kDecode 0x0280000221800000 = none ∧ kDecode 0x0900000281000000 = none ∧ kDecode 0xFC00000000000000 = none := by decide +kernel
/-- No row of the table gives bits. -/
theorem test_table_word : decodeTableWord 64 0x040801C840000001 = none ∧ (State.reset.withFetchWord 8 1).pending = [] := by decide

/-- Ill-formed Kalroko instructions, one for each check: the predicate of no select, li with a source, sel in the IMM form, predicate operands above 7, an immediate
predicate logic, a file pair that no move has, an lda beyond a15, a control field that an engine forbids. -/
theorem test_ill_formed_insns :
    (plain (.alu .add 1 2 3 1)).wf = false ∧ (plain (.aluI .li 1 2 0)).wf = false ∧ (plain (.aluI .sel 1 2 0)).wf = false ∧ (plain (.alu .li 1 2 3 0)).wf = false ∧
    (plain (.cmp .pand 1 8 0)).wf = false ∧ (plain (.cmpI .pand 1 0 0)).wf = false ∧ (plain (.mov .aa 16 0 0)).wf = false ∧ (plain (.mem .lda 16 0 0)).wf = false ∧
    (plain (.eng (.mx .open) 0 0 0 1)).wf = false ∧ (plain (.eng (.vxl .perm) 0 0 0 0)).wf = false := by decide +kernel
theorem witness_KalrokoEncoding : (plain (.alu .sel 1 2 3 1)).wf = true ∧ (plain (.mem .lda 15 0 0)).wf = true ∧ (⟨2, 0, 7, .aluI .add 4 4 1⟩ : KInsn).wf = true := by decide +kernel

/-- Ill-formed commands, one for each range. -/
theorem test_ill_formed_commands :
    (Instr.registerWrite 0 4 .full 0).wf = false ∧ (Instr.rcRegisterRead 0 (2 ^ 26) .full).wf = false ∧ (Instr.memoryWindowAccess 0 0 (.read 0)).wf = false ∧
    (Instr.memoryWindowAccess 0 (2 ^ 40 - 1) (.write [1, 2])).wf = false ∧ (Instr.compactionEnd ⟨10001, true⟩).wf = false ∧ (Instr.compactionAutoStart 10001).wf = false ∧
    (Instr.flockDigest 0 16 0 0 0).wf = false ∧ (Instr.flockVerdictReceived 0 (2 ^ 48) 0 0).wf = false ∧ (Instr.cleared 65536 ⟨0, 0⟩).wf = false ∧ (Instr.cleared 0 ⟨0, 2 ^ 48⟩).wf = false ∧
    (Instr.linkUp 0 .up 16384 0 0).wf = false ∧ (Instr.dawnOver 0 0).wf = false ∧ (Instr.barrierMessage 16384 true 0).wf = false ∧
    (Instr.vote 0 true (2 ^ 48) 0 false false).wf = false ∧ (Instr.prepare true (2 ^ 48) .committed).wf = false ∧ (Instr.ack 16384 true 0).wf = false ∧
    (Instr.final true (2 ^ 48) .aborted).wf = false ∧ (Instr.farQuota 12 .full 0).wf = false ∧ (Instr.saturatedClear 1).wf = false := by decide +kernel
theorem test_ill_formed_commands_rest :
    (Instr.messageArrival 0 ⟨16384, 0, .dawn, false, .barrierUp 0⟩).wf = false ∧ (Instr.remoteAccess 16384 0 .noon false (.get 0 0)).wf = false ∧
    (Instr.remoteAccess 0 0 .noon false (.put 0 0 ⟨[], [256]⟩)).wf = false ∧ (Instr.linkTransferComplete 0 ⟨[], [256]⟩).wf = false ∧
    (Instr.partialArrival ⟨256, 0, 0, [], 0, true, [0]⟩).wf = false ∧ (Instr.resultArrival ⟨0, 0, 0, [], 0, true, []⟩).wf = false ∧
    (Instr.data 0 ⟨2 ^ 48, 0, 0, 0, 0, 0, 0, 0, 0, true, true, []⟩).wf = false ∧ (Instr.hello 0 ⟨0, 0, 0, 0, 0, 0, 256, 0, 0, true, true, []⟩).wf = false ∧
    (Instr.powerInterval 65536).wf = false ∧ (Instr.thermalInterval [] [] [] []).wf = false ∧ (Instr.thermalTrip 0 false 256).wf = false ∧
    (Instr.islandOvertemp 256).wf = false ∧ (Instr.heartbeatCheck [true]).wf = false ∧ (Instr.statusRead (List.replicate 65536 0)).wf = false ∧
    (Instr.fwBegin (2 ^ 128) []).wf = false ∧ (Instr.smbusBlockRead 256).wf = false ∧ (Instr.linkReset 36).wf = false := by decide +kernel
theorem test_well_formed_commands :
    (Instr.registerWrite 0 8 .full 0).wf = true ∧ (Instr.memoryWindowAccess 0 (2 ^ 40 - 1) (.read 1)).wf = true ∧ (Instr.linkReset 35).wf = true ∧
    (Instr.cleared 65535 ⟨15, 0⟩).wf = true ∧ (Instr.compactionEnd ⟨10000, false⟩).wf = true := by decide +kernel

/-! ### Sequencer -/

theorem witness_StepRunsFront : (let s : State := { State.reset with pending := [.snapshot, .ready] }; s.pending = .snapshot :: [.ready]) ∧ State.reset.pending = [] := by decide

/-- A deposit into s5 is pending. -/
def depositing : State := up.setTile 0 { Tile.reset with flights := [⟨.vx, 0, 5, 77, true, false, .vector none none, Stake.none⟩] }
theorem witness_RegisterFiles : (5 : Nat) ≠ 0 ∧ (depositing.tile 0).flights = [⟨.vx, 0, 5, 77, true, false, .vector none none, Stake.none⟩] ∧
    ∀ f ∈ (depositing.tile 0).flights, f.sdst ≠ 6 := by decide

/-- The worked example of chapter 4: `@p2 sq.addi s4, s4, 1`, signalling k7. -/
def addi : KInsn := ⟨2, 0, 7, .aluI .add 4 4 1⟩
def addiState : State := atWord 0x040801C840000001 { Tile.reset with p := [(2, true)], s := [(4, 0xFFFFFFFFFFFFFFFF)] }
theorem witness_SequencerArithmetic_imm : SqGo 0 addi addiState ∧ addi.body = .aluI .add 4 4 1 := ⟨sqGo_of (by decide +kernel), rfl⟩
theorem witness_SequencerArithmetic_reg : SqGo 0 (plain (.alu .sel 3 2 3 2)) (atInsn (plain (.alu .sel 3 2 3 2))) := sqGo_of (by decide +kernel)
theorem test_addi_wraps : ((after (.sqAdd t0) addiState).tile 0).sreg 4 = 0 ∧ ((after (.sqAdd t0) addiState).tile 0).token 7 = 1 ∧
    ((after (.sqAdd t0) addiState).tile 0).pc = 0x1008 := by decide +kernel
/-- Two instructions of chapter 4 build the tile-store address 0x2000_C444_0000; here the second. -/
theorem test_shori : ((after (.sqShori t0) (atInsn (plain (.aluI .shori 1 1 0x4440000)) { Tile.reset with s := [(1, 0x2000C)] })).tile 0).sreg 1 = 0x2000C4440000 := by
  decide +kernel
/-- Corners of the table, by hand: a shift uses six bits; division by zero; the high products of −1 by −1; leading zeros of 0. -/
def alu (op : AluOp) (c : Instr) (a b : Word) : Word :=
  ((after c (atInsn (plain (.alu op 3 1 2 0)) { Tile.reset with s := [(1, a), (2, b)] })).tile 0).sreg 3
theorem test_alu_corners :
    alu .shl (.sqShl t0) 1 65 = 2 ∧ alu .sra (.sqSra t0) 0x8000000000000000 63 = 0xFFFFFFFFFFFFFFFF ∧ alu .shr (.sqShr t0) 0x8000000000000000 63 = 1 ∧
    alu .divu (.sqDivu t0) 7 0 = 0xFFFFFFFFFFFFFFFF ∧ alu .remu (.sqRemu t0) 7 0 = 7 ∧ alu .mulhu (.sqMulhu t0) 0xFFFFFFFFFFFFFFFF 0xFFFFFFFFFFFFFFFF = 0xFFFFFFFFFFFFFFFE ∧
    alu .mulhs (.sqMulhs t0) 0xFFFFFFFFFFFFFFFF 0xFFFFFFFFFFFFFFFF = 0 ∧ alu .clz (.sqClz t0) 0 0 = 64 ∧ alu .popc (.sqPopc t0) 0xFF01 0 = 9 ∧
    alu .min (.sqMin t0) 0xFFFFFFFFFFFFFFFF 1 = 0xFFFFFFFFFFFFFFFF ∧ alu .minu (.sqMinu t0) 0xFFFFFFFFFFFFFFFF 1 = 1 := by decide +kernel

theorem witness_SequencerComparison : SqGo 0 (plain (.cmp .lt 2 6 7)) (atInsn (plain (.cmp .lt 2 6 7))) ∧ CmpOp.lt.onPreds = false ∧
    SqGo 0 (plain (.cmp .pandn 2 6 7)) (atInsn (plain (.cmp .pandn 2 6 7))) ∧ CmpOp.pandn.onPreds = true ∧
    SqGo 0 (plain (.cmpI .tst 1 4 (-1))) (atInsn (plain (.cmpI .tst 1 4 (-1)))) :=
  ⟨sqGo_of (by decide +kernel), rfl, sqGo_of (by decide +kernel), rfl, sqGo_of (by decide +kernel)⟩
def cmp (op : CmpOp) (c : Instr) (a b : Word) : Bool :=
  ((after c (atInsn (plain (.cmp op 3 1 2)) { Tile.reset with s := [(1, a), (2, b)], p := [(1, true)] })).tile 0).preg 3
/-- −0 and +0 are equal, a NaN is in no order, −1 is below 0 by sign alone, and pandn takes p1 without p2. -/
theorem test_cmp_corners : cmp .flt (.sqFlt t0) 0x80000000 0 = false ∧ cmp .fge (.sqFge t0) 0x80000000 0 = true ∧ cmp .flt (.sqFlt t0) 0x7FC00000 0 = false ∧
    cmp .fge (.sqFge t0) 0x7FC00000 0 = false ∧ cmp .lt (.sqLt t0) 0xFFFFFFFFFFFFFFFF 0 = true ∧ cmp .ltu (.sqLtu t0) 0xFFFFFFFFFFFFFFFF 0 = false ∧
    cmp .fnf (.sqFnf t0) 0x7F800000 0 = true ∧ cmp .pandn (.sqPandn t0) 0 0 = true := by decide +kernel

def bnz : KInsn := ⟨0, 4, 0, .br false .nz 5 0 (-2)⟩
def bnzState (v : Word) : State := atWord 0x1000400A13FFFFFE { Tile.reset with s := [(5, v)], tok := [(4, 1)] }
theorem witness_SequencerBranches_taken : SqGo 0 bnz (bnzState 1) ∧ condTable .nz ((bnzState 1).readS 0 5).1 ((bnzState 1).tile 0 |>.preg 0) = true ∧
    ((((bnzState 1).tile 0).pc : Int) + 8 * (-2 : BitVec 26).toInt) % 2 ^ 48 = 0xFF0 := ⟨sqGo_of (by decide +kernel), by decide +kernel, by decide +kernel⟩
theorem witness_SequencerBranches_not : SqGo 0 bnz (bnzState 0) ∧ condTable .nz ((bnzState 0).readS 0 5).1 ((bnzState 0).tile 0 |>.preg 0) = false :=
  ⟨sqGo_of (by decide +kernel), by decide +kernel⟩
theorem witness_SequencerBranches_reg : SqGo 0 (plain (.jr 2)) (atInsn (plain (.jr 2)) { Tile.reset with a := [(2, 2 ^ 40 - 1)] }) ∧
    ((atInsn (plain (.jr 2)) { Tile.reset with a := [(2, 2 ^ 40 - 1)] }).tile 0 |>.areg 2).toNat < 2 ^ 40 ∧ SqGo 0 (plain .ret) (atInsn (plain .ret)) ∧
    ((atInsn (plain .ret)).tile 0 |>.areg 15).toNat < 2 ^ 40 := ⟨sqGo_of (by decide +kernel), by decide +kernel, sqGo_of (by decide +kernel), by decide +kernel⟩
theorem test_branch_back : ((after (.sqB t0) (bnzState 1)).tile 0).pc = 0xFF0 ∧ ((after (.sqB t0) (bnzState 0)).tile 0).pc = 0x1008 := by decide +kernel
theorem test_call_links : ((after (.sqCall t0) (atInsn (plain (.br true .always 0 0 4)))).tile 0).areg 15 = 0x1008 := by decide +kernel

theorem witness_SequencerTokens : SqGo 0 ⟨0, 9, 9, .tset 9 4⟩ (atInsn ⟨0, 9, 9, .tset 9 4⟩ { Tile.reset with tok := [(9, 1)] }) ∧
    SqGo 0 (plain (.tadd 9 255)) (atInsn (plain (.tadd 9 255))) ∧ SqGo 0 (plain (.tget 1 63)) (atInsn (plain (.tget 1 63))) :=
  ⟨sqGo_of (by decide +kernel), sqGo_of (by decide +kernel), sqGo_of (by decide +kernel)⟩
theorem test_tset_then_signal : ((after (.sqTset t0) (atInsn ⟨0, 9, 9, .tset 9 4⟩ { Tile.reset with tok := [(9, 1)] })).tile 0).token 9 = 5 := by decide +kernel
theorem test_tadd_stops_at_255 : ((after (.sqTadd t0) (atInsn (plain (.tadd 9 255)) { Tile.reset with tok := [(9, 7)] })).tile 0).token 9 = 255 ∧
    ((after (.sqTadd t0) (atInsn (plain (.tadd 9 255)) { Tile.reset with tok := [(9, 7)] })).tile 0).tokenSat = true := by decide +kernel

/-- One state for each system minor: a full VX queue holds neither a fence of the other queues nor halt. -/
theorem witness_SequencerSystem : SqGo 0 (plain .nop) (atInsn (plain .nop)) ∧ SqGo 0 (plain (.halt 1)) (atInsn (plain (.halt 1))) ∧
    SqGo 0 (plain (.fence 13)) (atInsn (plain (.fence 13))) ∧ SqGo 0 (plain (.event 1)) (atInsn (plain (.event 1))) ∧
    SqGo 0 (plain (.mode true)) (atInsn (plain (.mode true))) ∧ SqGo 0 (plain (.setvl 1 2)) (atInsn (plain (.setvl 1 2))) ∧ SqGo 0 (plain .icinv) (atInsn (plain .icinv)) ∧
    SqGo 0 (plain (.icpf 1 2)) (atInsn (plain (.icpf 1 2))) :=
  ⟨sqGo_of (by decide +kernel), sqGo_of (by decide +kernel), sqGo_of (by decide +kernel), sqGo_of (by decide +kernel), sqGo_of (by decide +kernel),
    sqGo_of (by decide +kernel), sqGo_of (by decide +kernel), sqGo_of (by decide +kernel)⟩
theorem witness_SequencerSystem_queues : (∀ q ∈ [Queue.mx, .vx, .dv, .lk], ((atInsn (plain (.fence 13))).tile 0).queueBusy q = false) ∧
    ((atInsn (plain (.event 1))).tile 0).cached (0x1008 / 256) = true ∧ ((atInsn (plain (.icpf 1 2))).readS 0 2).1.toNat = 0 ∧
    ((atInsn (plain (.icpf 1 2)) { Tile.reset with s := [(2, 256)] }).readS 0 2).1.toNat ≠ 0 := by decide +kernel
theorem test_halt : ((after (.sqHalt t0) (atInsn (plain (.halt 1)) { Tile.reset with s := [(1, 0x1_0000_0007)] })).tile 0).haltCode = 7 ∧
    ((after (.sqHalt t0) (atInsn (plain (.halt 1)))).tile 0).seq = .draining := by decide +kernel
theorem test_setvl : ((after (.sqSetvl t0) (atInsn (plain (.setvl 1 2)) { Tile.reset with s := [(2, 5000)] })).tile 0).vl = 4096 := by decide +kernel

/-- One line of an icpf on its way, in HBM; and one in a region that is not mapped. -/
def prefetching (l : Nat) : State := up.setTile 0 { Tile.reset with flights := [⟨.sq, 9, 0, 0, false, false, .icpf [l], Stake.none⟩] }
theorem witness_IcpfCompletes : (prefetching 5).gated 0 = false ∧ ((prefetching 5).tile 0).flights = [⟨.sq, 9, 0, 0, false, false, .icpf [5], Stake.none⟩] ∧
    (prefetching 5).fillEngine 0 ≠ none ∧ (prefetching 5).lineHeld 0 5 = false ∧ (∀ k, (prefetching 5).locate (.tile 0) false (256 * 5) ≠ .fault k) ∧ (prefetching (2 ^ 22)).locate (.tile 0) false (256 * 2 ^ 22) = .fault 0 ∧
    (prefetching (2 ^ 22)).flag .idAddrFault [] 63 = false := by
  refine ⟨by decide +kernel, by decide +kernel, by decide +kernel, by decide +kernel, fun k => ?_, by decide +kernel, by decide +kernel⟩
  rw [show (prefetching 5).locate (.tile 0) false (256 * 5) = .mem 0x500 by decide +kernel]
  exact fun h => nomatch h
/-- A line of the control range, and a paddock tile on a die that has main engines alone. -/
theorem witness_IcpfCompletes_rest : (prefetching 0x3000000000).locate (.tile 0) false (256 * 0x3000000000) = .ctl 0 ∧
    (up.setTile 1 Tile.reset).fillEngine 1 = none := by decide +kernel
/-- A line of the flash window is filled like any other (R150). -/
theorem test_icpf_flash : ((after (.icpfComplete t0) ((prefetching (0x400000000000 / 256)).setReg .drvFlashCtrl [] (2 ^ 63) |>.setReg .drvFlashStatus [] (2 ^ 63))).tile 0).cached
    (0x400000000000 / 256) = true := by decide +kernel
theorem test_icpf_fills : ((after (.icpfComplete t0) (prefetching 5)).tile 0).cached 5 = true ∧ ((after (.icpfComplete t0) (prefetching 5)).tile 0).token 9 = 1 := by decide +kernel

theorem witness_SequencerMoves : SqGo 0 (plain (.mov .aa 2 2 64)) (atInsn (plain (.mov .aa 2 2 64))) ∧ SqGo 0 (plain (.mov .ssys 2 6 0)) (atInsn (plain (.mov .ssys 2 6 0))) ∧
    SqGo 0 (plain (.mov .dd 31 0 0)) (atInsn (plain (.mov .dd 31 0 0))) := ⟨sqGo_of (by decide +kernel), sqGo_of (by decide +kernel), sqGo_of (by decide +kernel)⟩
theorem test_mov_wraps : ((after (.sqMov t0) (atInsn (plain (.mov .aa 2 2 64)) { Tile.reset with a := [(2, 2 ^ 48 - 1)] })).tile 0).areg 2 = 63 := by decide +kernel

def memState (op : MemOp) (a : Nat) : State := atInsn (plain (.mem op 7 3 0)) { Tile.reset with a := [(3, BitVec.ofNat 48 a)], s := [(7, 0x8182838485868788)] }
theorem witness_SequencerMemory : SqGo 0 (plain (.mem .st64 7 3 0)) (memState .st64 0x2000003FFFF8) ∧ 0x2000003FFFF8 % 8 = 0 ∧ inTileStore 0 0x2000003FFFF8 8 = true ∧
    SqGo 0 (plain (.mem .lda 7 3 0)) (memState .lda 0x200000000000) ∧ SqGo 0 (plain (.mem .ld16s 7 3 0)) (memState .ld16s 0x200000000000) ∧
    inTileStore 0 0x200000400000 1 = false := ⟨sqGo_of (by decide +kernel), by decide, by decide +kernel, sqGo_of (by decide +kernel), sqGo_of (by decide +kernel), by decide +kernel⟩
/-- A group's spill slot may not be stored to; a vector write in flight to the line of the load. -/
def spilling : State := up.setTile 0 { Tile.reset with groups := [(2, { Group.reset with st := .opened, interval := 1, slot := 0x200000000000 })] }
def racing (op : MemOp) : State := (memState op 0x200000000010).setTile 0 { (memState op 0x200000000010).tile 0 with
  flights := [⟨.vx, 0, 0, 0, false, false, .vector none none, ⟨[], [], [(0x200000000010, List.replicate 16 7)], [], [], false⟩⟩] }
theorem witness_SequencerMemory_breach : spilling.storeBreach (scalarAddrs 0x200000000010 8) = some (.ub 23) ∧
    (memState .st64 0x2000003FFFF8).storeBreach (scalarAddrs 0x2000003FFFF8 8) = none ∧ Alone (memState .st64 0x2000003FFFF8) (.sq 0) (scalarAddrs 0x2000003FFFF8 8) ∧
    racedUnits ((racing .ld64).stakesBut (.sq 0)) (scalarAddrs 0x200000000010 8) = [(0x200000000010, List.replicate 16 7)] :=
  ⟨by decide +kernel, by decide +kernel, by unfold Alone; decide +kernel, by decide +kernel⟩
theorem test_store_is_little_endian : (after (.sqStore t0) (memState .st32 0x200000000010)).bytes 0x200000000010 5 = [0x88, 0x87, 0x86, 0x85, 0] := by decide +kernel
theorem test_misaligned_stops : stop (.sqStore t0) (memState .st32 0x200000000012) = some (.undefined (.ub 17)) := by decide +kernel

def dState (b : KBody) : State := atInsn (plain b) { Tile.reset with a := [(1, 0x2000003FFFE0)], s := [(2, 5)] }
theorem witness_SequencerDescriptors : SqGo 0 (plain (.dld 4 1 0)) (dState (.dld 4 1 0)) ∧ 0x2000003FFFE0 % 32 = 0 ∧ inTileStore 0 0x2000003FFFE0 32 = true ∧
    SqGo 0 (plain (.dst 4 1 0)) (dState (.dst 4 1 0)) ∧ SqGo 0 (plain (.dset 4 2 13 (-6))) (dState (.dset 4 2 13 (-6))) ∧ SqGo 0 (plain (.dget 3 4 13)) (dState (.dget 3 4 13)) ∧
    SqGo 0 (plain (.dadd 4 2 (-6))) (dState (.dadd 4 2 (-6))) ∧ inTileStore 0 0x200000400000 32 = false :=
  ⟨sqGo_of (by decide +kernel), by decide, by decide +kernel, sqGo_of (by decide +kernel), sqGo_of (by decide +kernel), sqGo_of (by decide +kernel), sqGo_of (by decide +kernel),
    by decide +kernel⟩
theorem test_dadd_wraps : ((after (.sqDadd t0) (dState (.dadd 4 2 (-6)))).tile 0).dreg 4 = 2 ^ 48 - 1 := by decide +kernel

def engInsn (op : EngOp) (p : Fin 8) : KInsn := ⟨p, 3, 4, .eng op 0 0 0 0⟩
theorem witness_EngineDispatch : (atInsn (engInsn (.vx .add) 0)).fetch 0 = .insn (engInsn (.vx .add) 0) ∧
    ((atInsn (engInsn (.vx .add) 0)).tile 0).queue (engQueue (.vx .add)) = [] ∧ (atInsn (engInsn (.vxl .add) 0)).fetch 0 = .insn (engInsn (.vxl .add) 0) ∧
    ((atInsn (engInsn (.vxl .add) 0)).tile 0).mode = false ∧ ((atInsn (engInsn (.vxl .add) 0)).tile 0).preg 0 = true ∧
    (atInsn (engInsn (.vxl .add) 1)).fetch 0 = .insn (engInsn (.vxl .add) 1) ∧ ((atInsn (engInsn (.vxl .add) 1)).tile 0).preg 1 = false := by decide +kernel
theorem test_dispatch_copies : (((after (.engineDispatch t0) (atInsn ⟨0, 3, 4, .eng (.vx .add) 31 0 0 0⟩ { Tile.reset with d := [(31, 7), (0, 8)] })).tile 0).qVx.map
    (fun e => (e.dA, e.eA, e.wait))) = [(7, 8, 3)] := by decide +kernel

theorem witness_PredicateOff : (let i : KInsn := ⟨1, 3, 4, .aluI .add 4 4 1⟩; let s := atInsn i { Tile.reset with tok := [(3, 1)] };
    s.fetch 0 = .insn i ∧ (s.tile 0).tokenReady 3 = true ∧ (s.tile 0).preg 1 = false ∧ (s.tile 0).pc + 8 < 2 ^ 40) := by decide +kernel
/-- An engine instruction whose predicate was 0, at the head of its queue: its token there, and not there. -/
def offE (w : Nat) : QEntry := ⟨.vx .add, false, w, 4, 0, 0, 0, 0, 0, 0, 0, 0, 0, 0, 0, 0, 0, false, 0⟩
def offState (w : Nat) : State := up.setTile 0 { Tile.reset with seq := .running, qVx := [offE w], tok := [(3, 1)] }
theorem witness_PredicateOff_engine : (∀ w ∈ [0, 3, 5], (((offState w).tile 0).queue (engQueue (offE w).op)).head? = some (offE w) ∧ ((offState w).tile 0).seq ≠ .stopped ∧
      (offState w).gated 0 = false ∧ ((offState w).tile 0).unitFree (engQueue (offE w).op) = true ∧ engQueue (offE w).op ≠ .lk) ∧ ((offState 5).tile 0).tokenReady 5 = false ∧
    ((offState 3).tile 0).tokenReady 3 = true ∧ (offState 3).outranked 0 .vx 3 = false ∧ (offE 3).pred = false := by decide +kernel
theorem test_predicate_off_engine : ((after (.vxAdd t0) (offState 3)).tile 0).qVx = [] ∧ ((after (.vxAdd t0) (offState 3)).tile 0).token 3 = 0 ∧
    ((after (.vxAdd t0) (offState 3)).tile 0).token 4 = 1 := by decide +kernel
theorem test_predicate_off : (let i : KInsn := ⟨1, 3, 4, .aluI .add 4 4 1⟩; let x := (after (.sqAdd t0) (atInsn i { Tile.reset with tok := [(3, 1)] })).tile 0;
    x.sreg 4 = 0 ∧ x.token 3 = 0 ∧ x.token 4 = 1) := by decide +kernel

theorem witness_SequencerHolds : (let i : KInsn := ⟨0, 3, 4, .aluI .add 4 4 1⟩; (atInsn i).fetch 0 = .insn i ∧ ((atInsn i).tile 0).tokenReady 3 = false) ∧
    (up.tile 0).seq ≠ .running ∧ (let s := atWord 0x0280000221800000; (s.tile 0).seq = .running ∧ s.gated 0 = false ∧ (s.tile 0).cached ((s.tile 0).pc / 256) = true ∧
      s.lineWritten ((s.tile 0).pc / 256) (s.tile 0).icGen = false ∧ kDecode (BitVec.ofNat 64 (leVal ((((s.tile 0).lineBytes ((s.tile 0).pc / 256)).drop ((s.tile 0).pc % 256)).take 8))) = none) ∧
    (let s := (atInsn (plain .nop)).setTile 0 { (atInsn (plain .nop)).tile 0 with icGen := 0 }; s.gated 0 = false ∧
      s.lineWritten ((s.tile 0).pc / 256) (s.tile 0).icGen = true) := by decide +kernel

/-- Whether a command leads to a next state. -/
def nexts (c : Instr) (s : State) : Bool := match exec c s with
  | .next _ => true
  | _ => false
theorem next_of {c : Instr} {s : State} (h : nexts c s = true) : exec c s = .next (after c s) := by
  unfold nexts at h
  unfold after
  split at h
  · rename_i e; rw [e]
  · exact absurd h (by decide)
theorem witness_SequencerFrame : exec (sqCmd 0 (.aluI .add 4 4 1)) (atInsn (plain (.aluI .add 4 4 1))) = .next (after (sqCmd 0 (.aluI .add 4 4 1)) (atInsn (plain (.aluI .add 4 4 1)))) ∧
    exec (sqCmd 0 (.dst 4 1 0)) (dState (.dst 4 1 0)) = .next (after (sqCmd 0 (.dst 4 1 0)) (dState (.dst 4 1 0))) :=
  ⟨next_of (by decide +kernel), next_of (by decide +kernel)⟩
/-! ### Registers, tiles, regions -/

/-- Whether a host write reaches its register. -/
def opens (port : Nat) (n : RegName) (idx : List Nat) (acc : Acc) (v : Nat) (s : State) : Bool :=
  s.hostUp port && acc != .other && (s.isReady || earlyBlock (regOff n idx)) && (accBits acc v &&& (regRow n).rsv) == 0 && s.net.outbox.isEmpty && s.net.ready.isEmpty && s.breach.isNone

theorem hostOpen_of {port : Nat} {n : RegName} {idx : List Nat} {acc : Acc} {v : Nat} {s : State} (h : opens port n idx acc v s = true) :
    HostOpen port n idx acc v s := by
  simp only [opens, Bool.and_eq_true, Bool.or_eq_true, bne_iff_ne, ne_eq, beq_iff_eq, List.isEmpty_iff, Option.isNone_iff_eq_none] at h
  exact ⟨h.1.1.1.1.1.1, h.1.1.1.1.1.2, h.1.1.1.1.2, h.1.1.1.2, h.1.1.2, h.1.2, h.2⟩

/-- The module powered and not yet READY. -/
def early : State := { State.reset with isl := { Island.reset with powered := true } }

theorem witness_RegisterWrites : up.hostUp 0 = true ∧ up.hostUp 1 = true ∧ regFind 0x3FFFFF8 = none ∧ regFind (regOff .denRouteCtrl []) = some (.denRouteCtrl, []) ∧
    early.hostUp 0 = true ∧ early.isReady = false ∧ earlyBlock (regOff .denRouteCtrl []) = false ∧ up.isReady = true ∧
    accBits .full (2 ^ 63) &&& (regRow .idMemwin).rsv ≠ 0 ∧ State.reset.hostUp 0 = false := by decide +kernel
theorem witness_RegisterWrites_plain : (∀ n ∈ [RegName.denArb, .farTimers, .farOuter, .farApplyCfg, .ledNormTh, .evtModerate], regFind (regOff n []) = some (n, []) ∧ opens 0 n [] .low 0 up = true) ∧
    regFind (regOff .drvDigestOrigin [63]) = some (.drvDigestOrigin, [63]) ∧ opens 1 .idMemwin [1] .full 0 up = true ∧
    regFind (regOff .idMemwin [1]) = some (.idMemwin, [1]) := by decide +kernel
/-- The registers with rules of their own, each of them reached, each rule with a write that meets it and one that does not. -/
theorem witness_RegisterWrites_own : (∀ n ∈ [RegName.drvHostBufBase, .drvHostBufSize, .drvQueueBase, .idWringBase, .drvDigestLo, .drvDigestHi, .farStaleW],
      regFind (regOff n [3]) = some (n, [3]) ∧ opens 0 n [3] .low 0 up = true) ∧
    ∀ n ∈ [RegName.evtRingBase, .ledDigestKeyLo, .ledDigestKeyHi, .ledBase, .ledCommit, .ledStep, .farRound, .farNextEnd, .farArea, .farSeg],
      regFind (regOff n []) = some (n, []) ∧ opens 0 n [] .full 0 up = true := by decide +kernel
/-- A queue, a write ring, the event ring, the ledger and the far exchange, enabled. -/
def working : State := ((((up.setReg .drvQueueCtrl [3] 1).setReg .idWringCtrl [3] (2 ^ 63)).setReg .evtRingCtrl [] (2 ^ 63)).setReg .ledBase [] (2 ^ 63)).setReg .farCfg [] (2 ^ 63)
/-- Whether a write of 4096 changes a register. -/
def moves (n : RegName) (idx : List Nat) (s : State) : Bool := (s.setReg n idx (ctlMerge n .full (s.reg n idx) 4096)).reg n idx != s.reg n idx
theorem witness_RegisterWrites_busy : opens 0 .drvQueueBase [3] .full 4096 working = true ∧ opens 0 .idWringBase [3] .full 4096 working = true ∧
    opens 0 .evtRingBase [] .full 4096 working = true ∧ opens 0 .farRound [] .full 4096 working = true ∧ moves .drvQueueBase [3] working = true ∧
    moves .idWringBase [3] working = true ∧ moves .evtRingBase [] working = true ∧ moves .farRound [] working = true ∧ moves .farSeg [] working = true ∧
    opens 0 .farSeg [] .full 4096 working = true ∧ working.queueOn 3 = true ∧ up.queueOn 3 = false ∧ up.queueHead 3 = up.queueTail 3 ∧ working.flag .idWringCtrl [3] 63 = true ∧
    working.flag .evtRingCtrl [] 63 = true ∧ working.farOn = true ∧ up.farOn = false ∧ up.wstate = 0 ∧ up.digBusy (some 3) = false ∧ up.digBusy none = false ∧
    moves .ledDigestKeyLo [] up = true := by decide +kernel
theorem witness_RegisterWrites_base : opens 0 .ledBase [] .full (2 ^ 63 + 2 ^ 21) working = true ∧ working.flag .ledBase [] 63 = true ∧ opens 0 .ledBase [] .full 0 working = true ∧
    (working.setReg .ledBase [] (ctlMerge .ledBase .full (working.reg .ledBase []) (2 ^ 63 + 2 ^ 21))).flag .ledBase [] 63 = true ∧
    (working.setReg .ledBase [] (ctlMerge .ledBase .full (working.reg .ledBase []) (2 ^ 63 + 2 ^ 21))).reg .ledBase [] ≠ working.reg .ledBase [] ∧
    (working.setReg .ledBase [] (ctlMerge .ledBase .full (working.reg .ledBase []) 0)).flag .ledBase [] 63 = false ∧ up.flag .ledBase [] 63 = false := by decide +kernel
theorem test_base_while_enabled : stop (.registerWrite 0 (regOff .drvQueueBase [3]) .full 4096) working = some (.undefined (.ub 36)) ∧
    stop (.registerWrite 0 (regOff .farStaleW [3]) .low 0xBF800000) up = some (.undefined (.ub 53)) ∧
    (after (.registerWrite 0 (regOff .drvQueueBase [3]) .full 4096) up).reg .drvQueueBase [3] = 4096 := by decide +kernel
/-- R12: a write of the upper half keeps the lower half; a reserved bit written 1 is UB-01; an access of another size UB-02; before READY a write is ignored. -/
theorem test_register_halves :
    ((after (.registerWrite 0 (regOff .ledNormTh []) .high 0x3F80000040000000) (up.setReg .ledNormTh [] 0x12345678)).reg .ledNormTh []) = 0x4000000012345678 ∧
    stop (.registerWrite 0 (regOff .idMemwin [0]) .full 0xFFFFFFFFFFFFFFFF) up = some (.undefined (.ub 1)) ∧
    stop (.registerWrite 0 (regOff .idMemwin [0]) .other 0) up = some (.undefined (.ub 2)) ∧ after (.registerWrite 0 (regOff .ledNormTh []) .full 1) early = early := by decide +kernel
theorem witness_RegisterReads : up.hostUp 0 = true ∧ Acc.low ≠ .other ∧ regFind 0x3FFFFF8 = none := by decide +kernel
/-- Reading an undefined offset answers 0. -/
theorem test_read_undefined : (after (.rcRegisterRead 1 0x3FFFFF8 .full) up).out = [.regData 1 0] := by decide +kernel

/-- Tile 0 going, and tile 0 at its end. -/
def going : State := up.setTile 0 { Tile.reset with seq := .running, tok := [(5, 3)] }
def ending (c : StopCause) : State := up.setTile 0 { Tile.reset with seq := .draining, cause := c, haltCode := 7 }
theorem witness_TileControl : HostOpen 0 .tileSeqCtrl (tix t0) .full 1 up ∧ up.tileRunning 0 = false ∧ up.startForbidden 0 = false ∧
    up.reg .tileStartPc (tix t0) < 2 ^ 40 ∧ HostOpen 0 .tileSeqCtrl (tix t0) .full 2 going ∧ going.tileRunning 0 = true ∧ up.startForbidden 2 = true ∧ up.startForbidden 1 = true ∧
    HostOpen 0 .tileStartPc (tix t0) .low 8 going ∧ HostOpen 0 .tileToken (tix t0 ++ [7]) .high 8 up ∧ HostOpen 0 .tileToken (tix t0 ++ [0]) .full 8 going :=
  ⟨hostOpen_of (by decide +kernel), by decide +kernel, by decide +kernel, by decide +kernel, hostOpen_of (by decide +kernel), by decide +kernel, by decide +kernel,
    by decide +kernel, hostOpen_of (by decide +kernel), hostOpen_of (by decide +kernel), hostOpen_of (by decide +kernel)⟩
theorem witness_TileControl_end : (∀ c ∈ [StopCause.halt, .fetchFault, .stop], ((ending c).tile 0).seq = .draining ∧ (ending c).gated 0 = false ∧ ((ending c).tile 0).drained = true ∧
    ((ending c).tile 0).cause = c) ∧ (going.tile 0).seq ≠ .stopped ∧ going.gated 0 = false ∧ (going.setReg .tileWatchdog (tix 0) 1).rf .tileWatchdog (tix 0) 0 32 ≠ 0 := by
  decide +kernel
/-- A tile of slice 0 does not start (R44); one of slice 1 does, at START_PC, with its tokens. -/
theorem test_start : ((after (.tileStart 2) up).tile 2).writeReject = true ∧ ((after (.tileStart 2) up).tile 2).seq = .stopped ∧
    ((after (.tileStart t0) ((up.setReg .tileStartPc (tix 0) 0x2000).setTile 0 { Tile.reset with tok := [(5, 3)], vl := 9 })).tile 0).pc = 0x2000 ∧
    ((after (.tileStart t0) ((up.setReg .tileStartPc (tix 0) 0x2000).setTile 0 { Tile.reset with tok := [(5, 3)], vl := 9 })).tile 0).token 5 = 3 ∧
    ((after (.tileStart t0) ((up.setReg .tileStartPc (tix 0) 0x2000).setTile 0 { Tile.reset with tok := [(5, 3)], vl := 9 })).tile 0).vl = 0 := by decide +kernel
theorem test_stop_and_stall : ((after (.tileStop t0) going).tile 0).cause = .stop ∧ ((after (.tileStop t0) going).tile 0).seq = .draining ∧
    ((after (.tileStall t0) (going.setReg .tileWatchdog (tix 0) 1)).tile 0).watchdog = true ∧ ((after (.tileHalt t0) (ending .halt)).tile 0).seq = .stopped := by decide +kernel
/-- Token register 0: a write of bytes 1 to 7, and k0 stays 0. -/
theorem test_token_write : ((after (.tokenWrite t0 0 .full 0x0706050403020109) up).tile 0).token 7 = 7 ∧ ((after (.tokenWrite t0 0 .full 0x0706050403020109) up).tile 0).token 0 = 0 ∧
    ((after (.tokenWrite t0 0 .full 1) going).tile 0).writeReject = true := by decide +kernel

/-- A line on its way: in HBM, in a region that is not mapped for execution, and the next line of one. -/
def filling (l : Nat) (ex : Bool) : State := up.setTile 0 { Tile.reset with seq := .running, icReq := [⟨l, ex⟩] }
theorem witness_CacheFill : (filling 16 true).gated 0 = false ∧ ((filling 16 true).tile 0).icReq = [⟨16, true⟩] ∧ (filling 16 true).lineFaults 0 16 = false ∧
    (filling 16 true).fillEngine 0 ≠ none ∧ (filling 16 true).rdHeld (.tile 0) (lineAddrs 16) = false ∧
    (let s := { filling 16 true with isl := { (filling 16 true).isl with running := (List.range 8).map (fun d => ⟨3, d, 3, false⟩) } }; s.gated 0 = false ∧ s.rdHeld (.tile 0) (lineAddrs 16) = true) ∧
    (filling 0x400000 true).lineFaults 0 0x400000 = true ∧ ((filling 0x400000 true).tile 0).seq = .running ∧ (filling 0x400000 false).lineFaults 0 0x400000 = true := by decide +kernel
/-- The fifth line of a set displaces the oldest. -/
theorem test_fifth_line : ((after (.icacheLineFill t0) (up.setTile 0 { Tile.reset with seq := .running, icReq := [⟨256, true⟩], icache := [64, 128, 192, 0, 1].map (fun l => (l, [])) })).tile 0).icache.map Prod.fst =
    [256, 64, 128, 192, 1] := by decide +kernel

/-- Eight tiles in the paddock's slice, tiles 8 to 15. -/
def herd : State := (List.range 8).foldl (fun s p => s.setReg .tileTileCfg [0, 8 + p] 63) (up.setReg .tileTileCfg [0, 1] 1)
/-- The paddock enabled over them. -/
def fenced : State := herd.setRf .idPaddock [] 16 1 1
theorem witness_SlicesAndRegions_cfg : HostOpen 0 .tileTileCfg (tix t0) .full 5 up ∧ up.present 0 = true ∧ up.tileRunning 0 = false ∧ up.paddockOn = false ∧
    HostOpen 0 .tileTileCfg (tix t0) .full 63 fenced ∧ fenced.paddockOn = true ∧ fenced.slice 0 ≠ 63 ∧ HostOpen 0 .tileTileCfg (tix t0) .full 5 going ∧ going.tileRunning 0 = true :=
  ⟨hostOpen_of (by decide +kernel), by decide +kernel, by decide +kernel, by decide +kernel, hostOpen_of (by decide +kernel), by decide +kernel, by decide +kernel,
    hostOpen_of (by decide +kernel), by decide +kernel⟩
theorem witness_SlicesAndRegions_paddock : HostOpen 0 .idPaddock [] .low 0x10000 herd ∧ (0x10000 : Nat).testBit 16 = true ∧ (0x10000 : Nat).testBit 20 = false ∧ HostOpen 0 .idPaddock [] .full 0 fenced :=
  ⟨hostOpen_of (by decide +kernel), by decide, by decide, hostOpen_of (by decide +kernel)⟩
/-- Clearing ENABLE while a paddock tile runs: ENABLE stays, ERR reads 0b11 (R49). -/
theorem test_paddock_stays : (let s := after (.paddockEnableWrite .full 0) (fenced.setTile 8 { Tile.reset with seq := .running }); s.paddockOn = true ∧ s.rf .idPaddock [] 18 2 = 3) := by decide +kernel
/-- R46: a running tile's write, and a move into the paddock while it is enabled, set CFG_REJECT. -/
theorem test_cfg_reject : ((after (.tileCfgWrite t0 .full 5) going).tile 0).cfgReject = true ∧ ((after (.tileCfgWrite t0 .full 63) fenced).tile 0).cfgReject = true ∧
    (after (.tileCfgWrite t0 .full 5) up).slice 0 = 5 := by decide +kernel
theorem witness_SlicesAndRegions_regions : HostOpen 0 .idHbmRegion [1] .full 0 up ∧ HostOpen 0 .idHbmRegion [1] .low 0 up ∧ HostOpen 0 .idHbmRegion [1] .full 0x20000 fenced ∧
    fld (fenced.reg .idHbmRegion [1]) 17 1 ≠ fld (ctlMerge .idHbmRegion .full (fenced.reg .idHbmRegion [1]) 0x20000) 17 1 ∧
    up.regionBad 1 (ctlMerge .idHbmRegion .full (up.reg .idHbmRegion [1]) 0x40000) = true ∧ up.regionBad 1 0 = false ∧ up.regionBusy 1 = false :=
  ⟨hostOpen_of (by decide +kernel), hostOpen_of (by decide +kernel), hostOpen_of (by decide +kernel), by decide +kernel, by decide +kernel, by decide +kernel, by decide +kernel⟩
theorem test_region_frame_twice : stop (.hbmRegionWrite 1 .full 0x40000) up = some (.undefined (.ub 4)) ∧ stop (.hbmRegionWrite 1 .low 0) up = some (.undefined .r4) ∧
    (after (.hbmRegionWrite 1 .full 0x20000) fenced).rf .idPaddock [] 20 1 = 1 := by decide +kernel

/-- The worked example of chapter 2: padded BF16 weights at tile-store offset 0x4_0000 of tile 17 on die 3. -/
def example2 : Desc := BitVec.ofNat 256 (0x02512000C4440000 + 0x0000080002000041 * 2 ^ 64 + 0x0000020800000000 * 2 ^ 128)
theorem test_descriptor_example : (match Tens.ofDesc example2 with
    | .ok d => d.base == 0x2000C4440000 && d.fmt == .bf16 && d.ledgerEn && d.ledger == 37 && d.rank == 1 && d.e0 == 512 && d.e1 == 128 && d.s1 == 520 && d.e2 == 1 &&
        (d.addr ⟨5, 3, 0, 0⟩).1 == 0x2000C4440C3A
    | .error _ => false) = true := by decide +kernel

/-! ### Engines -/

/-- A descriptor of one or two dimensions, field by field from the table of R72. -/
def mkDesc (base fmt rank e0 e1 s1 : Nat) (place : Nat := 0) : Desc :=
  BitVec.ofNat 256 (base + fmt * 2 ^ 48 + place * 2 ^ 65 + rank * 2 ^ 70 + e0 * 2 ^ 80 + e1 * 2 ^ 100 + s1 * 2 ^ 160)
theorem test_mkDesc : (mkDesc 0x2000C4440000 1 1 512 128 520).toNat + (0x025 * 2 ^ 52 + 2 ^ 64) = 0x02512000C4440000 + 0x0000080002000041 * 2 ^ 64 + 0x0000020800000000 * 2 ^ 128 := by decide +kernel

/-- A queued engine instruction with signal k9. -/
def entry (op : EngOp) (ctrl : Nat) (a b c d : Desc) (sv : Word := 0) (vl : Nat := 0) : QEntry :=
  ⟨op, true, 0, 9, 0, 0, 0, ctrl, a, b, c, d, 0, 0, 0, 0, sv, false, vl⟩

/-- Whether the head of a queue may issue. -/
def ready (t : Nat) (q : Queue) (e : QEntry) (s : State) : Bool :=
  ((s.tile t).queue q).head? == some e && (s.tile t).seq != .stopped && !s.gated t && (s.tile t).tokenReady e.wait && !s.outranked t q e.wait && e.pred

theorem engGo_of {t : Nat} {q : Queue} {e : QEntry} {s : State} (h : ready t q e s = true) : EngGo t q e s := by
  simp only [ready, Bool.and_eq_true, beq_iff_eq, bne_iff_ne, ne_eq, Bool.not_eq_true'] at h
  exact ⟨h.1.1.1.1.1, h.1.1.1.1.2, h.1.1.1.2, h.1.1.2, h.1.2, h.2⟩

/-- Tile 0 with one matrix instruction and group 3 in a state. -/
def mxState (e : QEntry) (g : Group) (fs : List Flight := []) (st : Option Staging := none) : State :=
  up.setTile 0 { Tile.reset with seq := .running, qMx := [e], groups := [(3, g)], flights := fs, staging := st }
def opened : Group := { Group.reset with st := .opened, passes := 1 }
def ctrlG3 : Nat := 3 * 2 ^ 20
def openE : QEntry := entry (.mx .open) (ctrlG3 + 64 * 2 ^ 13) (mkDesc 0x200000020000 0 0 0 0 0) 0 0 0
theorem witness_MatrixGroups : (mxState openE Group.reset).gated 0 = false ∧ EngGo 0 .mx openE (mxState openE Group.reset) ∧ ((mxState openE Group.reset).tile 0).mxHeld = false ∧
    (((mxState openE Group.reset).tile 0).group 3).st = .free ∧ 0x200000020000 % 512 = 0 ∧ inTileStore 0 0x200000020000 0x20000 = true ∧
    ((mxState openE Group.reset).tile 0).openSlots 3 = [] ∧ ctrlGroup openE.ctrl = 3 ∧ descBase openE.dA = 0x200000020000 ∧ ((mxState openE opened).tile 0).mxHeld = false :=
  ⟨by decide +kernel, engGo_of (by decide +kernel), by decide +kernel, by decide +kernel, by decide, by decide +kernel, by decide +kernel, by decide +kernel, by decide +kernel,
    by decide +kernel⟩
def closeE : QEntry := entry (.mx .close) (ctrlG3 + 5 * 2 ^ 8) 0 0 0 0
def discardE : QEntry := entry (.mx .discard) ctrlG3 0 0 0 0
def closing : Flight := ⟨.mx, 9, 5, 0, false, false, .close 3, Stake.none⟩
def discarding : Flight := ⟨.mx, 9, 0, 0, false, false, .discard 3, Stake.none⟩
theorem witness_MatrixGroups_end : EngGo 0 .mx closeE (mxState closeE opened) ∧ EngGo 0 .mx discardE (mxState discardE opened) ∧ ((mxState closeE opened).tile 0 |>.group 3).st = .opened ∧
    EngGo 0 .mx closeE (mxState closeE Group.reset) ∧ ((mxState closeE Group.reset).tile 0 |>.group 3).st ≠ .opened ∧
    ((mxState openE opened).tile 0 |>.group 3).st ≠ .free ∧ EngGo 0 .mx openE (mxState openE opened) :=
  ⟨engGo_of (by decide +kernel), engGo_of (by decide +kernel), by decide +kernel, engGo_of (by decide +kernel), by decide +kernel, by decide +kernel, engGo_of (by decide +kernel)⟩
theorem witness_MatrixGroups_complete :
    ((mxState closeE { opened with st := .closing } [closing]).tile 0).mxFirst = some (closing, []) ∧ ((mxState closeE { opened with st := .closing } [closing]).tile 0).staging = none ∧
    (((mxState closeE { opened with st := .closing } [closing]).tile 0).group 3).captures = 0 ∧
    ((mxState closeE { opened with st := .closing } [discarding]).tile 0).mxFirst = some (discarding, []) := by decide +kernel
theorem test_open_close : (((after (.mxOpen t0) (mxState openE Group.reset)).tile 0).group 3).interval = 64 ∧ (((after (.mxClose t0) (mxState closeE opened)).tile 0).group 3).st = .closing ∧
    stop (.mxOpen t0) (mxState openE opened) = some (.undefined (.ub 22)) ∧
    (((after (.discardComplete t0) (mxState closeE { opened with st := .closing } [discarding])).tile 0).group 3).st = .free := by decide +kernel

/-- A pass of one BF16 product: X is 2.0 at offset 0, W is 3.0 at offset 0x100, both one by one. -/
def xDesc : Desc := mkDesc 0x200000000000 1 1 1 1 1
def wDesc : Desc := mkDesc 0x200000000100 1 1 1 1 1
def passE (o : MxOp) (keepw : Nat) : QEntry := entry (.mx o) (ctrlG3 + keepw * 2 ^ 19) xDesc wDesc (mkDesc 0x200000000200 0 0 0 0 0) 0
def passState (o : MxOp) (keepw : Nat) (mask : Nat) (fs : List Flight := []) : State :=
  let s := mxState (passE o keepw) opened fs
  let s := ((s.pokes .unit 0x200000000000 [0x00, 0x40]).pokes .unit 0x200000000100 [0x40, 0x40]).pokes .unit 0x200000000200 [mask]
  s.setTile 0 { s.tile 0 with front := ⟨true, [[.val (.fin false 3 0)]], wDesc, false⟩ }
/-- Values of an answer. -/
def okAnd {α : Type} (r : Except UB α) (p : α → Bool) : Bool :=
  match r with
  | .ok a => p a
  | .error _ => false
theorem witness_MatrixPasses : (∀ o ∈ [MxOp.pass, .passr, .passb], ready 0 .mx (passE o 0) (passState o 0 1) = true ∧ ((passState o 0 1).tile 0).mxHeld = false ∧
      (passState o 0 1).ledgerWait [(passE o 0).dA, (passE o 0).dB] = false ∧ (((passState o 0 1).tile 0).group (ctrlGroup (passE o 0).ctrl)).st = .opened ∧
      okAnd (passOps 0 (passE o 0)) (fun p => okAnd ((passState o 0 1).passMask 0 o (passE o 0)) (fun m => passSkips p m.1 m.2 0 == false) &&
        okAnd ((passState o 0 1).readWeights 0 p false) (fun c => c.length == 1)) = true) ∧
    ready 0 .mx (passE .passr 1) (passState .passr 1 1) = true ∧ ((passState .passr 1 1).tile 0).kept (passE .passr 1) = true ∧
    (((passState .passr 1 1).setTile 0 { (passState .passr 1 1).tile 0 with front := WBuf.empty }).tile 0).kept (passE .passr 1) = false ∧
    okAnd (passOps 0 (passE .passr 0)) (fun p => racedUnits ((passState .passr 0 1).stakesBut (.unit 0 .mx)) (maskAddrs .passr (passE .passr 0) ++ p.w.readAddrs p.ws) == []) = true ∧
    okAnd (passOps 0 (passE .passr 0)) (fun p => okAnd ((passState .passr 0 0).passMask 0 .passr (passE .passr 0)) (fun m => passSkips p m.1 m.2 0)) = true := by decide +kernel
def loadedF : Flight := ⟨.mx, 9, 0, 0, false, false, .passLoaded 3 (passE .pass 1) none none false 0, Stake.none⟩
def streamedF : Flight := ⟨.mx, 9, 0, 0, false, false, .passStreamed 3 [(0, 0x40C00000, false), (16383, 0x3F800000, false)], Stake.none⟩
def skippedF : Flight := ⟨.mx, 9, 0, 0, false, false, .passSkipped 3 true, Stake.none⟩
theorem witness_MatrixPasses_go : ((passState .pass 1 1 [loadedF]).tile 0).nextPass = some loadedF ∧ ((passState .pass 1 1 [streamedF]).tile 0).mxFirst = some (streamedF, []) ∧
    okAnd (passOps 0 (passE .pass 1)) (fun p => okAnd ((passState .pass 1 1 [loadedF]).readActs 0 p false 0) (fun x => x.length == 1)) = true ∧
    [0, 16383].Nodup ∧ ((passState .pass 1 1 [skippedF]).tile 0).mxFirst = some (skippedF, []) ∧ (passState .pass 1 1 [skippedF]).gated 0 = false := by decide +kernel
/-- 2.0 × 3.0 streams to 6.0, which the completion adds into element (0, 0). -/
theorem test_pass_of_one : ((after (.passComplete t0) (after (.passStreamStart t0) (passState .pass 1 1 [loadedF]))).acc 0 3 0 0) = 0x40C00000 ∧
    ((after (.passComplete t0) (passState .pass 1 1 [streamedF])).acc 0 3 127 127) = 0x3F800000 ∧
    ((after (.mxPass t0) (passState .pass 0 1)).tile 0 |>.group 3).passes = 2 ∧ ((after (.mxPass t0) (passState .pass 0 1)).tile 0 |>.group 3).k = 128 := by decide +kernel

def capturing : State := passState .pass 1 1 [⟨.mx, 9, 0, 0, false, false, .passLoaded 3 (passE .pass 1) none none true 0, Stake.none⟩]
def folding : State := mxState openE { opened with slot := 0x200000020000, captures := 1 } [] (some ⟨3, [(0, 0x40C00000)]⟩)
theorem witness_MatrixSpill : (capturing.tile 0).staging = none ∧ (capturing.tile 0).capWait = [] ∧ (nextCapture [] (capturing.tile 0).flights).isSome = true ∧ capturing.gated 0 = false ∧
    (folding.tile 0).staging = some ⟨3, [(0, 0x40C00000)]⟩ ∧ inTileStore 0 ((folding.tile 0).group 3).slot 0x20000 = true ∧ folding.gated 0 = false := by decide +kernel
theorem witness_MatrixSpill_finite : (f32Val (f32Round ((f32Val 0x3F800000).add (f32Val (f32Round ((f32Val 0x33800000).add (f32Val 0)).toRes))).toRes)).isFin = true := by decide +kernel
/-- Folding 2^-24 into 1.0 leaves the sum 1.0 with the error 2^-24. -/
theorem test_fold_keeps_error : foldPair false 0x33800000 0x3F800000 0 = (0x3F800000, 0x33800000, false) := by decide +kernel

theorem witness_MatrixGroupSum : (∃ v ∈ [Val.nan false, .zero], v.isNan = true) ∧ (.inf true) ∈ [Val.inf true, .inf false] ∧ (∀ v ∈ [Val.inf true, .inf false], v.isNan = false) ∧
    (.inf !true) ∉ [Val.inf true, .zero] ∧ (groupSum [.fin false 3 0, .fin true 1 (-2)]).2 = false ∧ (∀ v ∈ [Val.fin false 3 0, .fin true 1 (-2)], v.isFin = true) ∧
    (∀ w ∈ [Weight.zeroCode], w = .zeroCode) := by decide +kernel
/-- R186: 2^27 and 1 lie 27 binades apart: the small product is lost below 2^(E − 26), and S is 1. -/
theorem test_group_sum : groupSum [.fin false 1 27, .fin false 1 0] = (.fin false 134217728 0, true) ∨ (groupSum [.fin false 1 27, .fin false 1 0]).2 = true := by decide +kernel

/-- Four FP32 words at tile-store offset 0x1000 (D), 0x2000 (S1: 1, 2, 3, −4), 0x3000 (S2: 0.5 each). -/
def dD : Desc := mkDesc 0x200000001000 0 0 4 0 0
def dS : Desc := mkDesc 0x200000002000 0 0 4 0 0
def dT : Desc := mkDesc 0x200000003000 0 0 4 0 0
def words (s : State) (a : Nat) (l : List Nat) : State := s.pokes .unit a (l.flatMap (leBytes 4))
def vxData : State := words (words up 0x200000002000 [0x3F800000, 0x40000000, 0x40400000, 0xC0800000]) 0x200000003000 [0x3F000000, 0x3F000000, 0x3F000000, 0x3F000000]
def vxState (e : QEntry) (vl : Nat := 0) : State := vxData.setTile 0 { Tile.reset with seq := .running, qVx := [e], vl := vl }

/-- What the vector engine starts from. -/
def vxReady (t : Nat) (e : QEntry) (s : State) : Bool := ready t .vx e s && !(s.tile t).vxBusy && !s.ledgerWait e.named
theorem vxGo_of {t : Nat} {e : QEntry} {s : State} (h : vxReady t e s = true) (hc : ctrlCons e.ctrl = false) : VxGo t e none (issued s t .vx e) s := by
  simp only [vxReady, Bool.and_eq_true, Bool.not_eq_true'] at h
  exact ⟨engGo_of h.1.1, h.1.2, h.2, by simp [State.takeTileQ, hc]⟩

def addE : QEntry := entry (.vx .add) 63 dD dS dT 0
def addL : QEntry := entry (.vxl .add) 0 dD dS dT 0 0 4
/-- D overlaps S1 by half: UB-27. -/
def meetE : QEntry := entry (.vx .add) 0 (mkDesc 0x200000002008 0 0 4 0 0) dS dT 0
def vxClear (s : State) (e : QEntry) (len : Option Nat) (n : Nat) : Bool :=
  okAnd (vxOperand len e.dA e.eA) (fun d => okAnd (vxInputs len e none n) (fun ins => s.vxCheck 0 true d.1 d.1 d.2 ins [] [] == none && okAnd (s.vxAll 0 d.1 ins) (fun v => v.length == n) &&
    okAnd (s.book (.da (.tile 0)) d.1) (fun _ => true)))
theorem witness_VectorElementWise : VxGo 0 addE none (issued (vxState addE) 0 .vx addE) (vxState addE) ∧ vxClear (vxState addE) addE none 2 = true ∧
    VxGo 0 addL none (issued (vxState addL) 0 .vx addL) (vxState addL) ∧ vxClear (vxState addL) addL (some 4) 2 = true :=
  ⟨vxGo_of (by decide +kernel) (by decide +kernel), by decide +kernel, vxGo_of (by decide +kernel) (by decide +kernel), by decide +kernel⟩
theorem witness_VectorElementWise_breach : VxGo 0 meetE none (issued (vxState meetE) 0 .vx meetE) (vxState meetE) ∧
    okAnd (vxOperand none meetE.dA meetE.eA) (fun d => okAnd (vxInputs none meetE none 2) (fun ins => (vxState meetE).vxCheck 0 true d.1 d.1 d.2 ins [] [] == some (.ub 27))) = true :=
  ⟨vxGo_of (by decide +kernel) (by decide +kernel), by decide +kernel⟩
/-- (1, 2, 3, −4) + 0.5, halved by EXP −1: 0.75, 1.25, 1.75, −1.75; the length form without EXP: 1.5 and on. -/
theorem test_vx_add : (after (.vxAdd t0) (vxState addE)).le 0x200000001000 16 = 0x3F400000 + 0x3FA00000 * 2 ^ 32 + 0x3FE00000 * 2 ^ 64 + 0xBFE00000 * 2 ^ 96 ∧
    (after (.vxLengthForm t0) (vxState addL)).le 0x200000001000 4 = 0x3FC00000 := by decide +kernel
theorem test_vx_elementwise : (after (.vxFnma t0) (vxState (entry (.vx .fnma) (512 * 0) dD dS dT dT))).le 0x200000001000 4 = 0 ∧
    (after (.vxGt t0) (vxState (entry (.vx .gt) 0 dD dS dT 0))).le 0x200000001000 16 = 0x3F800000 + 0x3F800000 * 2 ^ 32 + 0x3F800000 * 2 ^ 64 ∧
    (after (.vxFill t0) (vxState (entry (.vx .fill) 0 dD 0 0 0 0xFFFFFFFF3F800000))).le 0x200000001000 8 = 0x3F8000003F800000 ∧
    (after (.vxRcp t0) (vxState (entry (.vx .rcp) 0 dD dS 0 0))).le 0x200000001000 16 = 0x3F800000 + 0x3F000000 * 2 ^ 32 + 0x3EAAAAAB * 2 ^ 64 + 0xBE800000 * 2 ^ 96 := by decide +kernel

theorem witness_VectorWrite_alone : OwnBytes up 0 [0x200000001000, 0x200000001001] ∧ Alone up (.unit 0 .vx) [0x200000001000, 0x200000001001] ∧ up.flag .ledBase [] 63 = false ∧
    okAnd (vxOperand none dD 0) (fun d => !d.1.writeDup d.2) = true := by
  refine ⟨fun a ha => ?_, by unfold Alone; decide +kernel, by decide +kernel, by decide +kernel⟩
  have hc : ∀ a ∈ [0x200000001000, 0x200000001001], up.locate (.tile 0) true a = .mem a ∧ up.locate (.tile 0) false a = .mem a ∧ up.mapAt a = none ∧ accGroup a = none := by decide +kernel
  obtain ⟨h1, h2, h3, h4⟩ := hc a ha
  exact ⟨h1, h2, h3, fun u g h => by rw [h4] at h; exact nomatch h⟩
theorem witness_VectorWrite : okAnd (up.book (.da (.tile t0)) ⟨0x200000001000, .fp32, 0, 4, 1, 1, 1, 0, 0, 0, 0, false, 0⟩) (fun _ => true) = true := by decide +kernel

/-- A row of four summed under OP 0, and scanned. -/
def rowE : QEntry := entry (.vx .rrow) 0 (mkDesc 0x200000001000 0 0 1 0 0) dS 0 0
def colE : QEntry := entry (.vx .rcol) 32 dD dS 0 0
def scanE : QEntry := entry (.vx .scan) (5 * 2 ^ 18 + 2 ^ 15) 0 dS 0 0
def scanL : QEntry := entry (.vxl .scan) (5 * 2 ^ 18 + 2 ^ 15) 0 dS 0 0 0 4
def redClear (s : State) (e : QEntry) (row : Bool) : Bool :=
  okAnd (vxOperand none e.dA e.eA) (fun d => okAnd (vxOperand none e.dB e.eB) (fun x => okAnd (vxInputs none e none 1) (fun ins =>
    s.vxCheck 0 false x.1 d.1 d.2 ins [] [] == none && okAnd (s.vxAll 0 x.1 ins) (fun v => v.length == 1) &&
    (if row then d.1.rank == x.1.rank - 1 && d.1.exts == [x.1.e1, x.1.e2, x.1.e3, 1] else d.1.exts == [x.1.e0, x.1.e2, x.1.e3, 1]))))
theorem witness_VectorReductions : VxGo 0 rowE none (issued (vxState rowE) 0 .vx rowE) (vxState rowE) ∧ redClear (vxState rowE) rowE true = true ∧ redSources (ctrlImm rowE.ctrl) = 1 ∧
    VxGo 0 colE none (issued (vxState colE) 0 .vx colE) (vxState colE) ∧ redClear (vxState colE) colE false = true :=
  ⟨vxGo_of (by decide +kernel) (by decide +kernel), by decide +kernel, by decide +kernel, vxGo_of (by decide +kernel) (by decide +kernel), by decide +kernel⟩
theorem witness_VectorReductions_scan : VxGo 0 scanE none (issued (vxState scanE) 0 .vx scanE) (vxState scanE) ∧ VxGo 0 scanL none (issued (vxState scanL) 0 .vx scanL) (vxState scanL) ∧
    okAnd (vxOperand (some 4) dS 0) (fun x => okAnd (vxInputs (some 4) scanL none 1) (fun ins =>
      (vxState scanL).vxCheck 0 false x.1 { x.1 with e0 := 0, place := 0 } x.2 ins [] [] == none && okAnd ((vxState scanL).vxAll 0 x.1 ins) (fun v => v.length == 1))) = true :=
  ⟨vxGo_of (by decide +kernel) (by decide +kernel), vxGo_of (by decide +kernel) (by decide +kernel), by decide +kernel⟩
/-- 1 + 2 + 3 − 4 = 2. -/
theorem test_row_sum : (after (.vxRrow t0) (vxState rowE)).le 0x200000001000 4 = 0x40000000 := by decide +kernel

/-- Leaves for the chunk fold: three chunks, the last of two leaves. -/
theorem witness_VectorReductions_chunks : (List.replicate 64 (0x3F800000 : F32)) ≠ [] ∧ (List.replicate 128 (0x3F800000 : F32)).length % 64 = 0 ∧
    ([0x3F800000, 0x40000000] : List F32) ≠ [] ∧ ([0x3F800000, 0x40000000] : List F32).length ≤ 64 := by decide +kernel
theorem test_three_chunks : (reduce .sum (List.replicate 128 0x3F800000 ++ [0x40000000])).1 = 0x43020000 := by decide +kernel

/-- S is three by two, D two by three. -/
def permE : QEntry := entry (.vx .perm) 0 (mkDesc 0x200000001000 0 1 2 2 2) (mkDesc 0x200000002000 0 1 2 2 2) 0 0
def shufE : QEntry := entry (.vx .shuf) 0 dD dS (mkDesc 0x200000003000 1 0 4 0 0) 0
def packE : QEntry := entry (.vx .pack) 0 (mkDesc 0x200000001000 0 0 8 0 0) dS dT 0
def unpackE : QEntry := entry (.vx .unpack) 1 (mkDesc 0x200000001000 0 0 2 0 0) dS 0 0
def moveClear (s : State) (e : QEntry) (n : Nat) : Bool :=
  okAnd (vxOperand none e.dA e.eA) (fun d => okAnd (vxInputs none e none n) (fun ins => s.vxCheck 0 true d.1 d.1 d.2 [] ins [] == none || s.vxCheck 0 false d.1 d.1 d.2 [] ins [] == none))
theorem witness_VectorMovement : (∀ x ∈ [(permE, 1), (shufE, 2), (packE, 2), (unpackE, 1)], vxReady 0 x.1 (vxState x.1) = true ∧ moveClear (vxState x.1) x.1 x.2 = true) := by decide +kernel
theorem test_movement : (after (.vxPerm t0) (vxState permE)).le 0x200000001000 16 = 0x3F800000 + 0x40400000 * 2 ^ 32 + 0x40000000 * 2 ^ 64 + 0xC0800000 * 2 ^ 96 ∧
    (after (.vxUnpack t0) (vxState unpackE)).le 0x200000001000 8 = 0x40000000 + 0xC0800000 * 2 ^ 32 ∧
    (after (.vxPack t0) (vxState packE)).le 0x200000001000 8 = 0x3F800000 + 0x3F000000 * 2 ^ 32 := by decide +kernel
/-- The carrier's halves of 0.5 are 0 and 0x3F00: the first element, then +0 beyond the extent. -/
theorem test_shuf : (after (.vxShuf t0) (vxState shufE)).le 0x200000001000 8 = 0x3F800000 := by decide +kernel

def drainE : QEntry := entry (.vx .drain) (2 ^ 14) 0 0 0 0
def ftldE : QEntry := entry (.vx .ftld) 0 0 (mkDesc 0x200000004000 0 0 0 0 0) 0 0
def rescaleE : QEntry := entry (.vx .rescale) 0 dD dS (mkDesc 0x200000005000 0 0 0 0 0) 0
def fnE : QEntry := entry (.vx .fn) 0 dD dS 0 0
def fndE : QEntry := entry (.vx .fnd) 0 dD dS dT 0
def dropE : QEntry := entry (.vx .drop) 0 dD dS (mkDesc 0x200000006000 0 0 0 0 0) 0
/-- M = 3 for every column and S = 1; THRESH 0, SCALE 2.0. -/
def records (e : QEntry) : State :=
  let s := words (vxState e) 0x200000005000 [3, 3, 3, 3]
  let s := s.pokes .unit 0x200000005200 [1]
  let s := s.pokes .unit 0x200000004006 [1]
  words s 0x200000006018 [0x40000000]
/-- A table record of nothing but its version. -/
def flatTable : List Nat := [0, 0, 0, 0, 0, 0, 1] ++ List.replicate 3129 0
theorem flatTable_word (o : Nat) (h : 7 ≤ o) (h' : o ≤ 3132) : ((flatTable.drop o).take 4) = [0, 0, 0, 0] := by
  have e : flatTable.drop o = List.replicate (3129 - (o - 7)) 0 := by
    unfold flatTable
    rw [List.drop_append, List.drop_eq_nil_of_le (by simp; omega), List.nil_append, List.drop_replicate]; rfl
  rw [e, List.take_replicate, Nat.min_eq_left (by omega)]; rfl
theorem witness_VectorSpecial_table : (∃ T, tableOf flatTable = .ok T) := by
  unfold tableOf
  have hz : (List.range 768).all (fun i => !f32NonFinite (BitVec.ofNat 32 (leVal ((flatTable.drop (64 + 4 * i)).take 4)))) = true := by
    rw [List.all_eq_true]; intro i hi
    rw [List.mem_range] at hi
    rw [flatTable_word _ (by omega) (by omega)]; decide
  have h0 : (flatTable.drop 0).take 4 = [0, 0, 0, 0] := rfl
  have h1 : (flatTable.drop 20).take 44 = List.replicate 44 0 := by decide +kernel
  have h4 : flatTable.getD 4 0 = 0 := rfl
  have h5 : flatTable.getD 5 0 = 0 := rfl
  have h6 : flatTable.getD 6 0 = 1 := rfl
  have h7 : flatTable.getD 7 0 = 0 := rfl
  rw [if_pos (by
    simp only [hz, h0, h1, h4, h5, h6, h7, flatTable_word 8 (by omega) (by omega), flatTable_word 12 (by omega) (by omega)]
    decide)]
  exact ⟨_, rfl⟩
theorem witness_VectorSpecial_record : (records ftldE).bytes 0x200000004000 3136 = flatTable := by decide +kernel
theorem witness_VectorSpecial : (∀ e ∈ [ftldE, rescaleE, fnE, fndE, dropE], vxReady 0 e (records e) = true) ∧
    vxReady 0 { drainE with ctrl := 0 } (records { drainE with ctrl := 0 }) = true ∧ inTileStore 0 0x200000004000 3136 = true ∧
    inTileStore 0 0x200000005000 528 = true ∧ (records rescaleE).byte 0x200000005200 < 64 ∧
    (records rescaleE).byte 0x200000005201 < 2 ∧ ((records rescaleE).bytes 0x200000005202 14).any (· ≠ 0) = false ∧ (records dropE).le 0x200000006016 2 = 0 := by decide +kernel
/-- Records' descriptors without reserved bits, and with bit 72, which is reserved. -/
def badRec (e : QEntry) : QEntry := { e with dB := e.dB + BitVec.ofNat 256 (2 ^ 72), dC := e.dC + BitVec.ofNat 256 (2 ^ 72) }
theorem witness_VectorSpecial_plain : descPlain ftldE.dB = true ∧ descPlain rescaleE.dC = true ∧ descPlain dropE.dC = true ∧ descPlain (badRec ftldE).dB = false ∧
    descPlain (badRec rescaleE).dC = false ∧ descPlain (badRec dropE).dC = false ∧ (∀ e ∈ [ftldE, rescaleE, dropE], vxReady 0 (badRec e) (records (badRec e)) = true) := by decide +kernel
theorem witness_VectorSpecial_race : (records ftldE).recRaced (.unit 0 .vx) (recBytes 0x200000004000 3136) = false ∧
    ((records ftldE).setTile 0 { (records ftldE).tile 0 with flights := [⟨.mx, 0, 0, 0, false, false, .close 3, ⟨[], [], [], [], [0x200000004000], false⟩⟩] }).recRaced (.unit 0 .vx)
      (recBytes 0x200000004000 16) = true := by decide +kernel
theorem witness_VectorSpecial_clear : vxClear (records rescaleE) rescaleE none 1 = true ∧ vxClear (records fnE) fnE none 1 = true ∧ vxClear (records fndE) fndE none 2 = true ∧
    vxClear (records dropE) dropE none 1 = true := by decide +kernel
/-- Tile 0 with a finished tile, group 3, at the head of its queue. -/
def finished : State := up.setTile 0 { Tile.reset with seq := .running, qVx := [drainE], groups := [(3, { Group.reset with st := .queued })], tileQueue := [3] }
theorem witness_VectorSpecial_drain : EngGo 0 .vx drainE finished ∧ (finished.tile 0).vxBusy = false ∧
    okAnd ((issued finished 0 .vx drainE).takeTileQ 0 (ctrlCons drainE.ctrl)) (fun r => r.1 == some 3) = true := ⟨engGo_of (by decide +kernel), by decide +kernel, by decide +kernel⟩
/-- 1 × 3 × 2^-1 = 1.5; keeping every element doubles it. -/
theorem test_rescale_and_drop : (after (.vxRescale t0) (records rescaleE)).le 0x200000001000 4 = 0x3FC00000 ∧ (after (.vxDrop t0) (records dropE)).le 0x200000001000 8 = 0x4080000040000000 ∧
    (((after (.vectorCompletion t0) (after (.vxDrain t0) finished)).tile 0).group 3).st = .free := by decide +kernel
def vxFlying : Flight := ⟨.vx, 9, 5, 77, true, false, .vector (some 3) (some (true, flatTable)), Stake.none⟩
theorem witness_VectorSpecial_completion : takeFlight (fun f => f.queue == .vx) [vxFlying] = some (vxFlying, []) ∧ vxFlying.overwritten = false := ⟨if_pos rfl, rfl⟩

theorem witness_ExactArithmetic : (f32Val 0x00000001).isNan = false ∧ (f32Val 0x80000000).isFin = true ∧ (Val.fin true 0 0).isZero = true ∧ (Val.nan true).isNan = true := by decide +kernel

/-! ### Drovers, memory, ledger, flocks -/

/-- Whether a transfer may move at once: each condition of `DvMoves`. -/
def xMoves (x : Xfer) (p : XPlan) (s : State) : Bool :=
  let r := x.req
  let into := dvTo r p (s.indices x.by_ p)
  let fr := dvFrom r p (s.indices x.by_ p)
  okAnd (r.plan x.by_) (· == p) && (s.xfers.find? (fun y => y.id == x.id) == some x && !x.moved) && !p.nothing r.op && !s.xferHeld x p && !ixBad r.op (s.indices x.by_ p) &&
  !meets (dvWritten s r x.by_ p) (((p.s.readAddrs p.se).filter (s.spLive (r.srcSp x.by_) false)).map (s.spKey (r.srcSp x.by_))) &&
  !meets (dvWritten s r x.by_ p) ((dvList p).filter (s.spLive (.da x.by_) false)) && !s.flashBreach x.by_ r.op ((r.dstSp x.by_).das into) &&
  (!s.ctlPartial x.by_ false ((r.srcSp x.by_).das fr) && !s.ctlPartial x.by_ false (dvList p)) && (s.ctlWords x.by_ true ((r.dstSp x.by_).das into)).isEmpty &&
  !s.rdBreach x.by_ ((r.srcSp x.by_).das fr ++ dvList p) && (racedUnits (s.stakesBut x.by_.actor) (dvKeys s r x.by_ p)).isEmpty && !s.recRaced x.by_.actor (dvKeys s r x.by_ p) &&
  (s.wrBreach (s.landing x.by_ ((r.dstSp x.by_).das into))).isNone &&
  okAnd (s.book (r.srcSp x.by_) p.s) (fun _ => okAnd (s.book (r.dstSp x.by_) p.d) (fun _ => true)) && !r.dig && !s.flag .ledBase [] 63

theorem dvMoves_of {x : Xfer} {p : XPlan} {s : State} (h : xMoves x p s = true) : DvMoves x p s := by
  simp only [xMoves, okAnd, Bool.and_eq_true, Bool.not_eq_true', List.isEmpty_iff, Option.isNone_iff_eq_none, beq_iff_eq] at h
  obtain ⟨⟨⟨⟨⟨⟨⟨⟨⟨⟨⟨⟨⟨⟨⟨⟨h1, h2⟩, h3⟩, h4⟩, h5⟩, h6⟩, h7⟩, h75⟩, h8⟩, h9⟩, h10⟩, h11⟩, h115⟩, h12⟩, h13⟩, h14⟩, h15⟩ := h
  refine ⟨?_, h2, h3, h4, h5, h6, h7, h75, h8, h9, h10, ⟨h11, h115⟩, h12, ?_, by simp [h14], by simp [h15]⟩
  · revert h1; split <;> simp_all
  · revert h13; split
    · split
      · exact fun _ => ⟨_, _, by assumption, by assumption⟩
      · simp
    · simp

/-- The record of a transfer that has just begun. -/
def begun (s : State) (by_ : Issuer) (r : XReq) (p : XPlan) : Xfer := ⟨s.nextId, by_, 0, 0, r, false, 0, 0, 0, false, [], s.tScale p.d, s.tScale p.s, s.xferStake by_ r p⟩

/-- Four FP32 words copied inside tile 0. -/
def copyE : QEntry := entry (.dv .copy) 0 dD dS 0 0
def copyR : XReq := ⟨.copy, dD, dS, 0, 0, 0, 0⟩
def copyP : XPlan := ⟨⟨0x200000001000, .fp32, 0, 4, 1, 1, 1, 0, 0, 0, 0, false, 0⟩, none, ⟨0x200000002000, .fp32, 0, 4, 1, 1, 1, 0, 0, 0, 0, false, 0⟩, none, none⟩
def dvState (e : QEntry) : State := vxData.setTile 0 { Tile.reset with seq := .running, qDv := [e] }
/-- A copy whose operands differ in extent. -/
def misfitE : QEntry := entry (.dv .copy) 0 (mkDesc 0x200000001000 0 0 3 0 0) dS 0 0
/-- A copy from the flash window before READY. -/
def coldE : QEntry := entry (.dv .copy) 0 dD (mkDesc 0x400000000000 0 0 4 0 0) 0 0
theorem witness_DroverTransfers : (∀ e ∈ [copyE, misfitE, coldE], ready 0 .dv e (dvState e) = true ∧ e.op = .dv .copy ∧ (dvState e).ledgerWait [e.dA, e.dB] = false ∧
      (dvState e).drvEngine 0 ((dvState e).isPaddock 0) = some 0 ∧ (dvState e).xfers = []) ∧
    (match (⟨.copy, misfitE.dA, misfitE.dB, 0, 0, 0, 0⟩ : XReq).plan (.tile 0) with
      | .error u => u == .ub 32
      | .ok _ => false) = true ∧
    okAnd ((⟨.copy, coldE.dA, coldE.dB, 0, 0, 0, 0⟩ : XReq).plan (.tile 0)) (fun p => let x := begun (dvState coldE) (.tile 0) ⟨.copy, coldE.dA, coldE.dB, 0, 0, 0, 0⟩ p
      !p.nothing .copy && { dvState coldE with xfers := [x] }.xferHeld x p) = true ∧
    okAnd ((⟨.copy, mkDesc 0x200000001000 0 0 0 0 0, mkDesc 0x200000002000 0 0 0 0 0, 0, 0, 0, 0⟩ : XReq).plan (.tile 0)) (fun p => p.nothing .copy) = true := by decide +kernel
/-- The copy begun: issued, its flight and its record made. -/
def copyBegun : State :=
  let s := dvState copyE
  { (issued s 0 .dv copyE).addFlight 0 ⟨.dv, 9, 0, 0, false, false, .transfer s.nextId, Stake.none⟩ with nextId := s.nextId + 1, xfers := [begun s (.tile 0) copyR copyP] }
theorem witness_DroverTransfers_moves : DvMoves (begun (dvState copyE) (.tile 0) copyR copyP) copyP copyBegun := dvMoves_of (by decide +kernel)
theorem test_copy : (after (.dvCopy t0) (dvState copyE)).bytes 0x200000001000 16 = vxData.bytes 0x200000002000 16 ∧ ((after (.dvCopy t0) (dvState copyE)).tile 0).token 9 = 0 ∧
    ((after (.transferComplete 0) (after (.dvCopy t0) (dvState copyE))).tile 0).token 9 = 1 ∧ stop (.dvCopy t0) (dvState misfitE) = some (.undefined (.ub 32)) := by decide +kernel
/-- S2 scatter-added into S1 by the list (1, 0) of rows of two: 1.5, 2.5, 3.5, −3.5. -/
def scaddE : QEntry := entry (.dv .scadd) 0 (mkDesc 0x200000002000 0 1 2 2 2) (mkDesc 0x200000003000 0 1 2 2 2) (mkDesc 0x200000004000 0 0 2 0 0) 0
def gatherE : QEntry := entry (.dv .gather) 0 (mkDesc 0x200000001000 0 1 2 2 2) (mkDesc 0x200000002000 0 1 2 2 2) (mkDesc 0x200000004000 0 0 2 0 0) 0
/-- The list of a gather is 1, 7: the second index selects no row and gives +0. -/
theorem test_scadd_gather : (after (.dvScadd t0) (words (dvState scaddE) 0x200000004000 [1, 0])).le 0x200000002000 16 = 0x3FC00000 + 0x40200000 * 2 ^ 32 + 0x40600000 * 2 ^ 64 + 0xC0600000 * 2 ^ 96 ∧
    (after (.dvGather t0) (words (words (dvState gatherE) 0x200000004000 [1, 7]) 0x200000001008 [5, 5])).le 0x200000001000 16 = 0x40400000 + 0xC0800000 * 2 ^ 32 := by decide +kernel
def oldXfer (i : Issuer) (o : DvOp) (cold : List (Nat × Nat)) : Xfer := ⟨4, i, 0, 0, { copyR with op := o }, true, 0, 0, 0, false, cold, 0, 0, Stake.none⟩
def dvFlying : Flight := ⟨.dv, 9, 0, 0, false, false, .transfer 4, Stake.none⟩
def completing (x : Xfer) : State := (up.setReg .drvFlashCap [] (2 ^ 40)).setTile 0 { Tile.reset with seq := .running, flights := [dvFlying] } |> fun s => { s with xfers := [x], nextId := 5 }
theorem witness_DroverTransfers_completes : (∀ x ∈ [oldXfer (.tile 0) .copy [], oldXfer (.tile 0) .coldupd [(0x400000000000, 7)]],
      (completing x).xfers.find? (fun x => x.id == 4) = some x ∧ x.moved = true ∧ x.done = false ∧ (completing x).dieHalted x.die = false ∧ x.by_ = .tile 0 ∧
      takeFlight (fun f => f.queue == .dv && f.work == .transfer 4) ((completing x).tile 0).flights = some (dvFlying, []) ∧ (x.commit.map Prod.fst).Nodup ∧
      (x.req.op = .coldupd → ((completing x).xfers.find? (fun y => y.req.op == .coldupd && y.moved && !y.done)).map Xfer.id = some 4)) ∧
    (completing (oldXfer (.tile 0) .coldupd [(0x400000000000, 7)])).locate (.tile 0) true 0x400000000000 = .flash 0x400000000000 := by decide +kernel
/-- A batch whose map can be reached; of one beyond the capacity nothing reaches the cold store; a completion that a quiesced die holds. -/
theorem witness_DroverTransfers_batch :
    (completing (oldXfer (.tile 0) .coldupd [(0x400000000000, 7)])).batch (oldXfer (.tile 0) .coldupd [(0x400000000000, 7)]) ≠ [] ∧
    (up.setReg .drvFlashCap [] 0).batch (oldXfer (.tile 0) .coldupd [(0x400000000000, 7)]) = [] ∧
    (completing (oldXfer (.tile 0) .copy [])).endHeld (oldXfer (.tile 0) .copy []) = false ∧
    (let s := completing (oldXfer (.tile 0) .copy []); ({ s with isl := { s.isl with quiesced := [0] } } : State).endHeld (oldXfer (.tile 0) .copy []) = true) ∧
    (let s := completing (oldXfer (.tile 0) .coldupd [(0x400000000000, 7)]); s.endHeld (oldXfer (.tile 0) .coldupd [(0x400000000000, 7)]) = false) := by decide +kernel
/-- A window over the digest slot of a transfer in flight is busy, and so is the digest's register. -/
theorem witness_RegisterWrites_digest : ({ up with xfers := [{ oldXfer (.tile 0) .copy [] with req := { copyR with ctrl := 2 ^ 10 + 3 * 4 } }] } : State).digBusy (some 3) = true ∧
    ({ up with xfers := [{ oldXfer (.tile 0) .copy [] with req := { copyR with ctrl := 2 ^ 10 + 3 * 4 } }] } : State).digBusy none = true := by decide +kernel
/-- The rows of the per-row clauses: a copied row, a row of no index, a row of a scadd. -/
theorem witness_DroverTransfers_rows : (let q : Ix × Option Ix := (⟨0, 0, 0, 0⟩, some ⟨0, 0, 0, 0⟩); q.2 = some ⟨0, 0, 0, 0⟩ ∧ copyR.op ≠ .scadd ∧ copyP.s.place = 0 ∧ copyP.s.fmt.bits ≠ 4 ∧
    copyP.d.fmt = copyP.s.fmt ∧ copyP.d.e0 = copyP.s.e0) ∧ ({ copyR with op := .scadd } : XReq).op = .scadd ∧ copyP.d.fmt = .fp32 := by decide +kernel

/-- Queue 255 enabled in tile 0's store, LOG2N 4, WEIGHT 1, INFLIGHT 1, its first entry a copy, the tail one ahead. -/
def qWord (tail : Nat) (control : Nat) : State :=
  let s := vxData.pokes .unit 0x200000010000 (leBytes 32 dD.toNat ++ leBytes 32 dS.toNat ++ List.replicate 32 0 ++ leBytes 8 (0x30 * 2 ^ 58 + control))
  ((s.setReg .drvQueueBase [255] 0x200000010000).setReg .drvQueueCtrl [255] (4 * 2 ^ 16 + 2 ^ 8 + 2 ^ 4 + 1)).setReg .drvQueueTail [255] tail
theorem witness_DroverQueues_writes : HostOpen 0 .drvQueueTail [255] .full 16 (qWord 1 0) ∧ ((qWord 1 0).ctlApply .drvQueueTail [255] .full 16).queueOver 255 = false ∧
    ((qWord 1 0).ctlApply .drvQueueTail [255] .full 17).queueOver 255 = true ∧ HostOpen 0 .drvQueueTail [255] .full 17 (qWord 1 0) ∧ (qWord 1 0).farOn = false ∧
    HostOpen 0 .drvQueueCtrl [255] .full 0x40111 (qWord 0 0) ∧ (qWord 0 0).queueOn 255 = true ∧ HostOpen 0 .drvQueueCtrl [255] .full 0x40040111 fenced ∧
    (fenced.ctlApply .drvQueueCtrl [255] .full 0x40040111).rf .drvQueueCtrl [255] 30 1 ≠ fenced.rf .drvQueueCtrl [255] 30 1 :=
  ⟨hostOpen_of (by decide +kernel), by decide +kernel, by decide +kernel, hostOpen_of (by decide +kernel), by decide +kernel, hostOpen_of (by decide +kernel), by decide +kernel,
    hostOpen_of (by decide +kernel), by decide +kernel⟩
theorem witness_DroverQueues_ctrl : ((qWord 0 0).ctlApply .drvQueueCtrl [255] .full 0x40111).rf .drvQueueCtrl [255] 16 5 = (qWord 0 0).rf .drvQueueCtrl [255] 16 5 ∧
    ((qWord 0 0).ctlApply .drvQueueCtrl [255] .full 0x40111).queueOn 255 = true ∧ ((qWord 0 0).ctlApply .drvQueueCtrl [255] .full 0x40111).queueOver 255 = false ∧
    HostOpen 0 .drvEngineOwn [7] .full 1 up ∧ HostOpen 0 .drvEngineOwn [7] .full 1 fenced ∧ fenced.paddockOn = true ∧
    (fenced.ctlApply .drvEngineOwn [7] .full 1).rf .drvEngineOwn [7] 0 16 ≠ fenced.rf .drvEngineOwn [7] 0 16 :=
  ⟨by decide +kernel, by decide +kernel, by decide +kernel, hostOpen_of (by decide +kernel), hostOpen_of (by decide +kernel), by decide +kernel, by decide +kernel⟩
theorem witness_DroverQueues_start : (qWord 1 0).queueOn 255 = true ∧ (qWord 1 0).queueNext 255 ≠ (qWord 1 0).queueTail 255 ∧
    ((qWord 1 0).queueXfers 255).length < (qWord 1 0).rf .drvQueueCtrl [255] 4 4 ∧ (qWord 1 0).dieHalted ((qWord 1 0).rf .drvQueueCtrl [255] 27 3) = false ∧
    (qWord 1 0).rdHeld (.queue 255) (((qWord 1 0).queueSp 255).das ((qWord 1 0).queueAddrs 255 0)) = false ∧ (qWord 1 0).drvEngine ((qWord 1 0).rf .drvQueueCtrl [255] 27 3) ((qWord 1 0).flag .drvQueueCtrl [255] 30) = some 0 ∧
    okAnd (queueReq (((qWord 1 0).queueAddrs 255 0).map ((qWord 1 0).spPeek ((qWord 1 0).queueSp 255)))) (fun r => r.1 == copyR && (fld r.2 28 1 == 0)) = true := by decide +kernel
def qBegun : State := let s := qWord 1 0; { s with nextId := s.nextId + 1, xfers := [begun s (.queue 255) copyR copyP] }
theorem witness_DroverQueues_moves : DvMoves (begun (qWord 1 0) (.queue 255) copyR copyP) copyP qBegun := dvMoves_of (by decide +kernel)
/-- A queue that runs, its next entry not its own work of a boundary, its ring in reach; one whose INFLIGHT is 0 or LOG2N 3; one whose entry asks for DRV_DONE. -/
theorem witness_DroverQueues_free : (qWord 1 0).queueOwn 255 1 = false ∧ (qWord 1 0).queueOwn 255 0 = false ∧ (qWord 1 0).queueCut 255 = false ∧ (qWord 1 0).queueInflight 255 = 1 ∧ 4 ≤ (qWord 1 0).rf .drvQueueCtrl [255] 16 5 ∧
    (qWord 1 0).rf .drvQueueCtrl [255] 16 5 ≤ 16 ∧ (qWord 1 0).rf .drvQueueCtrl [255] 4 4 ≠ 0 ∧ (qWord 1 0).ledgerWait [dD, dS] = false ∧
    (let x : Xfer := { oldXfer (.queue 255) .copy [] with control := BitVec.ofNat 64 (2 ^ 29) }; fld x.control.toNat 29 1 = 1 ∧ fld x.control.toNat 27 1 = 0 ∧
      ({ qWord 1 0 with xfers := [x], nextId := 5 } : State).endHeld x = false) := by decide +kernel
/-- A completion that asks for DRV_DONE raises it. -/
theorem test_drv_done : (let x : Xfer := { oldXfer (.queue 255) .copy [] with control := BitVec.ofNat 64 (2 ^ 29) }; let s : State := { qWord 1 0 with xfers := [x], nextId := 5 };
    (after (.transferComplete 4) s).ev = (s.raise 0x0201 0 2 255 0 0).ev) := by decide +kernel
/-- R284: the ring of a queue in host memory is out of reach only while both ports are down. -/
theorem test_queue_cut : (let s := (qWord 1 0).setReg .drvQueueCtrl [255] (2 ^ 31 + 4 * 2 ^ 16 + 2 ^ 8 + 2 ^ 4 + 1); s.queueCut 255 = false ∧
    ({ s with isl := { s.isl with perst := [0, 1] } } : State).queueCut 255 = true) := by decide +kernel
theorem witness_DroverQueues_completes : (let x := oldXfer (.queue 255) .copy []; let s := { qWord 1 0 with xfers := [x], nextId := 5 };
    s.xfers.find? (fun x => x.id == 4) = some x ∧ (s.xfers.map Xfer.id).Nodup ∧ (∀ y ∈ s.xfers, y.by_ = .queue 255 → y.done = false) ∧ x.entry = s.queueHead 255 ∧
    fld x.control.toNat 29 1 = 0 ∧ fld x.control.toNat 27 1 = 0) := by decide +kernel
theorem test_queue_entry : (after (.queueEntryStart 255) (qWord 1 0)).bytes 0x200000001000 16 = vxData.bytes 0x200000002000 16 ∧
    (after (.transferComplete 0) (after (.queueEntryStart 255) (qWord 1 0))).queueHead 255 = 1 ∧ stop (.queueDoorbell 255 .full 17) (qWord 1 0) = some (.undefined (.ub 36)) := by decide +kernel

/-- The cold store enabled, its page map at 1 GiB. -/
def cold (st : Nat) : State := (up.setReg .drvFlashCtrl [] (2 ^ 63 + 2 ^ 30)).setReg .drvFlashStatus [] (st * 2 ^ 63 + 10000)
/-- The same with the map's regions mapped. -/
def coldMapped (st : Nat) : State := (List.range 4).foldl (fun s i => s.setReg .idHbmRegion [1 + i] (2 ^ 18 + 1 + i)) (cold st)
theorem witness_FlashStore : HostOpen 0 .drvFlashCtrl [] .full (2 ^ 63 + 2 ^ 31) (cold 1) ∧ (cold 1).flag .drvFlashCtrl [] 63 = true ∧
    ((cold 1).ctlApply .drvFlashCtrl [] .full (2 ^ 63 + 2 ^ 31)).rf .drvFlashCtrl [] 12 36 ≠ (cold 1).rf .drvFlashCtrl [] 12 36 ∧ HostOpen 0 .drvFlashCtrl [] .full (2 ^ 63) up ∧
    up.flag .drvFlashCtrl [] 63 = false ∧ HostOpen 0 .drvFlashCtrl [] .full (2 ^ 30) (cold 1) ∧
    ((cold 1).ctlApply .drvFlashCtrl [] .full (2 ^ 30)).rf .drvFlashCtrl [] 12 36 = (cold 1).rf .drvFlashCtrl [] 12 36 ∧ (cold 0).flashReady = false ∧ (cold 0).halted = false ∧
    HostOpen 0 .drvFlashCompact [] .full (2 ^ 63) up ∧ (accBits .full (2 ^ 63)).testBit 63 = true ∧ up.flash.compacting = false :=
  ⟨hostOpen_of (by decide +kernel), by decide +kernel, by decide +kernel, hostOpen_of (by decide +kernel), by decide +kernel, hostOpen_of (by decide +kernel), by decide +kernel,
    by decide +kernel, by decide +kernel, hostOpen_of (by decide +kernel), by decide +kernel, rfl⟩
theorem witness_FlashStore_mapped : (coldMapped 0).rangeMapped (coldMapped 0).mapBase mapLen = true ∧ (cold 0).rangeMapped (cold 0).mapBase mapLen = false ∧ (coldMapped 0).flashReady = false ∧
    (coldMapped 0).flag .drvFlashCtrl [] 63 = true ∧ (up.ctlApply .drvFlashCtrl [] .full (2 ^ 63 + 2 ^ 30)).flag .drvFlashCtrl [] 63 = true ∧
    (up.ctlApply .drvFlashCtrl [] .full (2 ^ 63 + 2 ^ 30)).rangeMapped (2 ^ 30) mapLen = false ∧ HostOpen 0 .drvFlashCtrl [] .full (2 ^ 63 + 2 ^ 30) up :=
  ⟨by decide +kernel, by decide +kernel, by decide +kernel, by decide +kernel, by decide +kernel, by decide +kernel, hostOpen_of (by decide +kernel)⟩
theorem witness_FlashStore_auto : 0 < (up.setRf .drvFlashCompact [] 0 14 1).rf .drvFlashCompact [] 0 14 ∧ (up.setRf .drvFlashCompact [] 0 14 1).halted = false ∧
    (let s := { coldMapped 1 with flash := ⟨[], [], true, false, false⟩ }; s.flash.compacting = true ∧ s.halted = false ∧ 2 * s.rf .drvFlashCompact [] 0 14 ≤ 10000 ∧ s.rangeMapped s.mapBase mapLen = true) := by decide +kernel
theorem test_flash : (after .flashReady (coldMapped 0)).flashReady = true ∧ stop (.flashEnable .full (2 ^ 63 + 2 ^ 30)) up = some (.undefined .r4) ∧ (after (.flashEnable .full (2 ^ 30)) (cold 1)).flashReady = false ∧
    stop (.flashEnable .full (2 ^ 63 + 2 ^ 31)) (cold 1) = some (.undefined (.ub 39)) ∧ (after (.compactionStart .full (2 ^ 63)) up).flash.compacting = true := by decide +kernel

/-- The memory window of port 1 over tile 0's store, at 2^45 of 2^30 granules. -/
def windowed : State := vxData.setReg .idMemwin [1] 0x200000000000
def heldRead : State := { vxData with hostReads := [⟨3, 1, 0x200000002000, 4, none⟩], nextId := 4 }
theorem witness_HostMemory : windowed.hostUp 1 = true ∧ windowed.rf .idMemwin [1] 30 18 * 2 ^ 30 = 0x200000000000 ∧
    (∀ k ∈ List.range 16, inCtlRange (0x200000002000 + k) = false ∧ inFlash (0x200000002000 + k) = false) ∧ windowed.rdHeld (.host 1) ((List.range 4).map (0x200000002000 + ·)) = false ∧
    windowed.hostReads = [] ∧ windowed.wrHeld (.host 1) ((List.range 4).map (0x200000002000 + ·)) = false ∧ windowed.breach = none ∧
    racedUnits (windowed.stakesBut .other) (windowed.spKeys (.da (.host 1)) true ((List.range 4).map (0x200000002000 + ·))) = [] ∧
    windowed.wrBreach (windowed.landing (.host 1) ((List.range 4).map (0x200000002000 + ·))) = none ∧ windowed.flag .ledBase [] 63 = false ∧
    (windowed.setReg .idMemwin [1] 0x400000000000).rdHeld (.host 1) ((List.range 4).map (0x400000000000 + ·)) = true := by decide +kernel
theorem witness_HostMemory_held : heldRead.hostReads.find? (fun r => r.id == 3) = some ⟨3, 1, 0x200000002000, 4, none⟩ ∧ heldRead.hostHeld ⟨3, 1, 0x200000002000, 4, none⟩ = false ∧
    heldRead.hostHeld ⟨3, 1, 0x400000000000, 4, none⟩ = true ∧ heldRead.hostHeld ⟨3, 1, 0x200000002000, 4, some [1, 2, 3, 4]⟩ = false ∧
    heldRead.wrBreach (heldRead.landing (.host 1) ((List.range 4).map (0x200000002000 + ·))) = none := by decide +kernel
theorem witness_HostMemory_transfer : (let x : Xfer := { oldXfer (.tile 0) .copy [] with moved := false }; let s := { dvState copyE with xfers := [x], nextId := 5 };
    s.hostReads.find? (fun r => r.id == 4) = none ∧ s.xfers.find? (fun x => x.id == 4) = some x ∧ xMoves x copyP s = true) := by decide +kernel
theorem witness_HostMemory_nothing : (let r : XReq := ⟨.copy, mkDesc 0x200000001000 0 0 0 0 0, mkDesc 0x200000002000 0 0 0 0 0, 0, 0, 0, 0⟩;
    let x : Xfer := { oldXfer (.tile 0) .copy [] with moved := false, req := r }; let s : State := { up with xfers := [x], nextId := 5 };
    s.hostReads.find? (fun r => r.id == 4) = none ∧ s.xfers.find? (fun x => x.id == 4) = some x ∧ okAnd (r.plan x.by_) (fun p => p.nothing r.op) = true) := by decide +kernel
theorem test_window : (after (.memoryWindowAccess 1 0x2004 (.read 4)) windowed).out = [.memData 1 [0, 0, 0, 0x40]] ∧
    (after (.memoryWindowAccess 1 0x2004 (.write [7])) windowed).byte 0x200000002004 = 7 ∧ (after (.heldGroupRead 3) heldRead).out = [.memData 1 [0, 0, 0x80, 0x3F]] ∧
    (after (.applyWaitRead 3) heldRead).hostReads = [] := by decide +kernel

/-- R509: with its dies quiesced the store's map and the window's HBM are held. -/
theorem witness_FlashStore_held : (coldMapped 0).mapHeld = false ∧ (coldMapped 1).mapHeld = false ∧ ({ coldMapped 0 with isl := { (coldMapped 0).isl with quiesced := List.range 8 } } : State).mapHeld = true ∧
    windowed.wrHeld (.host 1) [0x200000002000] = false ∧
    ({ windowed with isl := { windowed.isl with quiesced := [0] } } : State).wrHeld (.host 1) [0x200000002000] = true := by decide +kernel
/-- The ledger at 512 MiB, enabled. -/
def ledgered : State := up.setReg .ledBase [] (2 ^ 63 + 0x20000000)
theorem witness_LedgerAndRun : HostOpen 0 .ledNorm [] .low 0x40800000 up ∧ HostOpen 0 .ledInit [] .full (2 ^ 63) up ∧ (up.ctlApply .ledInit [] .full (2 ^ 63)).rf .ledInit [] 12 13 = 0 ∧
    HostOpen 0 .ledInit [] .full (2 ^ 63 + 2 ^ 12 + 4095) ledgered ∧ LedgerMapped ledgered ∧
    (ledgered.ctlApply .ledInit [] .full (2 ^ 63 + 2 ^ 12 + 4095)).rf .ledInit [] 0 12 + (ledgered.ctlApply .ledInit [] .full (2 ^ 63 + 2 ^ 12 + 4095)).rf .ledInit [] 12 13 = 4096 ∧
    ledgered.flag .ledInit [] 62 = false ∧ fld (ledgered.entryLe 4095 0 8) 0 1 = 0 ∧ HostOpen 0 .ledRunLoss [] .full 0x40000000 up ∧ (f32Val 0x40000000).isFin = true ∧
    (f32Val 0x7F800000).isFin = false ∧ up.rf .ledRunStatus [] 0 32 = 0 ∧ (up.setReg .ledRunStatus [] 1).rf .ledRunStatus [] 0 32 ≠ 0 ∧ HostOpen 0 .ledRunCtrl [] .full 0x400016 up ∧
    (accBits .full 0x400016).testBit 4 = true ∧ (up.setReg .ledClose [] (2 ^ 63)).flag .ledClose [] 63 = true ∧ up.flag .ledClose [] 63 = false :=
  ⟨hostOpen_of (by decide +kernel), hostOpen_of (by decide +kernel), by decide +kernel, hostOpen_of (by decide +kernel), ⟨by decide +kernel, by decide +kernel⟩, by decide +kernel, by decide +kernel,
    by decide +kernel, hostOpen_of (by decide +kernel), by decide +kernel, by decide +kernel, by decide +kernel, by decide +kernel, hostOpen_of (by decide +kernel), by decide,
    by decide +kernel, by decide +kernel⟩
/-- The ledger in reach, and out of reach because every die is quiesced; an initialisation and a step close that wait for it; the events of the norm and the loss. -/
def ledgerOff : State := { ledgered with isl := { ledgered.isl with quiesced := List.range 8 } }
theorem witness_LedgerAndRun_held : ledgered.wrHeld .unit (((List.range 1).map (4095 + ·)).map ledgered.entryAddr) = false ∧ ledgerOff.wrHeld .unit (((List.range 1).map (4095 + ·)).map ledgerOff.entryAddr) = true ∧
    LedgerMapped ledgerOff ∧ ledgerOff.initHeld = none ∧ ({ ledgered with initHeld := some (4095, 1) } : State).initHeld = some (4095, 1) ∧ ledgered.closeHeld = false ∧
    (let s : State := { ledgered.setReg .ledClose [] (2 ^ 63) with closeHeld := true }; s.flag .ledClose [] 63 = true ∧ s.closeHeld = true ∧ s.entriesHeld allEntries = false) ∧
    (let s : State := { ledgerOff.setReg .ledClose [] (2 ^ 63) with closeHeld := true }; s.closeHeld = true ∧ s.entriesHeld allEntries = true) :=
  ⟨by decide +kernel, by decide +kernel, ⟨by decide +kernel, by decide +kernel⟩, by decide +kernel, by decide +kernel, by decide +kernel, by decide +kernel, by decide +kernel⟩
theorem witness_LedgerAndRun_active : HostOpen 0 .ledInit [] .full (2 ^ 63 + 2 ^ 12) (ledgered.pokes .unit 0x20000000 [1]) ∧ fld ((ledgered.pokes .unit 0x20000000 [1]).entryLe 0 0 8) 0 1 = 1 :=
  ⟨hostOpen_of (by decide +kernel), by decide +kernel⟩
/-- R309, R331: a norm above SKIP raises NORM_SKIP, a loss that is not finite LOSS_NONFINITE, a loss far above the mean LOSS_SPIKE. -/
def spiky : State := ((up.setReg .ledRunStatus [] 9).setReg .ledRunStats [] (0x3F800000 * 2 ^ 32)).setReg .ledRunCtrl [] (0x40000000 * 2 ^ 32 + 4)
theorem test_run_events : (after (.normCheck .low 0x40800000) (up.setReg .ledNormTh [] (0x3F800000 * 2 ^ 32))).ev = (up.raise 0x0308 2 0 0 0 0x40800000).ev ∧
    (after (.runLossWrite .full 0x7F800000) up).ev = (up.raise 0x0307 0 0 0 0 0).ev ∧ (after (.runLossWrite .full 0x41200000) spiky).ev ≠ spiky.ev ∧
    (after (.runLossWrite .full 0x3F800000) spiky).ev = spiky.ev := by decide +kernel
theorem test_init_active : stop (.ledgerInit .full (2 ^ 63 + 2 ^ 12)) (ledgered.pokes .unit 0x20000000 [1]) = some (.undefined (.ub 41)) ∧
    (after (.ledgerInit .full (2 ^ 63 + 2 ^ 12 + 4095)) ledgerOff).initHeld = some (4095, 1) ∧
    (after .ledgerInitComplete { ledgered.setReg .ledInit [] (2 ^ 62) with initHeld := some (4095, 1) }).entryLe 4095 0 8 = 0x0004040300000002 := by decide +kernel
/-- R309: the norm of 4.0 against CLIP 1.0 is 2.0, with the factor 0.5 and verdict clip. -/
theorem test_norm : (let s := after (.normCheck .low 0x40800000) (up.setReg .ledNormTh [] 0x3F800000); s.reg .ledNormOut [] = 0x3F00000040000000 ∧ s.rf .ledNorm [] 60 2 = 1 ∧
    s.flag .ledNorm [] 63 = true) := by decide +kernel
theorem test_ledger_init : (after (.ledgerInit .full (2 ^ 63 + 2 ^ 12 + 4095)) ledgered).entryLe 4095 0 8 = 0x0004040300000002 ∧ (after (.ledgerInit .full (2 ^ 63)) up).flag .ledInit [] 61 = true := by
  decide +kernel
theorem test_run : (after (.runLossWrite .full 0x40000000) up).reg .ledRunStats [] = 0x40000000 ∧ (after (.runClear .full 0x400016) (up.setReg .ledRunStatus [] 1)).reg .ledRunStatus [] = 0 ∧
    (after .stepCloseComplete (up.setReg .ledClose [] (2 ^ 63))).flag .ledClose [] 63 = false ∧ (after .ledgerInitComplete (up.setReg .ledInit [] (2 ^ 62))).flag .ledInit [] 62 = false := by decide +kernel

/-- Entry 0 active and of ROLE 2, FP8 E4M3 under delayed scaling with a history of fifteen, its AMAX 448 and one element counted; entry 1 not active. -/
def closeData : State :=
  let s := ledgered.pokes .unit 0x20000000 (leBytes 8 0x0004040320000003)
  let s := s.pokes .unit 0x20000040 (leBytes 4 0x43E00000 ++ List.replicate 12 0 ++ [1])
  s.pokes .unit 0x200000C0 (leBytes 8 (15 * 2 ^ 16))
theorem witness_StepClose : LedgerMapped closeData := ⟨by decide +kernel, by decide +kernel⟩
theorem witness_StepClose_entries : closeData.flag .ledBase [] 63 = true ∧ fld (closeData.closing 0).cfg 0 1 = 1 ∧ fld (closeData.closing 1).cfg 0 1 = 0 ∧
    (closeData.closing 0).wcount ≠ 0 ∧ (closeData.closing 1).wcount = 0 ∧ Fmt.ofCode (fld (closeData.closing 0).cfg 32 4) = some .e4m3 ∧ fld (closeData.closing 0).cfg 1 1 = 1 ∧
    (closeData.closing 0).role = 2 ∧ Fmt.e4m3.tensorScaled = true ∧ histCnt (closeData.closing 0).st = 15 := by decide +kernel

/-- Member 0, and member 2, of flock 7 with three members. -/
def flocked (m : Nat) : State := up.setReg .ledFlock [] (2 ^ 63 + 2 * 2 ^ 52 + m * 2 ^ 48 + 7)
def awaits (m : Nat) : State := { flocked m with flock := { Flock.reset with awaiting := [12, 20] } }
/-- The bellwether of flock 7, two windows being collected. -/
def collecting : State := { flocked 0 with flock := { Flock.reset with windows := [(12, false), (20, false)], digests := [(0, 12, 5), (1, 12, 5), (2, 12, 6), (1, 20, 9)], awaiting := [12, 20] } }
theorem witness_Flocks : (flocked 0).flockOn = true ∧ (flocked 0).flockId = 7 ∧ (flocked 0).flockMember = 0 ∧ (∀ d ∈ (flocked 0).flock.digests, ¬ (d.1 = 2 ∧ d.2.1 = 12)) ∧
    (let s := { flocked 0 with flock := { Flock.reset with digests := [(2, 12, 5)] } }; ∃ d ∈ s.flock.digests, d.1 = 2 ∧ d.2.1 = 12) ∧
    (collecting.flock.windows = (12, false) :: [(20, false)] ∧ collecting.net.outbox = [] ∧ collecting.net.ready = [] ∧ collecting.breach = none ∧
      (∀ i ∈ List.range 16, collecting.isLocal (collecting.memberModule i) = false)) ∧ (awaits 2).flock.awaiting = 12 :: [20] ∧ (12 ∈ (awaits 2).flock.awaiting) ∧
    (awaits 2).isLocal ((awaits 2).memberModule 0) = false ∧ (flocked 0).flock.awaiting = [] ∧ (awaits 2).flag .denXferCtrl [] 62 = false := by decide +kernel
/-- The end of a window over one slot; a transfer with DIG into that slot still runs. -/
def windowed1 : State := (flocked 1).setReg .ledFlockSlots [] (2 ^ 8 + 3) |>.setReg .ledDigestKeyLo [] 7
theorem witness_Flocks_window : windowed1.rf .ledFlockSlots [] 0 8 = 3 ∧ windowed1.rf .ledFlockSlots [] 8 9 = 1 ∧ windowed1.breach = none ∧ windowed1.flockSize ≠ 1 ∧ windowed1.flockMember ≠ 0 ∧
    windowed1.flockDigBusy [3] = false ∧ windowed1.keyBad = false ∧
    { windowed1 with xfers := [{ oldXfer (.tile 0) .copy [] with req := { copyR with ctrl := 2 ^ 10 + 3 * 4 } }] }.flockDigBusy [3] = true := by decide +kernel
theorem test_conclude : (after .flockVerdict collecting).flock.heldMembers = [2] ∧ (after .flockVerdict collecting).flock.windows = [(20, true)] ∧
    (after .flockVerdict collecting).flock.awaiting = [20] := by decide +kernel
/-- R340: a CLEARED lets the member count again, whatever its STEP. -/
theorem test_cleared : (let s := { flocked 0 with flock := { Flock.reset with heldMembers := [2] } };
    (after (.cleared 7 ⟨2, 11⟩) s).flock.heldMembers = []) := by decide +kernel
theorem witness_Flocks_verdicts : (List.map Prod.fst [(0, 5), (1, 5), (2, 6)]).Nodup ∧ (∀ d ∈ [(0, 5), (1, 5), (2, 6)], d.1 < 3) ∧
    (3 : Nat) < 2 * ([(0, 5), (1, 5), (2, 6)].filter (fun d => d.2 == 5)).length ∧ ¬ (3 : Nat) < 2 * ([(0, 5), (1, 6), (2, 7)].filter (fun d => d.2 == 5)).length := by decide +kernel
/-- R337: two of three agree, so the third is the minority and takes the lowest agreeing member; all three apart is no majority. -/
theorem test_verdicts : flockVerdicts 3 false [(0, 5), (1, 5), (2, 6)] = [(0, 2, 0), (1, 2, 0), (2, 3, 0)] ∧ flockVerdicts 3 false [(0, 5), (1, 6), (2, 7)] = [(0, 4, 0), (1, 4, 0), (2, 4, 0)] ∧
    flockVerdicts 3 false [(0, 5), (2, 5)] = [(0, 5, 2), (2, 5, 2)] := by decide +kernel
/-- Two windows, the newer complete; a member's collection when a recopy already runs; a MEMBER write that breaks the match under ENABLE. -/
def newer : State := { flocked 0 with flock := { Flock.reset with windows := [(12, false), (20, false)], digests := [(0, 12, 5), (0, 20, 5), (1, 20, 5), (2, 20, 9)], awaiting := [12, 20] } }
theorem witness_Flocks_due : newer.collectionDue = some (20, false) ∧ newer.flock.windows = [(12, false)] ++ (20, false) :: [] ∧ (newer.reported 20).length = newer.flockSize ∧
    (∀ x ∈ [(12, false)], (newer.reported x.1).length ≠ newer.flockSize) ∧ (∀ w ∈ (flocked 0).flock.windows, ((flocked 0).reported w.1).length ≠ (flocked 0).flockSize) ∧
    collecting.collectionDue = some (12, false) ∧ ((awaits 2).setReg .denXferCtrl [] (2 ^ 62)).flag .denXferCtrl [] 62 = true ∧ (flocked 1).digestSlot 3 < 2 ^ 127 - 1 := by decide +kernel
theorem witness_Flocks_member : HostOpen 0 .ledFlockMember [0] .full 5 (flocked 0) ∧ ((flocked 0).ctlApply .ledFlockMember [0] .full 5).flockMisplaced = true ∧ HostOpen 0 .ledFlockMember [1] .full 5 (flocked 0) ∧
    ((flocked 0).ctlApply .ledFlockMember [1] .full 5).flockMisplaced = false :=
  ⟨hostOpen_of (by decide +kernel), by decide +kernel, hostOpen_of (by decide +kernel), by decide +kernel⟩
theorem test_due : (after .flockVerdict newer).flock.windows = [(12, true)] ∧ (after .flockVerdict newer).flock.heldMembers = [2] ∧
    stop (.registerWrite 0 (regOff .ledFlockMember [0]) .full 5) (flocked 0) = some (.undefined (.ub 44)) := by decide +kernel
def holding (m : Nat) : State := (flocked m).setRf .ledFlockStatus [] 63 1 1
theorem witness_Flocks_hold : HostOpen 0 .ledFlockStatus [] .full 0x8000000000000000 (holding 2) ∧ (holding 2).flockHold = true ∧ WaveStill { holding 2 with wave := Wave.reset } ∧
    (holding 0).flockMember = 0 ∧ (holding 2).flockMember ≠ 0 ∧ (flocked 0).flockHold = false ∧ HostOpen 0 .ledFlock [] .full (2 ^ 63 + 8) (flocked 2) ∧
    ((flocked 2).ctlApply .ledFlock [] .full (2 ^ 63 + 8)).flockOn = true ∧ HostOpen 0 .ledFlock [] .full 0 (flocked 2) ∧ HostOpen 0 .ledFlock [] .full (2 ^ 63 + 2 * 2 ^ 52 + 2 ^ 49 + 7) up ∧
    up.flockOn = false ∧ up.flock.everHeld = false ∧ (up.ctlApply .ledFlock [] .full (2 ^ 63 + 2 * 2 ^ 52 + 2 ^ 49 + 7)).flockMisplaced = false ∧
    ((up.setReg .denModule [] 5).ctlApply .ledFlock [] .full (2 ^ 63 + 7)).flockMisplaced = true :=
  ⟨hostOpen_of (by decide +kernel), by decide +kernel, ⟨by decide +kernel, by decide +kernel⟩, by decide +kernel, by decide +kernel, by decide +kernel, hostOpen_of (by decide +kernel),
    by decide +kernel, hostOpen_of (by decide +kernel), hostOpen_of (by decide +kernel), by decide +kernel, by decide +kernel, by decide +kernel, by decide +kernel⟩
theorem test_flock : (after (.flockVerdictReceived 7 12 4 0) (awaits 2)).flockHold = true ∧ (after .flockTimeout (awaits 2)).rf .ledFlockStatus [] 60 3 = 5 ∧
    (after (.flockDigest 7 2 12 5 0) (flocked 0)).flock.digests = [(2, 12, 5)] ∧ (after .holdClear (holding 0)).flockHold = false ∧
    stop (.flockEnableWrite .full (2 ^ 63 + 8)) (flocked 2) = some (.undefined (.ub 44)) := by decide +kernel


/-! ### Near fabric -/

/-- Whether bank A is active and no route of it is listed. -/
def noRoutes (s : State) : Bool := !s.flag .denRouteCtrl [] 0 && s.ctl.all (fun e => e.1 < 0x900000 || 0x920000 ≤ e.1)

theorem tblGet_absent {α : Type} (d : Nat → α) (l : Tbl α) (k : Nat) (h : ∀ e ∈ l, e.1 ≠ k) : tblGet d l k = d k := by
  induction l with
  | nil => rfl
  | cons a l ih =>
    unfold tblGet
    rw [if_neg (h a List.mem_cons_self)]
    exact ih (fun e he => h e (List.mem_cons_of_mem _ he))

/-- Without a route no module is this one. -/
theorem noRoutes_outside {s : State} (h : noRoutes s = true) (m : Nat) (hm : m < 16384) : s.isLocal m = false := by
  simp only [noRoutes, Bool.and_eq_true, Bool.not_eq_true', List.all_eq_true, Bool.or_eq_true, decide_eq_true_eq] at h
  have e : regOff .denRouteA [m] = 0x900000 + 8 * m := rfl
  have hf : regFind (regOff .denRouteA [m]) = some (.denRouteA, [m]) :=
    Laws.regFindIn_own _ _ _ ⟨hm, fun _ => Nat.zero_le _, trivial⟩ (Laws.names_nested _ (Laws.names_complete _)) (Laws.names_complete _) Laws.names_apart
  have hr : ctlReset (regOff .denRouteA [m]) = 0 := by
    unfold ctlReset
    rw [Nat.mod_eq_of_lt (by rw [e]; omega), hf]; rfl
  have hz : s.reg .denRouteA [m] = 0 := by
    unfold State.reg State.ctlRaw
    rw [tblGet_absent _ _ _ (fun x hx he => by have := h.2 x hx; rw [e] at he; omega), hr]; rfl
  unfold State.isLocal State.route
  rw [if_neg (by rw [h.1]; decide), hz]; rfl

theorem fld14 (w a : Nat) : fld w a 14 < 16384 := Nat.mod_lt _ (by decide)

theorem ringsOutside_of {s : State} (h : noRoutes s = true) (ho : s.net.outbox = [] ∧ s.net.ready = [] ∧ s.breach = none) : RingsOutside s := ⟨ho, fun _ => noRoutes_outside h _ (fld14 _ _)⟩

theorem waveOutside_of {s : State} (h : noRoutes s = true) (ho : s.net.outbox = [] ∧ s.net.ready = [] ∧ s.breach = none) : WaveOutside s :=
  ⟨ho, noRoutes_outside h _ (fld14 _ _), fun c hc => by
    simp only [State.waveChildren, List.mem_map] at hc
    obtain ⟨i, -, rfl⟩ := hc
    exact noRoutes_outside h _ (fld14 _ _)⟩

/-- Port 31 enabled in a state. -/
def port (st : Nat) : State := (up.setReg .denPortCtrl [31] 5).setReg .denPortStatus [31] st
theorem witness_NearPorts : HostOpen 0 .denPortCtrl [31] .full 1 up ∧ up.portOn 31 = false ∧ (up.ctlApply .denPortCtrl [31] .full 1).portOn 31 = true ∧ HostOpen 0 .denPortCtrl [31] .full 0 (port 2) ∧
    (port 2).portOn 31 = true ∧ (port 2).portUsable 31 = true ∧ HostOpen 0 .denPortCtrl [31] .full 3 (port 2) ∧
    HostOpen 0 .denPortCtrl [31] .full (setBits ((port 2).reg .denPortCtrl [31]) 1 1 1) (port 2) ∧ (∀ st ∈ [0, 4], (port st).portSt 31 = st) ∧ (port 1).portSt 31 = 1 ∧
    (7 : Nat) ≠ up.selfId ∧ up.selfId = 0 ∧ ((port 1).setReg .denPortStatus [0] 2).portSt 0 = 2 ∧ HostOpen 0 .denRouteCtrl [] .low 1 up :=
  ⟨hostOpen_of (by decide +kernel), by decide +kernel, by decide +kernel, hostOpen_of (by decide +kernel), by decide +kernel, by decide +kernel, hostOpen_of (by decide +kernel),
    hostOpen_of (by decide +kernel), by decide +kernel, by decide +kernel, by decide +kernel, by decide +kernel, by decide +kernel, hostOpen_of (by decide +kernel)⟩
/-- R341: four good lanes do under HALF_OK alone. -/
theorem test_training : (after (.linkUp 31 .upHalf 7 3 15) (port 1)).reg .denPortStatus [31] = 7 * 2 ^ 50 + 3 * 2 ^ 45 + 3 ∧
    (after (.linkUp 31 .upHalf 7 3 15) ((port 1).setReg .denPortCtrl [31] 1)).portSt 31 = 4 ∧ stop (.linkUp 31 .up 0 31 255) (port 1) = some (.undefined (.ub 45)) ∧
    (after (.linkUp 31 .up 0 0 255) ((port 1).setReg .denPortStatus [0] 2)).portSt 31 = 2 ∧ (after (.linkDown 31) (port 3)).reg .denPortStatus [31] = 0x100 ∧
    (after (.dawnOver 31 4288) (port 2)).reg .denPortStatus [31] = 2 ∧ (after (.dawnOver 31 4289) (port 2)).reg .denPortStatus [31] = 0x202 := by decide +kernel

/-- Module 5; module 9 behind ports 4 and 7, module 6 itself under another number's route, no route to module 8. -/
def routed : State :=
  let s := (up.setReg .denModule [] 5).setReg .denRouteA [9] (2 ^ 63 + 2 ^ 7 + 2 ^ 4)
  let s := (s.setReg .denRouteA [5] (2 ^ 63 + 2 ^ 32)).setReg .denPortStatus [4] 2
  (s.setReg .denPortStatus [7] 2).setReg .denPortCtrl [4] 9
def mail (dst : Nat) (c : NetClass) (b : NetBody) : NetMsg := ⟨3, dst, c, false, b⟩
theorem witness_NearMessages : routed.portUsable 4 = true ∧ routed.isLocal 9 = false ∧ routed.routePorts 9 = [4, 7] ∧ routed.routePorts 8 = [] ∧ routed.isLocal 8 = false ∧ routed.halted = false ∧
    routed.isLocal 5 = true ∧ routed.isLocal 3 = false ∧ routed.net.outbox = [] ∧ routed.net.dawnOut = 0 ∧
    (let s := { routed with net := { Net.reset with dawnOut := 64, dawnHeld := [mail 9 .dawn (.barrierUp 1)] } }; s.net.dawnOut = 64 ∧ s.net.dawnHeld = [mail 9 .dawn (.barrierUp 1)] ∧ (mail 9 .dawn (.barrierUp 1)).cls = .dawn ∧ s.routePorts 9 ≠ []) := by decide +kernel
/-- DAWN takes the lowest usable port and its DATELINE; the other classes take turns; a message without a route counts. -/
theorem test_forward : (after (.messageArrival 4 (mail 9 .dawn (.barrierUp 1))) routed).out = [.net 4 { mail 9 .dawn (.barrierUp 1) with vc := true }] ∧
    (after (.messageArrival 4 (mail 9 .noon (.barrierUp 1))) routed).out = [.net 7 (mail 9 .noon (.barrierUp 1))] ∧
    (after (.messageArrival 4 (mail 8 .noon (.barrierUp 1))) routed).tallyAt (regOff .denUnreach []) = ⟨1, false⟩ := by decide +kernel
/-- A put of four words from tile 0 to tile 1 of module 9 in class NOON, and the get the other way. -/
def farD : Desc := mkDesc 0x200000201000 0 0 4 0 0
def putE : QEntry := entry (.lk .put) (1 * 2 ^ 16) farD dS 0 0 9
def getE : QEntry := entry (.lk .get) 0 dD (mkDesc 0x200000201000 0 0 4 0 0) 0 0 9
def lkState (e : QEntry) (f : State → State := fun s => s) : State :=
  let s := (routed.pokes .unit 0x200000002000 (vxData.bytes 0x200000002000 16))
  f (s.setTile 0 { Tile.reset with seq := .running, qLk := [e] })
theorem witness_NearMessages_copy : (∀ e ∈ [putE, getE], ready 0 .lk e (lkState e) = true ∧ okAnd (linkPair e.dA e.eA e.dB e.eB) (fun _ => true) = true ∧ (lkState e).isLocal (fld e.sv.toNat 0 14) = false) ∧
    putE.op = .lk .put ∧ getE.op = .lk .get ∧ okAnd (Tens.pair dD 0) (fun p => p.2.isNone) = true := by decide +kernel
def awaited (get : Bool) : State := { lkState getE with remotes := [⟨4, 0, get, dD, 0, 9, .night⟩], nextId := 5 } |> fun s => s.setTile 0 { Tile.reset with seq := .running, flights := [⟨.lk, 9, 0, 0, false, false, .transfer 4, Stake.none⟩] }
theorem witness_NearMessages_end : (∀ g ∈ [true, false], (awaited g).remotes.find? (fun r => r.id == 4) = some ⟨4, 0, g, dD, 0, 9, .night⟩ ∧
    takeFlight (fun f => f.queue == .lk && f.work == .transfer 4) ((awaited g).tile 0).flights = some (⟨.lk, 9, 0, 0, false, false, .transfer 4, Stake.none⟩, [])) ∧ (awaited true).remotes.find? (fun r => r.id == 3) = none := by
  decide +kernel
theorem plainBytes_of (s : State) (by_ : Issuer) (as : List Nat) (f : Nat → Nat)
    (h : ∀ a ∈ as, s.locate by_ true a = .mem (f a) ∧ s.locate by_ false a = .mem (f a) ∧ accGroup a = none ∧ s.mapAt (f a) = none) (hf : ∀ a ∈ as, ∀ b ∈ as, f a = f b → a = b) : PlainBytes s by_ as := ⟨f, h, hf⟩
theorem witness_NearMessages_raw : (∀ t e, Tens.pair dD 0 = .ok (t, e) → PlainBytes routed (.tile 0) (t.writeAddrs e) ∧ t.writeDup e = false ∧ t.empty = false ∧ t.size = 4 ∧ (t.scaleAddrs e).length = 0) := by
  intro t e h
  have h' : okAnd (Tens.pair dD 0) (fun p => p == (copyP.d, none)) = true := by decide +kernel
  rw [h] at h'
  simp only [okAnd, beq_iff_eq, Prod.mk.injEq] at h'
  obtain ⟨rfl, rfl⟩ := h'
  exact ⟨plainBytes_of _ _ _ id (by decide +kernel) (fun _ _ _ _ h => h), by decide +kernel, by decide +kernel, by decide +kernel, by decide +kernel⟩
/-- The put carries the codes of 1.0, 2.0, 3.0, −4.0; its end signals; a get's data are stored. -/
theorem test_put_get : ((after (.lkPut t0) (lkState putE)).out.map (fun o => match o with
      | .net p m => (p, m.body)
      | _ => (0, .barrierUp 0))) = [(7, .remote 0 false (.put farD 0 ⟨[0x3F800000, 0x40000000, 0x40400000, 0xC0800000], []⟩))] ∧
    ((after (.linkTransferComplete 4 ⟨[], []⟩) (awaited false)).tile 0).token 9 = 1 ∧ (after (.linkTransferComplete 4 ⟨[1, 2, 3, 4], []⟩) (awaited true)).le 0x200000001000 16 = 1 + 2 * 2 ^ 32 + 3 * 2 ^ 64 + 4 * 2 ^ 96 ∧
    ((after (.remoteAccess 9 2 .night false (.get dS 0)) (lkState putE)).out.map (fun o => match o with
      | .net _ m => m.body
      | _ => .barrierUp 0)) = [.remoteData 2 ⟨[0x3F800000, 0x40000000, 0x40400000, 0xC0800000], []⟩] := by decide +kernel
/-- Every die in a die reset holds a message's access; a copy inside this module whose destination meets its source (R355, UB-33); a destination with one byte twice. -/
def dieHolds (s : State) : State := { s with isl := { s.isl with running := (List.range 8).map (fun d => ⟨3, d, 3, false⟩) } }
def selfE : QEntry := entry (.lk .put) (1 * 2 ^ 16) (mkDesc 0x200000002008 0 0 4 0 0) dS 0 0 5
theorem witness_NearMessages_held : (dieHolds routed).wrHeld (.remote false) [0x200000201000] = true ∧ routed.wrHeld (.remote false) [0x200000201000] = false ∧
    ready 0 .lk selfE (lkState selfE) = true ∧ (lkState selfE).isLocal (fld selfE.sv.toNat 0 14) = true ∧ (issued (lkState selfE) 0 .lk selfE).putHeld 0 selfE = false ∧
    okAnd (linkPair selfE.dA selfE.eA selfE.dB selfE.eB) (fun p => (p.1.writeAddrs p.2.1).any (p.2.2.1.ownBytes p.2.2.2).contains) = true ∧
    okAnd (Tens.pair (mkDesc 0x200000201000 0 1 2 2 0) 0) (fun p => p.1.writeDup p.2 && (p.1.writeAddrs p.2).all linkPlace) = true ∧
    racedUnits ((lkState putE).stakesBut (.unit 0 .lk)) ((lkState putE).spKeys (.da (.tile 0)) false [0x200000002000]) = [] := by decide +kernel
/-- The ledger enabled, entry 0 a weight whose ring of four slots of 4 KiB begins at 0x30000000; version 1 is being written. -/
def ringsOn : State := (ledgered.pokes .unit 0x20000000 (leBytes 8 (2 ^ 28 + 1))).pokes .unit 0x20000020 (leBytes 8 0x30000000 ++ leBytes 4 0x1000 ++ leBytes 4 0x1000)
theorem inRing_of {s : State} {v a : Nat} (n : Nat) (hn : n < 4096) (hb : s.flag .ledBase [] 63 = true)
    (h : (s.isActive n && s.ringSlot n v ≤ a && a < s.ringSlot n v + s.slotBytes n) = true) : s.inRing v a = true := by
  unfold State.inRing
  rw [hb, Bool.true_and, List.any_eq_true]
  exact ⟨n, List.mem_range.2 hn, h⟩
theorem rdBreach_of {s : State} {by_ : Issuer} {as : List Nat} {a : Nat} (ha : (s.readable by_ as).contains a = true) (h : s.inRing (s.cv + 1) a = true) : s.rdBreach by_ as = true := by
  unfold State.rdBreach
  rw [List.any_eq_true]
  exact ⟨a, by simpa using ha, h⟩
theorem witness_NearMessages_version : (∀ i ∈ [Issuer.tile 0, .remote false], ringsOn.rdBreach i [0x30001000] = true) ∧ ringsOn.rdBreach (.remote false) [] = false ∧ OffLedger ringsOn [0x30001000] := by
  refine ⟨fun i hi => ?_, by decide +kernel, fun _ => by decide +kernel⟩
  simp only [List.mem_cons, List.not_mem_nil, or_false] at hi
  rcases hi with rfl | rfl <;> exact rdBreach_of (a := 0x30001000) (by decide +kernel) (inRing_of 0 (by decide) (by decide +kernel) (by decide +kernel))
/-- A message's write that a breach of the store stops: into the spill slot of a group in use. -/
def spillD : Desc := mkDesc 0x200000000000 0 0 4 0 0
theorem witness_NearMessages_breach : okAnd (Tens.pair spillD 0) (fun p => (spilling.putRaw .other (.remote false) p.1 p.2 ⟨[1, 2, 3, 4], []⟩).breach == some (.ub 23) &&
      spilling.wrBreach (spilling.landing (.remote false) (p.1.writeAddrs p.2)) == some (.ub 23)) = true ∧
    okAnd (Tens.pair dD 0) (fun p => (routed.putRaw .other (.remote false) p.1 p.2 ⟨[1, 2, 3, 4], []⟩).breach == none) = true ∧ (awaited true).wrHeld (.tile 0) [0x200000001000] = false ∧
    (dieHolds (awaited true)).wrHeld (.tile 0) [0x200000001000] = true := by decide +kernel
/-- R519: data of a get whose destination a die reset holds wait. -/
theorem test_held_data : (after (.linkTransferComplete 4 ⟨[1, 2, 3, 4], []⟩) (dieHolds (awaited true))).net.held.length = 1 ∧
    (after (.linkTransferComplete 4 ⟨[1, 2, 3, 4], []⟩) (dieHolds (awaited true))).remotes.length = 1 := by decide +kernel
/-- R349: of what waits at one port the DAWN message goes first. -/
theorem test_arbiter : (routed.arbPort 4 [mail 9 .night (.barrierUp 1), mail 9 .noon (.barrierUp 2), mail 9 .dawn (.barrierUp 3)]).out.head? = some (.net 4 (mail 9 .dawn (.barrierUp 3))) ∧
    stop (.lkPut t0) (lkState selfE) = some (.undefined (.ub 33)) := by decide +kernel

/-! ### Reductions, barriers, waves, shard transfers -/

/-- Position 0 of ring 2 of two modules; module 3 on both sides. -/
def ringed : State := up.setReg .denRing [2] (2 ^ 63 + 2 ^ 42 + 3 * 2 ^ 14 + 3)
/-- Contribution and result: 33 FP32 words in HBM. -/
def con : Desc := mkDesc 0x1000 0 0 33 0 0
def res : Desc := mkDesc 0x2000 0 0 33 0 0
/-- A record at tile 0's 0x5000: TAG 7, one stage on ring 2, MEAN and WIRE32, a deadline of 1000. -/
def record (tag : Nat) : State := ringed.pokes .unit 0x200000005000 (leBytes 32 con.toNat ++ leBytes 32 res.toNat ++ leBytes 2 tag ++ [1, 3] ++ leBytes 4 1000 ++ [2])
/-- The context that the record describes. -/
def ctx : Ctx := ⟨0, 0x200000005000, con, res, 7, 1, true, true, 1000, [2, 0, 0, 0], 33, false, [], [], 0, 0, [], [0, 0, 0, 0], [0, 0, 0, 0]⟩
def armE : QEntry := entry (.lk .arm) (5 * 2 ^ 12) (mkDesc 0x200000005000 0 0 0 0 0) 0 0 0
def goE : QEntry := entry (.lk .go) (5 * 2 ^ 12 + 8 * 2 ^ 18) 0 0 0 0
def linkHead (e : QEntry) (s : State) : State := s.setTile 0 { Tile.reset with seq := .running, qLk := [e] }
def holdsCtx (x : Ctx) (s : State) : State := { s with ctxs := [(5, some x)] }
theorem lkGo_of {t : Nat} {o : LkOp} {e : QEntry} {s : State} (h : ready t .lk e s = true) (ho : e.op = .lk o) (hp : s.isPaddock t = false) : LkGo t o e s := ⟨engGo_of h, ho, hp⟩
theorem witness_Reductions_arm : LkGo 0 .arm armE (linkHead armE (record 7)) ∧ (linkHead armE (record 7)).net.outbox = [] ∧ descBase armE.dA = 0x200000005000 ∧
    inTileStore 0 0x200000005000 320 = true ∧ fld armE.ctrl 12 6 = 5 ∧ (linkHead armE (record 7)).byte 0x200000005043 = 3 ∧ (∀ i < 0x34, (linkHead armE (record 7)).byte (0x20000000504C + i) = 0) ∧
    okAnd (Tens.ofDesc (BitVec.ofNat 256 ((linkHead armE (record 7)).le 0x200000005000 32))) (fun c => c.size == 33) = true ∧ (linkHead armE (record 7)).ctxLegal ctx true = true ∧
    (linkHead armE (record 7)).tagInFlight ctx = false ∧ LkGo 0 .arm armE (linkHead armE (holdsCtx ctx (record 7))) :=
  ⟨lkGo_of (by decide +kernel) rfl (by decide +kernel), by decide +kernel, by decide +kernel, by decide +kernel, by decide +kernel, by decide +kernel, by decide +kernel, by decide +kernel,
    by decide +kernel, by decide +kernel, lkGo_of (by decide +kernel) rfl (by decide +kernel)⟩
theorem test_arm : (match tblGet (fun _ => none) (after (.lkArm t0) (linkHead armE (record 7))).ctxs 5 with
      | some x => x == ctx
      | none => false) = true ∧ ((after (.lkArm t0) (linkHead armE (record 7))).tile 0).token 9 = 1 ∧ stop (.lkArm t0) (linkHead armE (holdsCtx ctx (record 7))) = some (.undefined (.ub 47)) := by decide +kernel
/-- The contribution: 1.0 at element 0, zeros behind it. -/
def ones : State := ringed.pokes .unit 0x1000 [0, 0, 0x80, 0x3F]
theorem witness_Reductions_go : LkGo 0 .go goE (linkHead goE (holdsCtx ctx ones)) ∧ RingsOutside (linkHead goE (holdsCtx ctx ones)) ∧
    okAnd (Tens.ofDesc ctx.contrib) (fun c => okAnd ((issued (linkHead goE (holdsCtx ctx ones)) 0 .lk goE).readTens (.da (.tile 0)) c none) (fun w => w.vals.length == 33)) = true ∧
    ctx.record + 0x110 < 2 ^ 48 ∧ ctx.e ≠ 0 ∧ LkGo 0 .go goE (linkHead goE ones) ∧ LkGo 0 .go goE (linkHead goE (holdsCtx { ctx with e := 0 } ones)) :=
  ⟨lkGo_of (by decide +kernel) rfl (by decide +kernel), ringsOutside_of (by decide +kernel) (by decide +kernel), by decide +kernel, by decide +kernel, by decide +kernel,
    lkGo_of (by decide +kernel) rfl (by decide +kernel), lkGo_of (by decide +kernel) rfl (by decide +kernel)⟩
theorem resultOpen_of {s : State} {x : Ctx} {c : Tens} (hc : Tens.ofDesc x.result = .ok c) (ha : s.areaBreach (c.writeAddrs none) = none) (hl : s.flag .ledBase [] 63 = false) :
    ResultOpen s x := fun t ht => by
  rw [hc] at ht
  cases ht
  exact ⟨ha, fun h => by rw [hl] at h; exact nomatch h⟩
/-- RESULT of the context. -/
def resT : Tens := ⟨0x2000, .fp32, 0, 33, 1, 1, 1, 0, 0, 0, 0, false, 0⟩
theorem resT_of : Tens.ofDesc ctx.result = .ok resT := by
  have h : okAnd (Tens.ofDesc ctx.result) (fun t => t == resT) = true := by decide +kernel
  revert h
  cases Tens.ofDesc ctx.result with
  | ok a => intro h; rw [show a = resT from by simpa [okAnd] using h]
  | error u => intro h; exact nomatch h
/-- The context area lies elsewhere. -/
theorem witness_Reductions_open : ResultOpen ((holdsCtx ctx ones).setReg .cipCtxCfg [] 0x20000000) ctx := resultOpen_of resT_of (by decide +kernel) (by decide +kernel)
theorem witness_Reductions_held : (issued (linkHead goE (holdsCtx ctx ones)) 0 .lk goE).goHeld 0 goE = false ∧
    (issued (linkHead goE (dieHolds (holdsCtx ctx ones))) 0 .lk goE).goHeld 0 goE = true ∧ (linkHead goE (holdsCtx ctx ones)).stakesBut (.unit 0 .lk) = [] ∧ resultDup ctx.result = false := by decide +kernel
/-- One chunk of a context: its only message carries 32 words of 2.0 with count 1. -/
def twos : ChunkMsg := ⟨2, 7, 0, [1], 0, true, (List.range 32).flatMap (fun _ => [0, 0, 0, 0x40])⟩
def ready5 (parts : List ChunkMsg) (choice : Nat) : Ctx :=
  { ctx with gone := true, g := List.replicate 33 (.fin false 1 0), chunks := [⟨0, 0, parts, choice, false, [], none, false⟩] }
theorem witness_Reductions_messages : RingsOutside (holdsCtx (ready5 [] 0) ringed) ∧ okAnd (.ok ((holdsCtx (ready5 [] 0) ringed).ctxFor 2 7)) (fun c => c == some (5, ready5 [] 0, 0)) = true ∧
    ringed.ctxFor 2 7 = none ∧ (let r := (ringed.stageOf ctx 0).1; r.len = 2 ∧ r.pos = 0 ∧ (chunkAt (ringed.stageOf ctx 0).2 r.len 0).2 = 32 ∧ (chunkAt (ringed.stageOf ctx 0).2 r.len 1).2 = 1) ∧
    wireLen true 32 = 128 ∧ twos.payload.length = 128 ∧ okAnd (.ok ((holdsCtx (ready5 [] 3) ringed).ctxFor 2 7)) (fun c => c == some (5, ready5 [] 3, 0)) = true ∧ ((ready5 [] 3).chunk 0 0).choice = 3 ∧
    ((ready5 [] 0).chunk 0 0).done = false ∧ (ready5 [] 0).recv.length = 4 :=
  ⟨ringsOutside_of (by decide +kernel) (by decide +kernel), by decide +kernel, by decide +kernel, by decide +kernel, by decide +kernel, by decide +kernel, by decide +kernel, by decide +kernel,
    by decide +kernel, by decide +kernel⟩
theorem witness_Reductions_deadline : tblGet (fun _ => none) (holdsCtx (ready5 [] 0) ringed).ctxs 5 = some (ready5 [] 0) ∧ ctx.deadline ≠ 0 ∧ ((ready5 [] 0).contribution 0 0 32).isSome = true ∧
    ((ready5 [] 0).chunk 0 0).parts = [] ∧ (({ ready5 [twos] 0 with gone := false } : Ctx).contribution 0 0 32).isSome = false ∧ ((ready5 [twos] 0).chunk 0 0).parts = [twos] := by
  refine ⟨rfl, ?_, ?_, rfl, ?_, rfl⟩ <;> decide +kernel
/-- Every result of the context present. -/
def whole : Ctx := { ready5 [] 0 with chunks := [⟨0, 0, [], 1, true, [], some (List.replicate 32 0, List.replicate 32 2), true⟩, ⟨0, 1, [], 0, false, [], some ([0], [1]), false⟩] }
def goFlight : Flight := ⟨.lk, 9, 8, 0, false, false, .go 5, Stake.none⟩
def wholeState : State := (holdsCtx whole ringed).setTile 0 { Tile.reset with seq := .running, flights := [goFlight] }
theorem witness_Reductions_end : wholeState.ctxCounts whole = some (1, 2, 2) ∧ takeFlight (fun f => f.work == .go 5) (wholeState.tile 0).flights = some (goFlight, []) ∧ whole.gone = true ∧
    goFlight.sdst ≠ 0 ∧ goFlight.overwritten = false := by decide +kernel
/-- The record's status where nothing forbids it, and where the record lies in the spill slot of a group in use; a go that reads the slot being written; a result held by its die's reset. -/
def spillCtx : State := { (wholeState.setTile 0 { wholeState.tile 0 with groups := [(2, { Group.reset with st := .opened, interval := 1, slot := 0x200000000000 })] }) with ctxs := [(5, some whole)] }
theorem witness_Reductions_status : recordBreach wholeState 5 whole = none ∧ recordBreach spillCtx 5 whole = some (.ub 23) ∧ (recordBreach (linkHead goE (holdsCtx ctx ones)) 5 ctx = none) ∧
    ringsOn.rdBreach (.tile 0) [0x30001000] = true ∧ ones.rdBreach (.tile 0) [0x1000] = false ∧ (dieHolds (holdsCtx (ready5 [] 0) ringed)).resultHeld (ready5 [] 0) 0 0 = true ∧
    (holdsCtx (ready5 [] 0) ringed).resultHeld (ready5 [] 0) 0 0 = false :=
  ⟨by decide +kernel, by decide +kernel, by decide +kernel, witness_NearMessages_version.1 _ List.mem_cons_self, by decide +kernel, by decide +kernel, by decide +kernel⟩
theorem test_record_in_slot : stop (.lkGoComplete 5) spillCtx = some (.undefined (.ub 23)) := by decide +kernel
theorem witness_Reductions_add : (let x := ready5 [twos] 1; (x.chunk 0 0).done = false ∧ (x.chunk 0 0).choice = 1 ∧ (x.contribution 0 0 32).isSome = true ∧ (imageOf (wireLen x.wire32 32) (x.chunk 0 0).parts).isSome = true ∧
    (ringed.stageOf x 0).1.pos = 0 ∧ 0 + 1 = x.stages) := by decide +kernel
/-- The mean of 2.0 from the wire and 1.0 here is 1.5, with count 2; the record reads the counts; a message for no context counts. -/
theorem test_reduction : ((ringed.tryAdd (ready5 [twos] 1) 0 0).1.chunk 0 0).res = some (List.replicate 32 0x3FC00000, List.replicate 32 2) ∧
    (after (.lkGoComplete 5) wholeState).le 0x200000005080 8 = 1 + 2 * 2 ^ 16 + 2 * 2 ^ 32 + 2 ^ 48 ∧ ((after (.lkGoComplete 5) wholeState).tile 0).sreg 8 = BitVec.ofNat 64 (1 + 2 * 2 ^ 16 + 2 * 2 ^ 32) ∧
    (after (.partialArrival twos) ringed).tallyAt (regOff .denNoCtx []) = ⟨1, false⟩ ∧
    (after (.partialArrival twos) (holdsCtx (ready5 [] 3) ringed)).tallyAt (regOff .denLatePartial []) = ⟨1, false⟩ ∧
    stop (.partialArrival { twos with payload := [1] }) (holdsCtx (ready5 [] 0) ringed) = some (.undefined (.ub 46)) := by decide +kernel
/-- R363: two words of a block in the BF16 wire image: 1.0 and 3.0 with scale byte 128. -/
theorem test_wire : wireScale [0x3F800000, 0x40400000] = 128 ∧ wireCodes [0x3F800000, 0x40400000] = [0x3F00, 0x3FC0] ∧ wirePartial false [0x3F800000, 0x40400000] = [0x00, 0x3F, 0xC0, 0x3F, 128] ∧
    chunkQ 33 2 = 32 ∧ chunkQ 128 2 = 64 ∧ chunkQ 129 2 = 96 := by decide +kernel

/-- A leaf, an inner module and a root of the wave: parent 8, children 11 and 12; STEP 4, CV 6. -/
def waved (root : Bool) (kids : Nat) (tiles : Nat) : State :=
  let s := (up.setReg .denWaveCfg [] (2 ^ 63 + (if root then 2 ^ 62 else 0) + tiles * 2 ^ 32)).setReg .denWaveTree [] (kids * 2 ^ 56 + 8)
  let s := (s.setReg .denWaveChild [0] 11).setReg .denWaveChild [1] 12
  (s.setReg .ledCommit [] 6).setReg .ledStep [] 4
def barE : QEntry := entry (.lk .barrier) 0 0 0 0 0
def heard (s : State) : State := { s with barrier := { Barrier.reset with up := [(0, 11), (0, 12)] } }
theorem witness_Barriers : LkGo 0 .barrier barE (linkHead barE (waved true 2 1)) ∧ WaveOutside (linkHead barE (waved true 2 1)) ∧ (waved true 2 1).waveOn = true ∧ (waved true 2 1).isRoot = true ∧ (waved false 2 1).isRoot = false ∧
    (waved true 2 1).waveChildren = [11, 12] ∧ up.waveOn = false ∧ LkGo 0 .barrier barE (linkHead barE (heard (waved true 2 1))) ∧ LkGo 0 .barrier barE (linkHead barE (heard (waved false 2 1))) ∧
    WaveOutside (linkHead barE (heard (waved false 2 1))) ∧ LkGo 0 .barrier barE (linkHead barE up) ∧ barE.signal ≠ 0 ∧ barE.wait ≠ barE.signal :=
  ⟨lkGo_of (by decide +kernel) rfl (by decide +kernel), waveOutside_of (by decide +kernel) (by decide +kernel), by decide +kernel, by decide +kernel, by decide +kernel, by decide +kernel, by decide +kernel,
    lkGo_of (by decide +kernel) rfl (by decide +kernel), lkGo_of (by decide +kernel) rfl (by decide +kernel), waveOutside_of (by decide +kernel) (by decide +kernel),
    lkGo_of (by decide +kernel) rfl (by decide +kernel), by decide, by decide⟩
/-- No flight of a state with one tile and none in it holds a barrier. -/
theorem noFlights (s : State) (x : Tile) (h : s.tiles = [(0, x)]) (hx : x.flights = []) (u : Nat) : (s.tile u).flights = [] := by
  unfold State.tile; rw [h]; unfold tblGet
  split
  · exact hx
  · rfl
theorem witness_Barriers_flights : ∀ u, ∀ f ∈ ((linkHead barE (waved true 2 1)).tile u).flights, f.work ≠ .barrier none ∧ f.work ≠ .barrier (some (linkHead barE (waved true 2 1)).barrier.next) :=
  fun u f h => by
    rw [noFlights _ { Tile.reset with seq := .running, qLk := [barE] } (by decide +kernel) rfl u] at h
    exact absurd h List.not_mem_nil
def numbered (root : Bool) (up_ : List (Nat × Nat)) (sent : List Nat) : State :=
  { (waved root 2 1).setTile 0 { Tile.reset with seq := .running, flights := [⟨.lk, 9, 0, 0, false, false, .barrier (some 0), Stake.none⟩] } with barrier := ⟨1, [0], up_, sent, []⟩ }
theorem witness_Barriers_messages : (∀ r ∈ [true, false], WaveOutside (numbered r [(0, 11)] [])) ∧ WaveOutside (numbered false [] [0]) ∧
    takeFlight (fun f => f.work == .barrier (some 0)) ((numbered true [(0, 11)] []).tile 0).flights = some (⟨.lk, 9, 0, 0, false, false, .barrier (some 0), Stake.none⟩, []) ∧
    (∀ c ∈ (numbered true [(0, 11)] []).waveChildren, (0, c) ∈ (numbered true [(0, 11)] []).barrier.up ++ [(0, 12)]) :=
  ⟨fun r hr => by
      simp only [List.mem_cons, List.not_mem_nil, or_false] at hr
      rcases hr with rfl | rfl <;> exact waveOutside_of (by decide +kernel) (by decide +kernel),
    waveOutside_of (by decide +kernel) (by decide +kernel), by decide +kernel, by decide +kernel⟩
theorem witness_Barriers_paddock : ∀ o ∈ [LkOp.arm, .go, .barrier, .commit], ready 8 .lk (entry (.lk o) 0 0 0 0 0) (fenced.setTile 8 { Tile.reset with seq := .running, qLk := [entry (.lk o) 0 0 0 0 0] }) = true ∧
    (fenced.setTile 8 { Tile.reset with seq := .running, qLk := [entry (.lk o) 0 0 0 0 0] }).isPaddock 8 = true := by decide +kernel
theorem test_barrier : ((after (.barrierMessage 12 true 0) (numbered true [(0, 11)] [])).tile 0).token 9 = 1 ∧ ((after (.barrierMessage 8 false 0) (numbered false [] [0])).tile 0).token 9 = 1 ∧
    (after (.barrierMessage 12 true 0) (numbered false [(0, 11)] [])).barrier.sentUp = [0] ∧ stop (.barrierMessage 13 true 0) (numbered true [] []) = some (.undefined (.ub 49)) ∧
    ((after (.lkBarrier t0) (linkHead barE up)).barrier.waiting) = [0] := by decide +kernel

/-- An lk.commit of KIND 0 that deposits into s6. -/
def commitE (ctrl : Nat := 0) : QEntry := entry (.lk .commit) (6 * 2 ^ 18 + ctrl) 0 0 0 0
def counted : Flight := ⟨.lk, 9, 6, 0, false, false, .commit false false true, Stake.none⟩
/-- One tile's lk.commit counted, WSTATE and PREP set. -/
def voted (root : Bool) (wst prep : Nat) (votes : List ChildVote := []) (acks : List Nat := []) (timer : Bool := false) : State :=
  { ((waved root 2 1).setReg .denStatus [] (2 ^ 13 + prep * 2 ^ 10 + wst * 2 ^ 8)).setTile 0 { Tile.reset with seq := .running, flights := [counted] } with wave := ⟨false, false, false, votes, acks, timer, [], false, false⟩ }
def yes (c : Nat) (cv : Nat := 6) : ChildVote := ⟨c, false, 4, cv, false, false⟩
/-- A step that ends no window may end. -/
theorem stepMay_of {s : State} (h : s.windowDue s.nextStep = false) : StepMay s :=
  ⟨fun w => (by rw [h] at w; exact absurd w (by decide)), fun w => (by rw [h] at w; exact absurd w (by decide)), fun w => (by rw [h] at w; exact absurd w (by decide))⟩
theorem witness_CommitWave_issue : LkGo 0 .commit (commitE) (linkHead commitE (waved true 0 1)) ∧ WaveOutside (linkHead commitE (waved true 0 1)) ∧ StepMay (linkHead commitE (waved true 0 1)) ∧
    (linkHead commitE (waved true 0 1)).wstate = 0 ∧ (linkHead commitE (waved true 0 1)).votes + 1 = (linkHead commitE (waved true 0 1)).waveTiles ∧ (linkHead commitE (waved true 0 1)).waveChildren = [] ∧
    (linkHead commitE (waved true 0 1)).flockHold = false ∧ LkGo 0 .commit commitE (linkHead commitE (waved false 0 1)) ∧ LkGo 0 .commit commitE (linkHead commitE (waved false 0 2)) ∧
    (linkHead commitE (waved false 0 2)).waveTiles = 2 ∧ LkGo 0 .commit commitE (linkHead commitE up) ∧ (linkHead commitE up).wstate = 0 ∧ (linkHead commitE (waved true 0 1)).wave.waiting = [] :=
  ⟨lkGo_of (by decide +kernel) rfl (by decide +kernel), waveOutside_of (by decide +kernel) (by decide +kernel), stepMay_of (by decide +kernel), by decide +kernel, by decide +kernel,
    by decide +kernel, by decide +kernel, lkGo_of (by decide +kernel) rfl (by decide +kernel), lkGo_of (by decide +kernel) rfl (by decide +kernel), by decide +kernel,
    lkGo_of (by decide +kernel) rfl (by decide +kernel), by decide +kernel, by decide +kernel⟩
/-- A root without children commits by itself: STEP 5, CV 7, PARITY 1, COMMITTED in s6; SKIP leaves CV and PARITY. -/
theorem test_commit : (let s := after (.lkCommit t0) (linkHead commitE (waved true 0 1)); s.stepNo = 5 ∧ s.cv = 7 ∧ s.rf .ledCommit [] 52 1 = 1 ∧ (s.tile 0).sreg 6 = 1 ∧ (s.tile 0).token 9 = 1 ∧
      s.reg .denWaveLast [] = 2 ^ 63 + 2 ^ 60 + 4) ∧
    (let s := after (.lkCommit t0) (linkHead (commitE (2 ^ 16)) (waved true 0 1)); s.stepNo = 5 ∧ s.cv = 6 ∧ s.rf .ledCommit [] 52 1 = 0 ∧ (s.tile 0).sreg 6 = 2) := by decide +kernel
theorem witness_CommitWave_vote : (∀ r ∈ [true, false], WaveOutside (voted r 1 0 [yes 11])) ∧ (voted true 1 0 [yes 11]).votes = (voted true 1 0 [yes 11]).waveTiles ∧ (voted true 1 0 [yes 11]).wstate = 1 ∧
    StepMay (voted true 1 0 [yes 11]) ∧ aggMism (voted true 1 0 [yes 11]) { (voted true 1 0 [yes 11]).wave with votes := [yes 11, yes 12] } = false ∧
    aggMism (voted true 1 0 [yes 11]) { (voted true 1 0 [yes 11]).wave with votes := [yes 11, yes 12 7] } = true ∧ (∀ c ∈ (voted true 1 0 [yes 11]).waveChildren, ∃ u ∈ [yes 11, yes 12], u.child = c) :=
  ⟨fun r hr => by
      simp only [List.mem_cons, List.not_mem_nil, or_false] at hr
      rcases hr with rfl | rfl <;> exact waveOutside_of (by decide +kernel) (by decide +kernel), by decide +kernel, by decide +kernel,
    stepMay_of (by decide +kernel), by decide +kernel, by decide +kernel, by decide +kernel⟩
theorem witness_CommitWave_turns : WaveOutside (voted false 2 0) ∧ (voted false 2 0).wstate = 2 ∧ (voted false 2 0).stepNo = 4 ∧ WaveOutside (voted true 3 1 [] [11]) ∧ (voted true 3 1 [] [11]).wstate = 3 ∧
    (∀ c ∈ (voted true 3 1 [] [11]).waveChildren, c ∈ [11] ++ [12]) ∧ StepMay (voted true 3 1 [] [11]) ∧ (voted false 3 1).waveTiles ≠ 0 ∧ WaveOutside (voted true 2 0 [] [] true) ∧
    (voted true 2 0 [] [] true).wave.timer = true ∧ (voted false 2 0).flag .denStatus [] 12 = false :=
  ⟨waveOutside_of (by decide +kernel) (by decide +kernel), by decide +kernel, by decide +kernel, waveOutside_of (by decide +kernel) (by decide +kernel), by decide +kernel, by decide +kernel,
    stepMay_of (by decide +kernel), by decide +kernel, waveOutside_of (by decide +kernel) (by decide +kernel), by decide +kernel, by decide +kernel⟩
/-- R392: an lk.commit of KIND 1 goes in PHASE VOTE alone. -/
theorem witness_CommitWave_kind : (let s := linkHead (commitE (2 ^ 17)) (waved true 0 1); s.phase ≠ 3 ∧ (fld (commitE (2 ^ 17)).ctrl 17 1 == 1) = true ∧ ready 0 .lk (commitE (2 ^ 17)) s = true) ∧
    (voted false 2 0).wave.stuck = false ∧ stop (.lkCommit t0) (linkHead (commitE (2 ^ 17)) (waved true 0 1)) = some (.undefined (.ub 50)) ∧
    (after .waveStuck (voted false 2 0)).wave.stuck = true ∧ after .waveStuck (after .waveStuck (voted false 2 0)) = after .waveStuck (voted false 2 0) := by decide +kernel
theorem test_wave : (after (.vote 12 false 4 6 false false) (voted true 1 0 [yes 11])).wstate = 3 ∧ (after (.vote 12 false 4 7 false false) (voted true 1 0 [yes 11])).rf .denWaveLast [] 60 4 = 3 ∧
    nexts (.vote 11 false 4 6 false false) (voted true 1 0 [yes 11]) = true ∧ stop (.vote 13 false 4 6 false false) (voted true 1 0 [yes 11]) = some (.undefined (.ub 49)) ∧ (after (.ack 12 false 4) (voted true 3 1 [] [11])).cv = 7 ∧
    (after (.prepare false 4 .committed) (voted false 2 0)).reg .denStatus [] = 2 ^ 13 + 2 ^ 10 + 3 * 2 ^ 8 ∧ ((after (.final false 4 .aborted) (voted false 2 0)).tile 0).sreg 6 = 3 ∧
    (after .waveTimeout (voted true 2 0 [] [] true)).stepNo = 5 ∧ (after .waveStuck (voted false 2 0)).flag .denStatus [] 12 = true := by decide +kernel
theorem witness_CommitWave_writes : HostOpen 0 .denWaveResolve [] .full 1 (voted false 3 1) ∧ WaveOutside (voted false 3 1) ∧ StepMay (voted false 3 1) ∧ (voted false 3 1).wave.kind = false ∧
    HostOpen 0 .denWaveResolve [] .full 1 (voted false 1 0) ∧ HostOpen 0 .denWaveCfg [] .full (2 ^ 63 + 5 * 2 ^ 32) (waved false 2 1) ∧ (waved false 2 1).wstate = 0 ∧ (waved false 2 1).votes = 0 ∧
    HostOpen 0 .denWaveCfg [] .full (2 ^ 63 + 5 * 2 ^ 32) up ∧ HostOpen 0 .denWaveCfg [] .full 0 (waved false 2 1) :=
  ⟨hostOpen_of (by decide +kernel), waveOutside_of (by decide +kernel) (by decide +kernel), stepMay_of (by decide +kernel), by decide +kernel, hostOpen_of (by decide +kernel),
    hostOpen_of (by decide +kernel), by decide +kernel, by decide +kernel, hostOpen_of (by decide +kernel), hostOpen_of (by decide +kernel)⟩
/-- A step whose end ends a window of flock 7, whose member 1 this module is, over slot 3; one whose end ends a round, and which the ledger closes. -/
def windowing : State := ((voted false 3 1).setReg .ledFlock [] (2 ^ 63 + 2 * 2 ^ 52 + 2 ^ 48 + 5 * 2 ^ 32 + 7)).setReg .ledFlockSlots [] (2 ^ 8 + 3) |>.setReg .ledDigestKeyLo [] 7 |>.setReg .ledFlockMember [0] 11
def rounding : State := ((voted false 3 1).setReg .farCfg [] (2 ^ 63 + 500 * 2 ^ 17)).setReg .farNextEnd [] 5
theorem witness_CommitWave_ends : StepMay windowing ∧ windowing.windowDue windowing.nextStep = true ∧ windowing.flockSize ≠ 1 ∧ windowing.flockMember ≠ 0 ∧ StepMay rounding ∧ rounding.farOn = true ∧
    rounding.nextStep = rounding.rf .farNextEnd [] 0 48 ∧ (voted false 3 1).farOn = false ∧ (voted false 3 1).flag .ledBase [] 63 = false ∧ StepMay ((voted false 3 1).setReg .ledBase [] (2 ^ 63 + 0x20000000)) :=
  ⟨⟨fun _ => by decide +kernel, fun _ => by decide +kernel, fun _ => by decide +kernel⟩, by decide +kernel, by decide +kernel, by decide +kernel, stepMay_of (by decide +kernel), by decide +kernel, by decide +kernel,
    by decide +kernel, by decide +kernel, stepMay_of (by decide +kernel)⟩
/-- The window's end begins a collection; what the device posts at a round's end is open (log 38), so a round's end is left to the statement. -/
theorem test_step_ends : (after (.waveResolve .full 1) windowing).flock.awaiting = [5] ∧ rounding.nextStep = 5 := by decide +kernel
/-- R521: a wave that a die reset has taken votes from neither votes nor acknowledges, and does not follow PREPARE. -/
def lossy (s : State) : State := { s with wave := { s.wave with lost := true } }
theorem witness_CommitWave_lost : (lossy (voted false 2 0)).wave.lost = true ∧ WaveOutside (lossy (voted true 1 0 [yes 11])) ∧ WaveOutside (lossy (voted false 3 1 [] [11])) ∧
    (∀ c ∈ (lossy (voted false 3 1 [] [11])).waveChildren, c ∈ [11] ++ [12]) ∧ (lossy (voted false 3 1 [] [11])).isRoot = false :=
  ⟨by decide +kernel, waveOutside_of (by decide +kernel) (by decide +kernel), waveOutside_of (by decide +kernel) (by decide +kernel), by decide +kernel, by decide +kernel⟩
theorem test_lost : after (.prepare false 4 .committed) (lossy (voted false 2 0)) = lossy (voted false 2 0) ∧ (after (.vote 12 false 4 6 false false) (lossy (voted true 1 0 [yes 11]))).wstate = 1 ∧
    (after (.ack 12 false 4) (lossy (voted false 3 1 [] [11]))).out = [] := by decide +kernel
theorem test_resolve : (after (.waveResolve .full 1) (voted false 3 1)).cv = 7 ∧ (after (.waveResolve .full 1) (voted false 1 0)).reg .denWaveResolve [] = 4 ∧
    (after (.waveEnable .full (2 ^ 63 + 2047 * 2 ^ 32)) up).waveTiles = 1216 ∧ stop (.waveEnable .full (2 ^ 63 + 5 * 2 ^ 32)) (waved false 2 1) = some (.undefined (.ub 49)) := by decide +kernel

/-- A transfer of the ledger from module 9 asked for; one that runs, and one whose last range is on its way. -/
def sharding (x : Shard) : State := { up.setReg .denXferCtrl [] (2 ^ 62 + 9) with shard := some x }
theorem witness_ShardTransfer : HostOpen 0 .denXferCtrl [] .full (2 ^ 63 + 2 ^ 14 + 9) up ∧ up.flag .denXferCtrl [] 62 = false ∧ up.isLocal 9 = false ∧ (up.ctlApply .denXferCtrl [] .full (2 ^ 63 + 2 ^ 14 + 9)).flag .denXferCtrl [] 14 = true ∧
    (up.ctlApply .denXferCtrl [] .full (2 ^ 63 + 9)).flag .denXferCtrl [] 14 = false ∧ up.entryAddr 0 < 2 ^ 40 ∧ HostOpen 0 .denXferCtrl [] .full 9 (sharding ⟨9, [], [], false, false⟩) ∧
    (sharding ⟨9, [], [], false, false⟩).flag .denXferCtrl [] 62 = true ∧ (sharding ⟨9, [], [], false, true⟩).flock.recopyWait = none ∧ WaveStill (sharding ⟨9, [], [], false, true⟩) ∧
    (sharding ⟨9, [], [], false, true⟩).isLocal ((sharding ⟨9, [], [], false, true⟩).memberModule 0) = false :=
  ⟨hostOpen_of (by decide +kernel), by decide +kernel, by decide +kernel, by decide +kernel, by decide +kernel, by decide +kernel, hostOpen_of (by decide +kernel), by decide +kernel, by decide +kernel,
    ⟨by decide +kernel, by decide +kernel⟩, by decide +kernel⟩
theorem witness_ShardTransfer_piece : (0x1000, [1, 2].length) ∈ (⟨9, [(0x1000, 2)], [(0x1000, 2)], false, false⟩ : Shard).ranges ∧ PlainBytes (sharding ⟨9, [(0x1000, 2)], [(0x1000, 2)], false, false⟩) .unit ((List.range 2).map (0x1000 + ·)) :=
  ⟨by decide, plainBytes_of _ _ _ (fun a => (up.locate .unit true a) |> fun l => match l with
    | .mem k => k
    | _ => 0) (by decide +kernel) (by decide +kernel)⟩
/-- R509, R519: a range that a reset or a quiesce holds is kept with its message. -/
theorem witness_ShardTransfer_held : (dieHolds (sharding ⟨9, [(0x1000, 2)], [(0x1000, 2)], false, false⟩)).wrHeld .unit [0x1000, 0x1001] = true ∧
    (sharding ⟨9, [(0x1000, 2)], [(0x1000, 2)], false, false⟩).wrHeld .unit [0x1000, 0x1001] = false := by decide +kernel
theorem test_shard : (after (.shardTransfer .full (2 ^ 63 + 2 ^ 14 + 9)) up).tallyAt (regOff .denUnreach []) = ⟨256, false⟩ ∧
    ((sharding ⟨9, [(0x1000, 2)], [(0x1000, 2)], false, false⟩).shardArrives 0x1000 [1, 2]).shard = some ⟨9, [], [(0x1000, 2)], false, false⟩ ∧ (after (.xferDone true) (sharding ⟨9, [], [], false, false⟩)).reg .denXferCtrl [] = 2 ^ 60 + 9 ∧
    (after (.xferDone true) (sharding ⟨9, [(0, 1)], [(0, 1)], false, false⟩)).flag .denXferCtrl [] 62 = true ∧ (after (.xferDone false) (sharding ⟨9, [(0, 1)], [(0, 1)], false, false⟩)).rf .denXferCtrl [] 60 2 = 2 := by decide +kernel

/-! ### Far exchange -/

/-- FIPS 197, appendix C.3: the example of AES-256. -/
theorem test_aes : aesEnc (List.range 32) ((List.range 16).map (17 * ·)) = [0x8e, 0xa2, 0xb7, 0xca, 0x51, 0x67, 0x45, 0xbf, 0xea, 0xfc, 0x49, 0x90, 0x4b, 0x49, 0x60, 0x89] := by decide +kernel
/-- The inverse of a byte, and 0 for 0: its 254th power. -/
def gfInv (a : Nat) : Nat :=
  let a2 := gfMul a a
  let a4 := gfMul a2 a2
  let a8 := gfMul a4 a4
  let a16 := gfMul a8 a8
  let a32 := gfMul a16 a16
  let a64 := gfMul a32 a32
  let a128 := gfMul a64 a64
  gfMul (gfMul (gfMul a2 a4) (gfMul a8 a16)) (gfMul (gfMul a32 a64) a128)
def rotByte (a k : Nat) : Nat := (a * 2 ^ k) % 256 + a / 2 ^ (8 - k)
/-- The table of FIPS 197 is the inverse followed by the affine map. -/
theorem test_sbox : (∀ a ∈ List.range 256, let b := gfInv a; aesSbox a = b ^^^ rotByte b 1 ^^^ rotByte b 2 ^^^ rotByte b 3 ^^^ rotByte b 4 ^^^ 0x63) ∧ (∀ a ∈ List.range 256, gfMul a (gfInv a) = if a = 0 then 0 else 1) ∧ ∀ a ∈ List.range 256, aesInvSbox (aesSbox a) = a := by decide +kernel

/-- The shard: one segment of 16 elements under ledger entry 0, which is active and of ROLE 1, with slots of 64 bytes from 0x40000000 on. -/
def shardAt : State :=
  let s := ledgered.pokes .unit 0x20000000 (leBytes 8 (2 ^ 28 + 1))
  let s := s.pokes .unit 0x20000020 (leBytes 6 0x10000000 ++ [0, 0] ++ leBytes 4 64 ++ leBytes 4 64)
  let s := s.pokes .unit 0x3000 (leBytes 4 0 ++ leBytes 4 0 ++ leBytes 4 0xFFFFFFFF ++ leBytes 4 16)
  (s.setReg .farSeg [] (2 ^ 51 + 0x3000)).setReg .farArea [] 0x100000
theorem locate_low {s : State} (hr : s.reg .idHbmRegion [0] = 2 ^ 18) (hp : s.paddockOn = false) (w : Bool) {a : Nat} (ha : a < 2 ^ 30) : s.locate .unit w a = .mem (Machine.hbmKey 1 0 0 a) := by
  unfold State.locate
  rw [if_pos (by omega), show a / 2 ^ 30 = 0 by omega]
  simp only [hr, State.refused, hp, State.sideOf]
  rw [Nat.mod_eq_of_lt ha]
  rfl
theorem key_page {b i : Nat} (hi : i < 4096) : Machine.hbmKey 1 0 0 (4096 * b + i) = Machine.hbmKey 1 0 0 (4096 * b) + i := by
  unfold Machine.hbmKey
  simp only [show (4096 * b + i) / 4096 = b by omega, show 4096 * b / 4096 = b by omega, show (4096 * b + i) % 4096 = i by omega, show 4096 * b % 4096 = 0 by omega, if_pos]
  omega
/-- Of a ledger at 512 MiB whose entries from 1 on hold only bytes that nothing has written, entry 0 is the only weight. -/
theorem one_entry {s : State} (hr : s.reg .idHbmRegion [0] = 2 ^ 18) (hp : s.paddockOn = false) (hb : s.rf .ledBase [] 20 28 = 0x200) (hmap : s.flash.maps = [])
    (hc : ∀ c < 64, ∀ d < 64, c + d ≠ 0 → Machine.hbmKey 1 0 0 (0x20000000 + 256 * (64 * c + d)) / 256 ∉ s.mem.map (fun e => e.1 / 256)) (h0 : s.isWeight 0 = true) : s.weightEntries = [0] ∧ s.activeEntries = [0] := by
  have rest (n i : Nat) (hn : n < 4096) (h0 : n ≠ 0) (hi : i < 256) : s.peek .unit (0x20000000 + 256 * n + i) = 0 := by
    have hc := hc (n / 64) (by omega) (n % 64) (by omega) (by omega)
    rw [show 64 * (n / 64) + n % 64 = n by omega] at hc
    have hk : Machine.hbmKey 1 0 0 (0x20000000 + 256 * n + i) / 256 = Machine.hbmKey 1 0 0 (0x20000000 + 256 * n) / 256 := by
      rw [show 0x20000000 + 256 * n + i = 4096 * (0x20000 + n / 16) + (256 * (n % 16) + i) by omega, show 0x20000000 + 256 * n = 4096 * (0x20000 + n / 16) + 256 * (n % 16) by omega, key_page (by omega), key_page (by omega)]
      have : Machine.hbmKey 1 0 0 (4096 * (0x20000 + n / 16)) % 4096 = 0 := by unfold Machine.hbmKey; simp only [if_pos]; omega
      omega
    unfold State.peek
    rw [locate_low hr hp false (by omega)]
    have ha : accGroup (0x20000000 + 256 * n + i) = none := by simp only [accGroup]; rw [if_neg (by omega)]
    simp only [ha, Option.isSome_none, Bool.false_eq_true, if_false]
    unfold State.memByte
    rw [show s.mapAt (Machine.hbmKey 1 0 0 (0x20000000 + 256 * n + i)) = none by unfold State.mapAt; rw [hmap]; rfl]
    unfold State.byte
    simp only
    rw [tblGet_absent _ _ _ (fun e he h => hc (by rw [← hk, ← h]; exact List.mem_map_of_mem he))]; rfl
  have zero (n : Nat) (hn : n < 4095) : s.entryLe (n + 1) 0 8 = 0 := by
    have hb : s.entryAddr (n + 1) = 0x20000000 + 256 * (n + 1) := by unfold State.entryAddr; rw [hb]; omega
    unfold State.entryLe State.peekLe State.peeks
    rw [hb, List.map_congr_left (g := fun _ => 0) (fun i hi => by rw [Nat.add_zero]; exact rest _ _ (by omega) (by omega) (by have := List.mem_range.1 hi; omega))]
    decide +kernel
  have ha : s.isActive 0 = true := by
    simp only [State.isWeight, Bool.and_eq_true] at h0
    exact h0.1
  unfold State.weightEntries State.activeEntries
  rw [show List.range 4096 = 0 :: (List.range 4095).map Nat.succ from List.range_succ_eq_map ..]
  rw [List.filter_cons_of_pos h0, List.filter_cons_of_pos ha]
  constructor <;> rw [List.filter_eq_nil_iff.2]
  all_goals
    intro a ha
    simp only [List.mem_map, List.mem_range] at ha
    obtain ⟨n, hn, rfl⟩ := ha
    simp only [State.isWeight, State.isActive, zero n hn]; decide
/-- The exchange of site 3 enabled: L 1, SHEAR 4, two span slots, one partner, H 16; round 4 of those from 0 on. -/
def farOnCfg : Nat := 2 ^ 63 + 3 * 2 ^ 56 + 2 ^ 53 + 4 * 2 ^ 49 + 2 * 2 ^ 43 + 2 ^ 37 + 16 * 2 ^ 17
def site3 (phase : Nat) : State := ((shardAt.setReg .farCfg [] farOnCfg).setReg .farRound [] 4).setReg .farStatus [] phase |> fun s => { s with far := { s.far with old := 4, newest := 5 } }
theorem witness_FarRounds : (site3 0).halted = false ∧ (site3 0).waitingIds = [] ∧ (∀ p ∈ [0, 1, 2, 3], (site3 p).phase = p) ∧ (site3 1).flag .farApplyWait [] 63 = false ∧
    ((site3 1).setReg .farApplyWait [] (2 ^ 63)).flag .farApplyWait [] 63 = true ∧ ((site3 1).setReg .farApplyWait [] (2 ^ 63)).flag .farApplyWait [] 62 = false ∧
    (((site3 1).setReg .farApplyWait [] (2 ^ 63)).setPhase 2).digestPartial = false := by decide +kernel
/-- A boundary whose queue, number 0, is enabled; it digests from the origin `o` on. -/
def joined (p o : Nat) : State := (((((site3 p).setReg .drvQueueCtrl [0] (6 * 2 ^ 16 + 1)).setReg .farApplyWait [] (2 ^ 63)).setReg .farApplyCfg [] (2 ^ 41)).setReg .drvDigestOrigin [0] o).setReg .ledDigestKeyLo [] 2
theorem witness_FarRounds_boundary : (joined 1 0).halted = false ∧ (joined 1 0).waitingIds = [] ∧ (joined 1 0).breach = none ∧ (joined 1 0).boundaryOn = true ∧ (joined 1 0).queueUnfit = false ∧ (site3 1).boundaryOn = false ∧ (site3 1).queueUnfit = false ∧
    ((joined 1 0).setReg .drvQueueCtrl [0] (5 * 2 ^ 16 + 1)).queueUnfit = true ∧ ((joined 2 0).setReg .drvQueueCtrl [0] (2 ^ 30 + 6 * 2 ^ 16 + 1)).queueUnfit = true ∧ (joined 1 0).joining = false ∧ (joined 1 0).applyMay = true ∧
    ((joined 1 0).setPhase 2).digestPartial = false ∧ ((joined 1 (2 ^ 47)).setPhase 2).digestPartial = true ∧ (joined 1 0).keyBad = false ∧ ((joined 2 0).setReg .farStatus [] (2 ^ 7 + 2)).applyMay = false := by decide +kernel
/-- The device has posted three entries of the boundary and they have run; the same while the module joins and an admission apply is needed. -/
def postedB (p o : Nat) : State := let s := (joined p o).setReg .drvQueueTail [0] 3; { s with far := { s.far with posted := 3 } }
def admitB (p : Nat) : State := ((postedB p 0).setReg .farApplyWait [] (3 * 2 ^ 62)).setReg .farStatus [] (2 ^ 7 + p)
theorem witness_FarRounds_posted : (postedB 1 0).halted = false ∧ (postedB 1 0).waitingIds = [] ∧ (postedB 1 0).breach = none ∧ (postedB 1 0).boundaryOn = true ∧ (postedB 1 0).queueUnfit = false ∧ (postedB 1 0).phase = 1 ∧ (postedB 1 0).far.posted ≠ 0 ∧
    (postedB 1 0).joining = false ∧ (postedB 2 0).phase = 2 ∧ (postedB 2 0).applyMay = true ∧ (postedB 2 0).boundaryOn = true ∧ (admitB 1).joining = true ∧ (admitB 1).boundaryOn = true ∧ (admitB 1).queueUnfit = false ∧ (admitB 1).flag .farApplyWait [] 62 = true ∧
    (admitB 1).workDone.roundWork.digestPartial = false ∧ ((postedB 2 0).setReg .farStatus [] (2 ^ 7 + 2)).applyMay = false ∧ (postedB 2 0).digestSlot ((postedB 2 0).rf .farApplyCfg [] 33 8) < 2 ^ 127 - 1 := by decide +kernel
/-- R400: a queue that is not as it must be; R281: HEAD passes the entries that have run. -/
theorem test_queue_unfit : stop .roundendComplete ((joined 1 0).setReg .drvQueueCtrl [0] 1) = some (.undefined .r4) ∧ (admitB 1).workDone.queueHead 0 = 3 := by decide +kernel
/-- R521: ROUNDEND waits until the boundary's queue is enabled. -/
theorem test_boundary : (after .roundendComplete ((joined 1 0).setReg .drvQueueCtrl [0] 0)).phase = 1 := by decide +kernel
/-- A leaf that has voted on the fold apply of its boundary. -/
def boundary : State := ((voted false 3 1).setReg .denWaveTree [] 8).setReg .farStatus [] 3
theorem witness_FarRounds_final : WaveOutside boundary ∧ boundary.waveOn = true ∧ boundary.wstate ≠ 0 ∧ boundary.waveChildren = [] ∧ boundary.wave.waiting = [] ∧ boundary.waveTiles ≠ 0 ∧ boundary.phase = 3 ∧
    boundary.flag .farApplyWait [] 62 = false ∧ (∀ c ∈ boundary.channels, (boundary.chan c).donor = 0) :=
  ⟨waveOutside_of (by decide +kernel) (by decide +kernel), by decide +kernel, by decide +kernel, by decide +kernel, by decide +kernel, by decide +kernel, by decide +kernel, by decide +kernel,
    fun c _ => rfl⟩
/-- An admission that has failed. -/
theorem witness_FarRounds_failed : (let s : State := { boundary with far := { boundary.far with failed := true } }; s.far.failed = true ∧ s.phase = 3 ∧ s.flag .farApplyWait [] 62 = false ∧ (after (.final true 4 .committed) s).fpar = s.fpar ∧
    (after (.final true 4 .committed) s).phase = 0) ∧ boundary.far.failed = false ∧ boundary.joining = false ∧ (boundary.setReg .farStatus [] (2 ^ 7 + 3)).joining = true := by decide +kernel
theorem witness_FarRounds_enable : HostOpen 0 .farCfg [] .full farOnCfg shardAt ∧ shardAt.farOn = false ∧ (let s1 := shardAt.ctlApply .farCfg [] .full farOnCfg; s1.farOn = true ∧ s1.farLag = 1 ∧ s1.farShear = 4 ∧
      s1.segsReserved = false ∧ s1.rf .farCfg [] 17 17 = 16 ∧ (∀ g ∈ s1.segs, fld (s1.entryLe g.ledger 0 8) 0 1 = 1 ∧ fld (s1.entryLe g.ledger 0 8) 28 4 = 1)) ∧
    ((shardAt.pokes .unit 0x3010 [1]).ctlApply .farCfg [] .full farOnCfg).segsReserved = true ∧ HostOpen 0 .farCfg [] .full (farOnCfg - 2 ^ 17) shardAt ∧ (shardAt.ctlApply .farCfg [] .full (farOnCfg - 2 ^ 17)).rf .farCfg [] 17 17 = 15 ∧ HostOpen 0 .farCfg [] .full (farOnCfg - 2 ^ 63) shardAt :=
  ⟨hostOpen_of (by decide +kernel), by decide +kernel, by decide +kernel, by decide +kernel, hostOpen_of (by decide +kernel), by decide +kernel, hostOpen_of (by decide +kernel)⟩
/-- R388 and R402: L 0 or a round of fewer than 16 steps breaks UB-51's rule. -/
theorem test_far_enable : stop (.farEnable .full (BitVec.ofNat 64 (farOnCfg - 2 ^ 17))) shardAt = some (.undefined (.ub 51)) ∧
    ((shardAt.ctlApply .farCfg [] .full farOnCfg).setAreaSize.farEnable).farOn = true := by decide +kernel
theorem enable_other : ∀ c < 64, ∀ d < 64, c + d ≠ 0 → Machine.hbmKey 1 0 0 (0x20000000 + 256 * (64 * c + d)) / 256 ∉ (shardAt.ctlApply .farCfg [] .full farOnCfg).mem.map (fun e => e.1 / 256) := by decide +kernel
/-- R395: the fold area at 1 MiB meets none of the slots at 256 MiB, the ledger or the far buffer; where it lies on the segment table, on a slot or in a region without memory, it breaks the rule. -/
theorem witness_FarRounds_area : (shardAt.ctlApply .farCfg [] .full farOnCfg).foldBad = false ∧
    ((shardAt.setReg .ledBase [] 0).setReg .farArea [] 0x40000000).foldBad = true := by
  refine ⟨?_, by decide +kernel⟩
  have hw : (shardAt.ctlApply .farCfg [] .full farOnCfg).activeEntries = [0] :=
    (one_entry (by decide +kernel) (by decide +kernel) (by decide +kernel) (by decide +kernel) enable_other (by decide +kernel)).2
  unfold State.foldBad
  rw [hw]
  decide +kernel

/-- A channel that is on has its configuration listed. -/
theorem channel_listed {s : State} {c : Nat} (hc : c ∈ s.channels) : 4 ≤ c ∧ c < 4096 ∧ ∃ e ∈ s.ctl, e.1 = 0xC10000 + (64 * c + 0) := by
  simp only [State.channels, List.mem_filter, List.mem_range, Bool.and_eq_true, decide_eq_true_eq] at hc
  refine ⟨hc.2.1, hc.1, Classical.byContradiction fun hn => ?_⟩
  have e : regOff .farChanCfg [c] = 0xC10000 + (64 * c + 0) := rfl
  have hf : regFind (regOff .farChanCfg [c]) = some (.farChanCfg, [c]) :=
    Laws.regFindIn_own _ _ _ ⟨hc.1, fun _ => hc.2.1, trivial⟩ (Laws.names_nested _ (Laws.names_complete _)) (Laws.names_complete _) Laws.names_apart
  have hr : ctlReset (regOff .farChanCfg [c]) = 0x5DC := by
    unfold ctlReset
    rw [Nat.mod_eq_of_lt (by rw [e]; omega), hf]; rfl
  have hz : s.reg .farChanCfg [c] = 0x5DC := by
    unfold State.reg State.ctlRaw
    rw [tblGet_absent _ _ _ (fun x hx he => hn ⟨x, hx, by rw [he, e]⟩), hr]; rfl
  have hon := hc.2.2
  unfold State.flag State.rf at hon
  rw [hz] at hon
  exact absurd hon (by decide)
/-- With no other configuration listed, channel 5 is the only one that can be on; with none, no channel is. -/
theorem channels_five {s : State} (h : s.ctl.all (fun e => e.1 == 0xC10140 || e.1 < 0xC10100 || 0xC50000 ≤ e.1 || e.1 % 64 != 0) = true) : ∀ c ∈ s.channels, c = 5 := by
  intro c hc
  obtain ⟨h4, hm, e, he, hk⟩ := channel_listed hc
  have := List.all_eq_true.1 h e he
  simp only [Bool.or_eq_true, beq_iff_eq, bne_iff_ne, ne_eq, decide_eq_true_eq] at this
  omega
theorem noChannels {s : State} (h : s.ctl.all (fun e => e.1 < 0xC10100 || 0xC50000 ≤ e.1 || e.1 % 64 != 0) = true) : s.channels = [] := by
  rw [List.eq_nil_iff_forall_not_mem]
  intro c hc
  obtain ⟨h4, hm, e, he, hk⟩ := channel_listed hc
  have := List.all_eq_true.1 h e he
  simp only [Bool.or_eq_true, bne_iff_ne, ne_eq, decide_eq_true_eq] at this
  omega
theorem witness_FarRounds_digest : (postedB 1 0).workDone.roundWork.digestPartial = false ∧ (postedB 1 (2 ^ 47)).workDone.roundWork.digestPartial = true := by
  constructor <;> (unfold State.roundWork; rw [noChannels (by decide +kernel)]; decide +kernel)

/-- Channel 5 of port 2 to module 9 of site 6, in a state, with what it holds; the link up, the engine running, both contexts on chip under the key 0, 1, … 31. -/
def ctxOf (dir : Nat) : CtxRec := ⟨2, 5, dir, List.range 32 ++ List.replicate 72 0 ++ leBytes 2 (5 + dir * 2 ^ 15) ++ [1, 1] ++ List.replicate 20 0⟩
def cfg5 : Nat := 2 ^ 63 + 2 * 2 ^ 56 + 6 * 2 ^ 50 + 9 * 2 ^ 34 + 1280
def linked (st : Nat) (x : Chan) : State :=
  let s := ((site3 0).setReg .farChanCfg [5] cfg5).setReg .farChanState [5] (st * 2 ^ 61)
  let s := ((s.setReg .farPortCfg [2] (2 ^ 63 + 4791)).setReg .cipEngine [2] (2 ^ 63)).setReg .denModule [] 4
  let s := (s.setReg .farJob [] 77).setChan 5 x
  { s with time := 2200, cip := { s.cip with cache := [ctxOf 1, ctxOf 0] } }
theorem witness_FarRounds_channel : HostOpen 0 .farChanCfg [5] .full cfg5 (site3 0) ∧ (site3 0).chanOn 5 = false ∧ ((site3 0).ctlApply .farChanCfg [5] .full cfg5).chanOn 5 = true ∧
    ((site3 0).ctlApply .farChanCfg [5] .full cfg5).ctxEnableOk 5 = false ∧ HostOpen 0 .farChanCfg [5] .full (cfg5 - 2 ^ 63) (linked 2 Chan.reset) ∧ (linked 2 Chan.reset).chanOn 5 = true ∧
    (linked 2 Chan.reset).reg .farChanCfg [5] = setBits (((linked 2 Chan.reset).ctlApply .farChanCfg [5] .full (cfg5 - 2 ^ 63)).reg .farChanCfg [5]) 63 1 1 :=
  ⟨hostOpen_of (by decide +kernel), by decide +kernel, by decide +kernel, by decide +kernel, hostOpen_of (by decide +kernel), by decide +kernel, by decide +kernel⟩
/-- Contexts of channel 5 at HBM 0: both VALID, the transmit one fresh. -/
def keyed : State := (((site3 0).setReg .ledBase [] 0).pokes .unit 2560 (ctxOf 0).bytes).pokes .unit 2816 (ctxOf 1).bytes
theorem witness_FarRounds_channel_on : HostOpen 0 .farChanCfg [5] .full cfg5 keyed ∧ (keyed.ctlApply .farChanCfg [5] .full cfg5).ctxEnableOk 5 = true ∧ (keyed.ctlApply .farChanCfg [5] .full cfg5).chanBad 5 = false ∧
    HostOpen 0 .farChanCfg [5] .full (cfg5 - 3 * 2 ^ 50) keyed ∧ (keyed.ctlApply .farChanCfg [5] .full (cfg5 - 3 * 2 ^ 50)).chanBad 5 = true ∧
    (keyed.ctlApply .farChanCfg [5] .full cfg5).fbufBad = false ∧ ((keyed.setReg .farFbuf [] 129).ctlApply .farChanCfg [5] .full cfg5).fbufBad = true := by
  refine ⟨hostOpen_of (by decide +kernel), by decide +kernel, ?_, hostOpen_of (by decide +kernel), by decide +kernel, by decide +kernel, by decide +kernel⟩
  have hn : (keyed.ctlApply .farChanCfg [5] .full cfg5).channels.filter (· != 5) = [] := by
    rw [List.filter_eq_nil_iff]
    intro c hc h
    have := channels_five (s := keyed.ctlApply .farChanCfg [5] .full cfg5) (by decide +kernel) c hc
    subst this
    exact absurd h (by decide)
  unfold State.chanBad
  rw [hn]
  decide +kernel
/-- A transmit record with a reserved byte set (R8). -/
theorem witness_FarRounds_spoilt : keyed.ctxSpoilt 5 = false ∧ (keyed.pokes .unit (2560 + 90) [1]).ctxSpoilt 5 = true ∧ HostOpen 0 .farChanCfg [5] .full cfg5 (keyed.pokes .unit (2560 + 90) [1]) :=
  ⟨by decide +kernel, by decide +kernel, hostOpen_of (by decide +kernel)⟩
theorem test_spoilt : stop (.channelEnable 5 .full (BitVec.ofNat 64 cfg5)) (keyed.pokes .unit (2560 + 90) [1]) = some (.undefined (.ub 1)) := by decide +kernel
theorem witness_FarRounds_quota : HostOpen 0 .farClassQ [2] .full 4096 up ∧ up.classUse 2 ≤ (up.ctlApply .farClassQ [2] .full 4096).rf .farClassQ [2] 12 36 * 4096 ∧ HostOpen 0 .farChanQuota [5] .full 0 up ∧
    up.chanUse 5 = 0 ∧ HostOpen 0 .farAdmit [] .full 5 up ∧ HostOpen 0 .farAdmit [] .full (2 ^ 63 + 5) up ∧ up.flag .farAdmit [] 62 = false ∧ (up.setReg .farAdmit [] (2 ^ 62)).flag .farAdmit [] 62 = true := by
  refine ⟨hostOpen_of (by decide +kernel), ?_, hostOpen_of (by decide +kernel), by decide +kernel, hostOpen_of (by decide +kernel), hostOpen_of (by decide +kernel), by decide +kernel, by decide +kernel⟩
  have h : up.classUse 2 = 0 := by decide +kernel
  rw [h]; exact Nat.zero_le _

/-- A frame of each type, sequence 1 of channel 5: ciphertext and tag as another implementation of AES-256-GCM gives them; and its plaintext: a DATA record of block 0 that keeps element 3 with the code of 1.0 under scale 127; an ACK with CUM 7
and the range 8 to 12; a PROBE and an ECHO of time 1000, the ECHO with hold 2; a HELLO of round 4, span 2 and CONTRIB 9; sixteen bytes of STATE from 8 on. -/
def cipherOf : Nat → List Nat × List Nat
  | 1 => ([109, 164, 75, 24, 148, 16, 135, 156, 52, 36, 128, 6, 92, 17, 39, 105],
      [145, 165, 92, 103, 46, 66, 39, 248, 22, 139, 157, 112, 101, 47, 138, 74])
  | 2 => ([109, 164, 75, 31, 235, 16, 135, 154, 52, 20, 128, 62, 93, 17, 39, 105, 124, 226, 54, 173, 182, 247, 139, 99, 169, 131, 135, 30, 131, 206, 169, 17],
      [241, 146, 237, 208, 190, 59, 161, 134, 66, 39, 115, 213, 128, 16, 236, 83])
  | 3 => ([109, 164, 75, 24, 235, 16, 132, 117, 52, 20, 128, 62, 92, 17, 39, 105],
      [251, 108, 122, 203, 148, 67, 234, 80, 89, 224, 81, 9, 225, 254, 252, 23])
  | 4 => ([109, 164, 75, 24, 235, 16, 132, 117, 52, 20, 128, 60, 92, 17, 39, 105],
      [172, 73, 107, 89, 42, 71, 199, 178, 29, 117, 42, 9, 23, 225, 90, 55])
  | 5 => ([109, 164, 75, 28, 235, 18, 135, 157, 52, 20, 128, 62, 92, 17, 39, 96, 124, 226, 54, 165, 182, 247, 139, 111, 169, 131, 135, 30, 131, 206, 169, 17],
      [196, 243, 167, 197, 207, 52, 218, 201, 254, 20, 172, 193, 247, 34, 10, 25])
  | _ => ([109, 164, 75, 24, 235, 16, 135, 149, 52, 20, 128, 62, 92, 17, 39, 105, 124, 227, 52, 166, 178, 242, 141, 104, 161, 138, 141, 21, 143, 195, 167, 30],
      [149, 161, 79, 185, 235, 106, 176, 106, 120, 132, 48, 132, 202, 192, 28, 119])
def textOf : Nat → List Nat
  | 1 => [0, 0, 0, 0, 127, 0, 0, 1, 0, 48, 0, 56, 0, 0, 0, 0]
  | 2 => [0, 0, 0, 7, 0, 0, 0, 7, 0, 0, 0, 0, 1, 0, 0, 0, 0, 0, 0, 8, 0, 0, 0, 12, 0, 0, 0, 0, 0, 0, 0, 0]
  | 3 => [0, 0, 0, 0, 0, 0, 3, 232, 0, 0, 0, 0, 0, 0, 0, 0]
  | 4 => [0, 0, 0, 0, 0, 0, 3, 232, 0, 0, 0, 2, 0, 0, 0, 0]
  | 5 => [0, 0, 0, 4, 0, 2, 0, 0, 0, 0, 0, 0, 0, 0, 0, 9, 0, 0, 0, 0, 0, 0, 0, 0, 0, 0, 0, 0, 0, 0, 0, 0]
  | _ => [0, 0, 0, 0, 0, 0, 0, 8, 0, 0, 0, 0, 0, 0, 0, 0, 0, 1, 2, 3, 4, 5, 6, 7, 8, 9, 10, 11, 12, 13, 14, 15]
def headOf (typ : Nat) : List Nat := [0x10 + typ, 0, 0, 5, 6, 3, 0, 9, 0, 4, 0, (textOf typ).length, 0, 0, 0, 1, 0, 0, 0, 4, 0, 0, 0, 0, 0, 0, 0, 0, 0, 0, 0, 77]
def gram (typ : Nat) : Datagram := ⟨0, 0, 0, 0, 0, 0, 0, 4791, 4791, true, true, (headOf typ ++ (cipherOf typ).1 ++ (cipherOf typ).2).map (BitVec.ofNat 8)⟩
/-- The engine opens each of them. -/
theorem test_frames_open : ∀ typ ∈ [1, 2, 3, 4, 5, 6], gcmOpen (List.range 32) (cipIv 5 1) (headOf typ) (cipherOf typ).1 (cipherOf typ).2 = some (textOf typ) := by decide +kernel

/-- Opening with a context on chip. -/
theorem cipOpen_of {s : State} {f c seq : Nat} {hdr ct tag pt : List Nat} {r : CtxRec} (hr : s.cipReady f = true) (hf : s.cip.faulted = [])
    (hc : s.cip.cache.find? (fun q => q.isFor f c 1) = some r) (hs : ctxStrict r.bytes = false)
    (ho : gcmOpen (ctxKey r.bytes) (cipIv c (rxSeq (ctxSeq r.bytes) seq)) (aadOf hdr) ct tag = some pt) :
    s.cipOpen true f c hdr seq ct tag = (.ok (rxSeq (ctxSeq r.bytes) seq) pt, (s.drawMasks f ct.length).ctxUpdate f c 1 (ctxSet r.bytes 80 8 (max (ctxSeq r.bytes) (rxSeq (ctxSeq r.bytes) seq)))) := by
  unfold State.cipOpen State.ctxGet
  simp only [ctxTakes, hr, hf, hc, hs, ho, List.contains_nil, Bool.true_eq_false, Bool.false_eq_true, if_false, or_self, Bool.not_false, Bool.true_or]

/-- The state once a frame has opened. -/
def opened5 (st : Nat) (x : Chan) (n : Nat := 16) : State := ((linked st x).drawMasks 2 n).ctxUpdate 2 5 1 (ctxSet (ctxOf 1).bytes 80 8 1)
theorem frameIn_of (typ : Nat) (ht : typ ∈ [1, 2, 3, 4, 5, 6]) (st : Nat) (x : Chan) (hk : (linked st x).frameOk 2 (gram typ) = true ∧ ((linked st x).farLink 2 = true ∧ (linked st x).farHeld = false) ∧ (linked st x).cipReady 2 = true ∧
      (linked st x).cip.faulted = [] ∧ (linked st x).cip.cache.find? (fun q => q.isFor 2 5 1) = some (ctxOf 1) ∧ (opened5 st x (textOf typ).length).chanSt 5 ≠ 3 ∧
      (opened5 st x (textOf typ).length).payloadOk typ (textOf typ) = true) : FrameIn 2 typ (gram typ) 5 1 (textOf typ) (opened5 st x (textOf typ).length) (linked st x) where
  link := hk.2.1.1
  reach := hk.2.1.2
  type_ := by clear hk; revert ht; revert typ; decide +kernel
  checks := hk.1
  chan := by clear hk; revert ht; revert typ; decide +kernel
  opened := by
    have ha : (dgBytes (gram typ)).take 32 = headOf typ ∧ hdrF (dgBytes (gram typ)) 12 4 = 1 ∧ ((dgBytes (gram typ)).drop 32).take ((dgBytes (gram typ)).length - 48) = (cipherOf typ).1 ∧
        (dgBytes (gram typ)).drop ((dgBytes (gram typ)).length - 16) = (cipherOf typ).2 ∧ aadOf (headOf typ) = headOf typ ∧
        (cipherOf typ).1.length = (textOf typ).length ∧ (gram typ).room = true := by clear hk; revert ht; revert typ; decide +kernel
    rw [ha.1, ha.2.1, ha.2.2.1, ha.2.2.2.1, ha.2.2.2.2.2.2, opened5, ← ha.2.2.2.2.2.1]
    exact cipOpen_of hk.2.2.1 hk.2.2.2.1 hk.2.2.2.2.1 (by decide +kernel) (by rw [ha.2.2.2.2.1]; exact test_frames_open typ ht)
  form := hk.2.2.2.2.2.2
  lit := hk.2.2.2.2.2.1
/-- A channel that awaits acknowledgement of sequences 6, 7 and 9, each sent once. -/
def sentX : Chan := { Chan.reset with frames := [⟨6, 0, [0, 0], [], 1, 0, false⟩, ⟨7, 0, [0, 0], [], 1, 0, false⟩, ⟨9, 0, [0, 0], [], 1, 0, false⟩] }
theorem witness_FarFrames : ∀ typ (_ : typ ∈ [1, 2, 3, 4, 5, 6]), FrameIn 2 typ (gram typ) 5 1 (textOf typ) (opened5 2 Chan.reset (textOf typ).length) (linked 2 Chan.reset) := by
  intro typ ht
  refine frameIn_of typ ht 2 Chan.reset ?_
  revert ht; revert typ; decide +kernel
theorem witness_FarFrames_states : FrameIn 2 5 (gram 5) 5 1 (textOf 5) (opened5 1 Chan.reset 32) (linked 1 Chan.reset) ∧ FrameIn 2 2 (gram 2) 5 1 (textOf 2) (opened5 2 sentX 32) (linked 2 sentX) ∧
    FrameIn 2 1 (gram 1) 5 1 (textOf 1) (opened5 2 { Chan.reset with seen := [1], rxTop := 2 }) (linked 2 { Chan.reset with seen := [1], rxTop := 2 }) ∧
    FrameIn 2 4 (gram 4) 5 1 (textOf 4) (opened5 2 { Chan.reset with rtt := true }) (linked 2 { Chan.reset with rtt := true }) :=
  ⟨frameIn_of 5 (by decide) _ _ (by decide +kernel), frameIn_of 2 (by decide) _ _ (by decide +kernel), frameIn_of 1 (by decide) _ _ (by decide +kernel), frameIn_of 4 (by decide) _ _ (by decide +kernel)⟩
/-- R519: with the context area out of reach a frame is lost. -/
def outOfReach (s : State) : State := { s with isl := { s.isl with quiesced := List.range 8 } }
theorem witness_FarFrames_held : (outOfReach (linked 2 Chan.reset)).farHeld = true ∧ (linked 2 Chan.reset).farHeld = false ∧ (linked 2 Chan.reset).farLink 2 = true ∧ (dgBytes (gram 1)).getD 0 0 % 16 = 1 ∧
    (linked 2 Chan.reset).frameOk 2 { gram 1 with ok := false } = false ∧ (linked 2 Chan.reset).frameOk 2 { gram 1 with room := false } = true := by decide +kernel
theorem test_frame_lost : after (.data 2 (gram 1)) (outOfReach (linked 2 Chan.reset)) = outOfReach (linked 2 Chan.reset) := by decide +kernel
theorem witness_FarFrames_data : (let s1 := opened5 2 Chan.reset; (s1.chan 5).pend.length < 3 ∧ (s1.chan 5).duplicate 1 = false ∧ splitRecords s1.blocks (16 + 1) (textOf 1) = some [(0, textOf 1)] ∧ s1.joining = false ∧ s1.farOn = true ∧
      roundBefore s1.far.newest 4 = false ∧ roundBefore 4 s1.farFirst = false ∧ roundBefore 4 s1.far.old = false ∧ (s1.blocks[0]?).isSome = true ∧ (f32Val (s1.staleW 0)).isZero = false ∧ s1.rf .farChanCfg [5] 28 6 = 0) ∧
    (opened5 2 { Chan.reset with seen := [1], rxTop := 2 } |>.chan 5).duplicate 1 = true ∧ splitRecords (opened5 2 Chan.reset).blocks 17 [1] = none := by decide +kernel
theorem witness_FarFrames_echo : (usSince (opened5 2 Chan.reset).time (beVal ((textOf 4).take 8)) : Int) - beVal (((textOf 4).drop 8).take 4) = 10 ∧ (opened5 1 Chan.reset).chanSt 5 = 1 ∧
    min (roundSub 4 (opened5 1 Chan.reset).farRoundNo) (roundSub (opened5 1 Chan.reset).farRoundNo 4) ≤ (opened5 1 Chan.reset).farLag := by decide +kernel
/-- R420: CUM 7 acknowledges sequence 6, the range 8 to 12 sequence 9; with four reported above it, 7 is lost. R411: a DATA record's bytes arrive in RECV. R418: the first RTT sample is 10 µs. What a frame that opens does, once the engine has opened it. -/
theorem receive_of {typ st : Nat} {x : Chan} {k : Nat → Nat → List Nat → List Nat → State → Ans} (ht : typ ∈ [1, 2, 3, 4, 5, 6]) (h : FrameIn 2 typ (gram typ) 5 1 (textOf typ) (opened5 st x (textOf typ).length) (linked st x)) :
    (linked st x).receive 2 typ (gram typ) k = (k 5 1 (headOf typ) (textOf typ) (opened5 st x (textOf typ).length)).andThen (fun s => .next ((s.contact 5 1).tryResume 5)) := by
  have ha : ((dgBytes (gram typ)).take 32).getD 0 0 % 16 = typ ∧ hdrF ((dgBytes (gram typ)).take 32) 2 2 = 5 ∧ (dgBytes (gram typ)).take 32 = headOf typ ∧ hdrF ((dgBytes (gram typ)).take 32) 12 4 = hdrF (dgBytes (gram typ)) 12 4 ∧
      32 + ((dgBytes (gram typ)).length - 48) = (dgBytes (gram typ)).length - 16 := by clear h; revert ht; revert typ; decide +kernel
  unfold State.receive
  simp only [ha.1, ha.2.1, ha.2.2.2.1, ha.2.2.2.2]
  rw [if_neg (by simp [h.link, h.reach]), if_neg (by simp [h.checks]), h.opened, ha.2.2.1]
  exact if_neg (by simp [h.form])
theorem test_ack : ((after (.ackFrame 2 (gram 2)) (linked 2 sentX)).chan 5).frames = [⟨7, 0, [0, 0], [], 1, 0, true⟩] := by
  have e : exec (.ackFrame 2 (gram 2)) (linked 2 sentX) = execAckFrame 2 (gram 2) (linked 2 sentX) := rfl
  rw [after, e, execAckFrame, show ((2 : Fin 4).val) = 2 from rfl, receive_of (by decide) witness_FarFrames_states.2.1]; decide +kernel
theorem test_data : (let s := after (.data 2 (gram 1)) (linked 2 Chan.reset); s.peeks .unit (s.area.recv 4 0) 16 = textOf 1 ∧ s.peek .unit (s.area.map 4 0) = 1) := by
  have e : exec (.data 2 (gram 1)) (linked 2 Chan.reset) = execData 2 (gram 1) (linked 2 Chan.reset) := rfl
  rw [after, e, execData, show ((2 : Fin 4).val) = 2 from rfl, receive_of (by decide) (witness_FarFrames 1 (by decide))]; decide +kernel
theorem test_echo : (after (.echo 2 (gram 4)) (linked 2 Chan.reset)).reg .farChanRtt [5] = 10 * 2 ^ 32 + 5 := by
  have e : exec (.echo 2 (gram 4)) (linked 2 Chan.reset) = execEcho 2 (gram 4) (linked 2 Chan.reset) := rfl
  rw [after, e, execEcho, show ((2 : Fin 4).val) = 2 from rfl, receive_of (by decide) (witness_FarFrames 4 (by decide))]; decide +kernel
theorem test_bad_frame : (after (.data 2 { gram 1 with ok := false }) (linked 2 Chan.reset)).tallyAt (regOff .farTally [6]) = ⟨1, false⟩ := by decide +kernel

/-- One record to frame; room for it. -/
def job : TxJob := ⟨0, 4, 0, false, [], 0, [], []⟩
def roomy (x : Chan) : State := ((((linked 2 x).setReg .farChanQuota [5] 4096).setReg .farClassQ [0] 4096).setReg .farFbuf [] 1).setReg .farChanRate [5] (2 ^ 32 * 100 + 100)
theorem witness_FarSending : (let s := roomy { Chan.reset with jobs := [job] }; s.nextJob 5 = some job ∧ (s.jobText 5 job).2.1 = 1 ∧ s.quotaOk 5 0 (48 + (s.jobText 5 job).1.length) = true) ∧
    (linked 2 Chan.reset).nextJob 5 = none ∧ (let s := linked 2 { Chan.reset with jobs := [job] }; s.nextJob 5 = none ∧ s.quotaOk 5 0 64 = false) := by decide +kernel
def sendX (sends : Nat) (lost : Bool) : Chan := { Chan.reset with frames := [⟨6, 0, [0x11, 0], [1, 2], sends, 0, lost⟩] }
theorem witness_FarSending_frames : (roomy (sendX 0 false)).mayTransmit 5 = true ∧ ((roomy (sendX 1 true)).chan 5).frames.find? (·.lost) = some ⟨6, 0, [0x11, 0], [1, 2], 1, 0, true⟩ ∧
    ((roomy (sendX 0 false)).chan 5).frames.find? (·.lost) = none ∧ ((roomy (sendX 0 false)).setReg .farChanRtt [5] (100 * 2 ^ 32)).farWindow 5 = 10 ∧
    ((roomy (sendX 0 false)).setReg .farChanRate [5] 0).mayTransmit 5 = false ∧
    (((roomy (sendX 0 false)).setReg .farChanRtt [5] 0).farWindow 5 = 0) ∧ (roomy (sendX 0 false)).isl.quiesced = [] ∧ (((roomy (sendX 1 false)).chan 5).frames.find? (fun f => f.seq == 6 && 0 < f.sends)).isSome = true ∧
    (∀ st ∈ [0, 1, 2, 3, 4, 5, 6, 7], (linked st Chan.reset).chanSt 5 = st) ∧ ((linked 2 { Chan.reset with pend := [(4, 100)] }).chan 5).pend = [(4, 100)] := by decide +kernel
/-- An image of a thousand bytes to frame: its frame is sealed segment by segment (R435). -/
def imageJob : TxJob := ⟨2, 4, 0, false, [], 0, [], List.replicate 1000 0⟩
def imaging : State := (roomy { Chan.reset with jobs := [imageJob] }).setReg .farClassQ [2] 4096
def sealed (n d : Nat) : Sealing := ⟨⟨1, 2, headOf 6, List.replicate n 7, 0, 0, false⟩, d, imageJob, 1000, true⟩
def sealing (n d : Nat) : State := roomy { Chan.reset with jobs := [imageJob], sealing := some (sealed n d) }
theorem witness_FarSending_segments : imaging.farHeld = false ∧ (imaging.chan 5).sealing = none ∧ imaging.nextJob 5 = some imageJob ∧ 512 < (imaging.jobText 5 imageJob).1.length ∧
    (imaging.cipSeal 2 5 (fun _ => headOf 6) (imaging.jobText 5 imageJob).1).1.isSome = true ∧ ((sealing 1032 0).chan 5).sealing = some (sealed 1032 0) ∧ (sealing 1032 0).cipReady 2 = true ∧
    ((sealing 1032 0).ctxGet 2 5 0).1.isSome = true ∧ (sealed 1032 0).done + 528 < (sealed 1032 0).frame.body.length ∧ (sealed 1032 512).frame.body.length ≤ (sealed 1032 512).done + 528 ∧ (sealed 1032 512).whole = true ∧
    ((sealing 1032 0).setReg .cipEngine [2] 0).cipReady 2 = false := by decide +kernel
theorem test_segments : (after (.frameAdmit 5) (sealing 1032 0)).chan 5 = { Chan.reset with jobs := [imageJob], sealing := some (sealed 1032 512) } ∧
    (after (.frameAdmit 5) (sealing 1032 512)).chan 5 = { Chan.reset with frames := [(sealed 1032 0).frame] } := by decide +kernel
/-- The donor of an admission apply goes DARK. -/
def donorDark : State := (((roomy Chan.reset).setReg .farStatus [] (2 ^ 7 + 1)).setReg .farAdmit [] (2 ^ 62 + 5)).setReg .farApplyWait [] (3 * 2 ^ 62)
theorem witness_FarSending_donor : donorDark.joining = true ∧ donorDark.flag .farAdmit [] 62 = true ∧ donorDark.rf .farAdmit [] 0 12 = 5 ∧ donorDark.phase ≠ 0 ∧ donorDark.flag .farApplyWait [] 62 = true ∧ donorDark.chanSt 5 = 2 := by decide +kernel
theorem test_donor_dark : (after (.farDark 5) donorDark).far.failed = true ∧ (after (.farDark 5) donorDark).rf .farAdmit [] 60 2 = 2 := by decide +kernel
/-- R420: a frame sent again has RETX and counts; R419: the rate rises by a thirty-second, and falls to seven eighths. -/
theorem test_send : ((after (.frameSend 5) (roomy (sendX 1 true))).out.map (fun o => match o with
      | .far p d => (p, dgBytes d)
      | _ => (9, []))) = [(2, [0x11, 0x80, 1, 2])] ∧ (after (.frameSend 5) (roomy (sendX 1 true))).tallyAt (regOff .farTally [0]) = ⟨1, false⟩ ∧ (after (.frameSend 5) (roomy (sendX 0 false))).out = [] ∧
    (after (.rateAdjust 5) (roomy { Chan.reset with lossSeen := true })).reg .farChanRate [5] = 2 ^ 32 * 87 + 100 ∧ (after (.rateAdjust 5) (roomy Chan.reset)).reg .farChanRate [5] = 2 ^ 32 * 100 + 100 ∧
    (after (.farDark 5) (roomy Chan.reset)).chanSt 5 = 3 ∧ ((after (.farDark 5) (roomy Chan.reset)).chan 5).slot = some 0 := by decide +kernel

/-! ### Cipher engines -/

/-- Engine 2 READY with its lock owned and an operation in progress or not. -/
def engine (owner : Nat) (busy : Bool) : State :=
  let s := ((up.setReg .cipEngine [2] (2 ^ 63)).setReg .cipPlock [2] (owner * 2 ^ 56 + 3)).setReg .cipPop [2] (if busy then 2 ^ 62 else 0)
  s
/-- The same where Shepherd serves. -/
def engServed (owner : Nat) : State := (engine owner false).setReg .shmStatus [] (2 ^ 63)
theorem witness_CipherLocks : HostOpen 0 .cipPlock [2] .full (2 ^ 63 + 2) (engine 0 false) ∧ HostOpen 0 .cipPlock [2] .high (2 ^ 63) (engine 0 false) ∧ (engine 0 false).cipOwner 2 = 0 ∧
    HostOpen 0 .cipPlock [2] .full (2 ^ 62) (engine 1 true) ∧ (engine 1 true).cipOwner 2 = 1 ∧ (engine 1 true).cipBusy 2 = true ∧ (engine 1 false).cipBusy 2 = false ∧ HostOpen 0 .cipPlock [2] .full (2 ^ 62) (engine 1 false) ∧
    (engine 2 false).cipOwner 2 = 2 ∧ HostOpen 0 .cipPlock [2] .full (2 ^ 62) (engine 2 false) ∧ (accBits .full (2 ^ 62)).testBit 62 = true ∧ (accBits .full (2 ^ 63 + 2)).testBit 63 = true ∧
    HostOpen 0 .cipEngine [2] .full (2 ^ 61) up ∧ HostOpen 0 .cipEngine [2] .full (2 ^ 62) up ∧ CipSends true .cipPlock 2 .full (2 ^ 63 + 2) (engServed 0) ∧ CipSends true .cipPop 2 .full (2 ^ 63 + 2 ^ 54) (engServed 2) ∧
    (engServed 2).popOwned 2 2 = true ∧ (engServed 2).cipReady 2 = true ∧ (engServed 0).cipOwner 2 = 0 ∧ tblGet (fun _ => 0) ({ up with cip := { Cip.reset with requests := [(2, 2 ^ 20)] } } : State).cip.requests 2 = 2 ^ 20 :=
  ⟨hostOpen_of (by decide +kernel), hostOpen_of (by decide +kernel), by decide +kernel, hostOpen_of (by decide +kernel), by decide +kernel, by decide +kernel, by decide +kernel, hostOpen_of (by decide +kernel),
    by decide +kernel, hostOpen_of (by decide +kernel), by decide +kernel, by decide +kernel, hostOpen_of (by decide +kernel), hostOpen_of (by decide +kernel), (if_pos rfl).mpr (by decide +kernel), (if_pos rfl).mpr (by decide +kernel), by decide +kernel, by decide +kernel, by decide +kernel, by decide +kernel⟩
/-- R463: an engine's generator is reseeded after 2^20 requests. -/
theorem test_reseed : (after (.reseed 2) { up with cip := { Cip.reset with requests := [(2, 2 ^ 20 + 3)] } }).cip.reseeds = [(2, 1)] ∧ (after (.reseed 2) up).cip.reseeds = [] ∧
    (after (.lockAcquire 2 ⟨.full, true⟩ (2 ^ 63 + 2)) (engServed 0)).cipOwner 2 = 2 := by decide +kernel
/-- R452: ACQUIRE takes a free lock; RELEASE during an operation waits for its end. -/
theorem test_locks : (after (.lockAcquire 2 ⟨.full, false⟩ (2 ^ 63 + 2)) (engine 0 false)).reg .cipPlock [2] = 2 ^ 56 + 2 ∧ (after (.lockRelease 2 ⟨.full, false⟩ (2 ^ 62)) (engine 1 false)).cipOwner 2 = 0 ∧
    (after (.lockRelease 2 ⟨.full, false⟩ (2 ^ 62)) (engine 1 true)).cip.releasing = [2] ∧ (after (.cipLockBreak 2) (engine 2 false)).reg .cipPlock [2] = 2 ^ 61 + 3 ∧
    (after (.cipEntropyFail 2 0) (engine 1 true)).rf .cipPstatus [2] 60 4 = 9 ∧ (after (.restart 2 .full (2 ^ 61)) (engine 0 false)).cip.testing = [2] ∧
    (after (.startUpTestsPass 2) { up with cip := { Cip.reset with testing := [2] } }).cipReady 2 = true := by decide +kernel

/-- Key slot 3 holds the key 0, 1, … 31, which is also the KEK; HBM holds the sixteen bytes 0 to 15 at 0x1000, their ciphertext and tag under sequence 0 on channel 1 at 0x2000 as another implementation of AES-256-GCM gives them, and at
0x3000 the wrapped key of RFC 3394, section 4.6, with eight bytes after it. -/
def keys : State :=
  let s := (engine 1 true).pokes .unit 0x1000 (List.range 16)
  let s := s.pokes .unit 0x2000 ([68, 55, 207, 169, 8, 95, 242, 175, 87, 53, 111, 155, 165, 176, 59, 143] ++ [147, 133, 130, 100, 34, 63, 155, 125, 213, 26, 216, 229, 64, 194, 60, 9])
  let s := s.pokes .unit 0x3000 (beBytes 40 0x28C9F404C4B810F4CBCCB35CFB87F8263F5786E2D80ED326CBC7F0E71A99F43BFB988B9B7A02DD21 ++ [1, 2, 3, 4, 5, 6, 7, 8])
  { s.setReg .cipCtxCfg [] 0x40000000 with cip := { Cip.reset with kek := some (List.range 32), pkeys := [(3, List.range 32)] } }
def privOp (op src dst len : Nat) : PrivOp := ⟨2, if op ≤ 2 then 1 else 0, op, false, 0, 3, 5, src, dst, 0, len, 0, true⟩
def doing (o : PrivOp) : State := { keys with cip := { keys.cip with ops := [o] } }
theorem plainBytes_rising {s : State} {by_ : Issuer} {as : List Nat} (f : Nat → Nat) (h : ∀ a ∈ as, s.locate by_ true a = .mem (f a) ∧ s.locate by_ false a = .mem (f a) ∧ accGroup a = none ∧ s.mapAt (f a) = none)
    (hc : (as.map f).IsChain (· < ·)) : PlainBytes s by_ as :=
  ⟨f, h, fun _ ha _ hb e => List.inj_on_of_nodup_map (List.isChain_iff_pairwise.1 hc |>.imp (fun h => Nat.ne_of_lt h)) ha hb e⟩
/-- Where HBM keeps an address of region 0. -/
def hbmKey (a : Nat) : Nat := match up.locate .unit true a with
  | .mem k => k
  | _ => 0
theorem witness_CipherOperations_go : (∀ row ∈ [(1 : Nat), 2, 3, 4, 5], opens 0 .cipPop [2] .full (2 ^ 63 + row * 2 ^ 54) (engine 1 false) = true ∧ fld (ctlMerge .cipPop .full ((engine 1 false).reg .cipPop [2]) (2 ^ 63 + row * 2 ^ 54)) 54 4 = row) ∧
    (engine 1 false).popOwned 1 2 = true ∧ (engine 1 false).cipReady 2 = true ∧ ((engine 1 false).setReg .cipEngine [2] 0).cipReady 2 = false ∧ (engine 0 false).cipOwner 2 = 0 ∧ (engine 2 false).popOwned 1 2 = false ∧
    (engine 2 false).cipOwner 2 ≠ 0 := by decide +kernel
theorem witness_CipherOperations : (∀ o ∈ [privOp 1 0x1000 0x4000 16, privOp 2 0x2000 0x4000 16, privOp 3 0x3000 0 0, privOp 4 0x3000 0 0], (doing o).cip.ops.find? (fun o => o.eng == 2) = some o ∧ (doing o).popCheck o = 1 ∧ (doing o).popMisplaced o = false ∧
      ((doing o).lowFault .unit false ((List.range o.srcLen).map (o.src + ·))).isSome = false ∧ ((doing o).lowFault .unit true ((List.range o.dstLen).map (o.dst + ·))).isSome = false) ∧
    (let o := privOp 1 0x1000 0x1000 16; (doing o).popCheck o = 1 ∧ (doing o).popMisplaced o = true ∧ ((doing o).lowFault .unit false ((List.range o.srcLen).map (o.src + ·))).isSome = false ∧
      ((doing o).lowFault .unit true ((List.range o.dstLen).map (o.dst + ·))).isSome = false) ∧ (doing (privOp 9 0 0 0)).popCheck (privOp 9 0 0 0) ≠ 1 ∧
    ((doing (privOp 4 0x40001000 0 0)).lowFault .unit false ((List.range (privOp 4 0x40001000 0 0).srcLen).map (0x40001000 + ·))).isSome = true ∧ (doing (privOp 4 0x40001000 0 0)).popCheck (privOp 4 0x40001000 0 0) = 1 := by decide +kernel
theorem witness_CipherOperations_fault : (let o := privOp 4 0x50000000 0 0; (doing o).popCheck o = 1 ∧ ((doing o).lowFault .unit false ((List.range o.srcLen).map (o.src + ·))).isSome = true) ∧
    (doing (privOp 3 0x3000 0 0)).ctxWrap = false ∧ (((doing (privOp 3 0x3000 0 0)).setReg .cipCtxCfg [] 0).lowFault .unit true [((doing (privOp 3 0x3000 0 0)).setReg .cipCtxCfg [] 0).ctxAddr 5 0]).isSome = false := by decide +kernel
/-- The operations 1 and 2 write plain HBM; a context at HBM 0 is plain HBM too. -/
theorem witness_CipherOperations_plain : PlainBytes (doing (privOp 1 0x1000 0x4000 16)) .unit ((List.range 32).map (0x4000 + ·)) ∧
    PlainBytes ((doing (privOp 3 0x8000 0 0)).setReg .cipCtxCfg [] 0) .unit ((List.range 128).map (((doing (privOp 3 0x8000 0 0)).setReg .cipCtxCfg [] 0).ctxAddr 5 0 + ·)) :=
  ⟨plainBytes_rising hbmKey (by decide +kernel) (by decide +kernel), plainBytes_rising hbmKey (by decide +kernel) (by decide +kernel)⟩
theorem witness_CipherOperations_spent : (let s := doing (privOp 1 0x1000 0x4000 16); let s := { s with cip := { s.cip with pseqs := [(3, 2 ^ 64)] } }; s.popCheck (privOp 1 0x1000 0x4000 16) = 1 ∧ s.popMisplaced (privOp 1 0x1000 0x4000 16) = false ∧
      s.cip.ops.find? (fun o => o.eng == 2) = some (privOp 1 0x1000 0x4000 16) ∧ 2 ^ 64 ≤ tblGet (fun _ => 0) s.cip.pseqs 3) ∧
    (let s := doing (privOp 3 0x3000 0 0); s.popCheck (privOp 3 0x3000 0 0) = 1 ∧ (s.lowFault .unit true [s.ctxAddr 5 0]).isSome = true) := by decide +kernel
/-- R455: the ciphertext and tag that ENCRYPT of channel 1 writes, and that its sequence is consumed; PKEYLOAD and the RFC's key. -/
theorem test_encrypt : gcmText (List.range 32) (cipIv 1 0) (List.range 16) = [68, 55, 207, 169, 8, 95, 242, 175, 87, 53, 111, 155, 165, 176, 59, 143] ∧ gcmTag (List.range 32) (cipIv 1 0) [] [68, 55, 207, 169, 8, 95, 242, 175, 87, 53, 111, 155, 165, 176, 59, 143] = [147, 133, 130, 100, 34, 63, 155, 125, 213, 26, 216, 229, 64, 194, 60, 9] := by decide +kernel
theorem test_encrypt_done : (after (.privilegedResult 2) (doing (privOp 1 0x1000 0x4000 16))).cip.pseqs = [(3, 1)] := by decide +kernel
/-- The unwrap, round by round; the first is the example of RFC 3394, section 4.6, the second the same with one bit of the wrap changed. -/
theorem kw_of {c a0 a1 a2 a3 a4 a5 a6 : List Nat} {r0 r1 r2 r3 r4 r5 r6 : List (List Nat)} (hw : words8 c = a0 :: r0.reverse) (hl : r0.length = 4) (h1 : kwUnwrapGo (List.range 32) r0 a0 24 = (a1, r1))
    (h2 : kwUnwrapGo (List.range 32) r1 a1 20 = (a2, r2)) (h3 : kwUnwrapGo (List.range 32) r2 a2 16 = (a3, r3)) (h4 : kwUnwrapGo (List.range 32) r3 a3 12 = (a4, r4)) (h5 : kwUnwrapGo (List.range 32) r4 a4 8 = (a5, r5))
    (h6 : kwUnwrapGo (List.range 32) r5 a5 4 = (a6, r6)) : kwUnwrap (List.range 32) c = if a6 = List.replicate 8 0xA6 then some r6.reverse.flatten else none := by
  have e : List.range 6 = [0, 1, 2, 3, 4, 5] := by decide
  unfold kwUnwrap
  rw [hw, e]
  simp only [List.reverse_reverse, List.length_reverse, hl, List.foldl_cons, List.foldl_nil, Nat.sub_zero, h1, h2, h3, h4, h5, h6, show 4 * 6 = 24 from rfl, show 4 * (6 - 1) = 20 from rfl, show 4 * (6 - 2) = 16 from rfl,
    show 4 * (6 - 3) = 12 from rfl, show 4 * (6 - 4) = 8 from rfl, show 4 * (6 - 5) = 4 from rfl]
theorem kw_rfc_0 : kwUnwrapGo (List.range 32) ([0xfb988b9b7a02dd21, 0xcbc7f0e71a99f43b, 0x3f5786e2d80ed326, 0xcbccb35cfb87f826].map (beBytes 8)) (beBytes 8 0x28c9f404c4b810f4) 24 = (beBytes 8 0xd058823360f88a23, ([0x07dfe775b9687e73, 0x1cfbf6b4c24cb982, 0xf7edad518c960d36, 0x1bb8c765a84195e7].map (beBytes 8))) := by decide +kernel
theorem kw_rfc_1 : kwUnwrapGo (List.range 32) ([0x07dfe775b9687e73, 0x1cfbf6b4c24cb982, 0xf7edad518c960d36, 0x1bb8c765a84195e7].map (beBytes 8)) (beBytes 8 0xd058823360f88a23) 20 = (beBytes 8 0x5075496800978b5a, ([0x40f68c91db49702c, 0xc272e9466aae98f9, 0xbca418bbf7dce60b, 0x4745856af333f01f].map (beBytes 8))) := by decide +kernel
theorem kw_rfc_2 : kwUnwrapGo (List.range 32) ([0x40f68c91db49702c, 0xc272e9466aae98f9, 0xbca418bbf7dce60b, 0x4745856af333f01f].map (beBytes 8)) (beBytes 8 0x5075496800978b5a) 16 = (beBytes 8 0xf9ed8a1429515669, ([0x3cf149e90e8c04d9, 0xf56701daf0388216, 0xfbec169fa5c0f6ba, 0xd6ae29ece7192d43].map (beBytes 8))) := by decide +kernel
theorem kw_rfc_3 : kwUnwrapGo (List.range 32) ([0x3cf149e90e8c04d9, 0xf56701daf0388216, 0xfbec169fa5c0f6ba, 0xd6ae29ece7192d43].map (beBytes 8)) (beBytes 8 0xf9ed8a1429515669) 12 = (beBytes 8 0xc58b9d3ac6d5b946, ([0x73e3b6cbe5d05d74, 0xc365b66943e2d760, 0xefd48ba304945576, 0xe7d1194d853e53f8].map (beBytes 8))) := by decide +kernel
theorem kw_rfc_4 : kwUnwrapGo (List.range 32) ([0x73e3b6cbe5d05d74, 0xc365b66943e2d760, 0xefd48ba304945576, 0xe7d1194d853e53f8].map (beBytes 8)) (beBytes 8 0xc58b9d3ac6d5b946) 8 = (beBytes 8 0x564408fdd0dd2ea0, ([0xe5923cb9fdb56fbc, 0x6ca405593a3b5154, 0xf60e0cdb7f429fe8, 0xf661bd9f31fbfa31].map (beBytes 8))) := by decide +kernel
theorem kw_rfc_5 : kwUnwrapGo (List.range 32) ([0xe5923cb9fdb56fbc, 0x6ca405593a3b5154, 0xf60e0cdb7f429fe8, 0xf661bd9f31fbfa31].map (beBytes 8)) (beBytes 8 0x564408fdd0dd2ea0) 4 = (beBytes 8 0xa6a6a6a6a6a6a6a6, ([0x08090a0b0c0d0e0f, 0x0001020304050607, 0x8899aabbccddeeff, 0x0011223344556677].map (beBytes 8))) := by decide +kernel
theorem kw_bad_0 : kwUnwrapGo (List.range 32) ([0xfb988b9b7a02dd20, 0xcbc7f0e71a99f43b, 0x3f5786e2d80ed326, 0xcbccb35cfb87f826].map (beBytes 8)) (beBytes 8 0x28c9f404c4b810f4) 24 = (beBytes 8 0x3d25f9c41d74008f, ([0x8b4f3add150e38a5, 0xb26a8322a5b83bdb, 0x81894c842d216f19, 0xaf3575159b5c5dff].map (beBytes 8))) := by decide +kernel
theorem kw_bad_1 : kwUnwrapGo (List.range 32) ([0x8b4f3add150e38a5, 0xb26a8322a5b83bdb, 0x81894c842d216f19, 0xaf3575159b5c5dff].map (beBytes 8)) (beBytes 8 0x3d25f9c41d74008f) 20 = (beBytes 8 0xab0d316acad3ac82, ([0xacd713d931f23e87, 0xba921bbb1efd76e5, 0xf344e5abd4d6934d, 0x48dcb117fc18ae3d].map (beBytes 8))) := by decide +kernel
theorem kw_bad_2 : kwUnwrapGo (List.range 32) ([0xacd713d931f23e87, 0xba921bbb1efd76e5, 0xf344e5abd4d6934d, 0x48dcb117fc18ae3d].map (beBytes 8)) (beBytes 8 0xab0d316acad3ac82) 16 = (beBytes 8 0x87da891bcf308c9f, ([0x668b2b4b39699608, 0xd526a9c854d21d62, 0x1ab2255480de4935, 0xbc2b36e29eba1367].map (beBytes 8))) := by decide +kernel
theorem kw_bad_3 : kwUnwrapGo (List.range 32) ([0x668b2b4b39699608, 0xd526a9c854d21d62, 0x1ab2255480de4935, 0xbc2b36e29eba1367].map (beBytes 8)) (beBytes 8 0x87da891bcf308c9f) 12 = (beBytes 8 0x409d74fe82bc5836, ([0xed9e5ea6248942ee, 0x4b52a1284a629e6c, 0x7785b8704601ba39, 0x41dec3f4707b160d].map (beBytes 8))) := by decide +kernel
theorem kw_bad_4 : kwUnwrapGo (List.range 32) ([0xed9e5ea6248942ee, 0x4b52a1284a629e6c, 0x7785b8704601ba39, 0x41dec3f4707b160d].map (beBytes 8)) (beBytes 8 0x409d74fe82bc5836) 8 = (beBytes 8 0x9153ebc9f0f8f780, ([0x52ea58dbbcaaa8bd, 0x3cd24f1169fef090, 0xcc6ce620579fe4f1, 0xe38cf06d5313e76f].map (beBytes 8))) := by decide +kernel
theorem kw_bad_5 : kwUnwrapGo (List.range 32) ([0x52ea58dbbcaaa8bd, 0x3cd24f1169fef090, 0xcc6ce620579fe4f1, 0xe38cf06d5313e76f].map (beBytes 8)) (beBytes 8 0x9153ebc9f0f8f780) 4 = (beBytes 8 0x8decc2a1531dfa98, ([0x005feaff2e5fb00b, 0x9ba3448c68c47b9b, 0xdab7613264cf0ed9, 0xbf772eee045c7cfb].map (beBytes 8))) := by decide +kernel
theorem test_unwrap : kwUnwrap (List.range 32) (beBytes 40 0x28C9F404C4B810F4CBCCB35CFB87F8263F5786E2D80ED326CBC7F0E71A99F43BFB988B9B7A02DD21) = some (beBytes 32 0x00112233445566778899AABBCCDDEEFF000102030405060708090A0B0C0D0E0F) := by
  rw [kw_of (by decide +kernel) (by decide) kw_rfc_0 kw_rfc_1 kw_rfc_2 kw_rfc_3 kw_rfc_4 kw_rfc_5]; decide +kernel
theorem witness_CipherOperations_unwrap : kwUnwrap (List.range 32) (beBytes 40 0x28C9F404C4B810F4CBCCB35CFB87F8263F5786E2D80ED326CBC7F0E71A99F43BFB988B9B7A02DD20) = none ∧
    kwUnwrap (List.range 32) ((doing (privOp 4 0x3000 0 0)).peeks .unit 0x3000 40) = some (beBytes 32 0x00112233445566778899AABBCCDDEEFF000102030405060708090A0B0C0D0E0F) := by
  have e : (doing (privOp 4 0x3000 0 0)).peeks .unit 0x3000 40 = beBytes 40 0x28C9F404C4B810F4CBCCB35CFB87F8263F5786E2D80ED326CBC7F0E71A99F43BFB988B9B7A02DD21 := by decide +kernel
  rw [e, test_unwrap, kw_of (by decide +kernel) (by decide) kw_bad_0 kw_bad_1 kw_bad_2 kw_bad_3 kw_bad_4 kw_bad_5]; decide +kernel
/-- Without a listed configuration no channel is on. -/
theorem noChannel {s : State} (h : s.ctl.all (fun e => e.1 < 0xC10000 || 0xC50000 ≤ e.1 || e.1 % 64 != 0) = true) : s.anyChannel = false := by
  unfold State.anyChannel
  rw [List.any_eq_false]
  intro c hc hon
  simp only [List.mem_range] at hc
  by_cases h4 : c < 4
  · have h0 : ∀ c < 4, ctlReset (regOff .farChanCfg [c]) = 0 := by decide +kernel
    simp only [List.all_eq_true, Bool.or_eq_true, bne_iff_ne, ne_eq, decide_eq_true_eq] at h
    have e : regOff .farChanCfg [c] = 0xC10000 + (64 * c + 0) := rfl
    have hz : s.reg .farChanCfg [c] = 0 := by
      unfold State.reg State.ctlRaw
      rw [tblGet_absent _ _ _ (fun x hx he => by have := h x hx; rw [e] at he; omega), h0 c h4]; rfl
    unfold State.flag State.rf at hon
    rw [hz] at hon
    exact absurd hon (by decide)
  · have h' : s.ctl.all (fun e => e.1 == 0xC10140 || e.1 < 0xC10100 || 0xC50000 ≤ e.1 || e.1 % 64 != 0) = true := by
      simp only [List.all_eq_true, Bool.or_eq_true, beq_iff_eq, bne_iff_ne, ne_eq, decide_eq_true_eq] at h ⊢
      intro x hx; have := h x hx; omega
    have h5 := channels_five h' c (by simp only [State.channels, List.mem_filter, List.mem_range, Bool.and_eq_true, decide_eq_true_eq]; exact ⟨hc, by omega, hon⟩)
    subst h5
    simp only [List.all_eq_true, Bool.or_eq_true, bne_iff_ne, ne_eq, decide_eq_true_eq] at h
    have hz : s.reg .farChanCfg [5] = 0x5DC := by
      unfold State.reg State.ctlRaw
      rw [tblGet_absent _ _ _ (fun x hx he => by have := h x hx; rw [show regOff .farChanCfg [5] = 0xC10140 from rfl] at he; omega)]; decide +kernel
    unfold State.flag State.rf at hon
    rw [hz] at hon
    exact absurd hon (by decide)
theorem witness_CipherOperations_install : (doing (privOp 5 0x1000 0 0)).popCheck (privOp 5 0x1000 0 0) = 1 := by
  have h : (doing (privOp 5 0x1000 0 0)).anyChannel = false := noChannel (by decide +kernel)
  unfold State.popCheck
  rw [h]; decide +kernel
theorem witness_CipherOperations_zeroise : HostOpen 0 .cipKeystore [] .full (0xA5 * 2 ^ 48) keys ∧ fld (accBits .full (0xA5 * 2 ^ 48)) 48 8 = 0xA5 ∧ Registers.wf keys.ctl ∧ HostOpen 0 .cipKeystore [] .full 0 keys :=
  ⟨hostOpen_of (by decide +kernel), by decide +kernel, by decide +kernel, hostOpen_of (by decide +kernel)⟩

theorem witness_CipherRoundTrip : ((linked 2 Chan.reset).ctxGet 2 5 0).1 = some (ctxOf 0).bytes ∧ (ctxKey (ctxOf 0).bytes).length = 32 ∧ (linked 2 Chan.reset).cipReady 2 = true ∧ ((linked 2 Chan.reset).ctxGet 2 5 1).1 = some (ctxOf 1).bytes ∧
    ctxKey (ctxOf 1).bytes = ctxKey (ctxOf 0).bytes ∧ ctxStrict (ctxOf 1).bytes = false ∧ ctxSeq (ctxOf 1).bytes ≤ ctxSeq (ctxOf 0).bytes + 2 ^ 31 ∧ ctxSeq (ctxOf 0).bytes < ctxSeq (ctxOf 1).bytes + 2 ^ 31 := by decide +kernel
theorem witness_CipherRoundTrip_seal : ((linked 2 Chan.reset).cipSeal 2 5 ((linked 2 Chan.reset).farHeader 5 1 0 0 4 0 0) []).1.isSome = true ∧
    gcmTag (ctxKey (ctxOf 1).bytes) (cipIv 5 (rxSeq (ctxSeq (ctxOf 1).bytes) 1)) (aadOf (headOf 3)) (cipherOf 3).1 ≠ List.replicate 16 0 := by decide +kernel
/-- A transmit context that is STRICT with MAXLEN 0. -/
def strict5 : State := { linked 2 Chan.reset with cip := { (linked 2 Chan.reset).cip with cache := [{ ctxOf 0 with bytes := ctxSet (ctxOf 0).bytes 106 1 2 }] } }
theorem witness_CipherRoundTrip_strict : strict5.cipReady 2 = true ∧ (strict5.ctxGet 2 5 0).1.map (fun b => (ctxStrict b, ctxMaxLen b)) = some (true, 0) := by decide +kernel
/-- The worked example of chapter 11: HIGHEST 0x1FFFFFFF0 and SEQ 3 give 0x200000003, and SEQ 0xFFFFFFE0 after it 0x1FFFFFFE0; the IV, and the GHASH length block. -/
theorem test_sequences : rxSeq 0x1FFFFFFF0 3 = 0x200000003 ∧ rxSeq 0x200000003 0xFFFFFFE0 = 0x1FFFFFFE0 ∧ cipIv 679 0x200000003 = [0, 0, 2, 0xA7, 0, 0, 0, 2, 0, 0, 0, 3] ∧
    beBytes 8 (8 * 32) ++ beBytes 8 (8 * 8800) = [0, 0, 0, 0, 0, 0, 1, 0, 0, 0, 0, 0, 0, 1, 0x13, 0] := by decide +kernel

/-! ### Work rings, events and snapshots -/

/-- Sixty-four bytes of a ring entry. -/
def ringE (op ev token a0 a1 a2 limit : Nat) : List Nat := [op, ev] ++ leBytes 2 0 ++ leBytes 4 token ++ leBytes 8 a0 ++ leBytes 8 a1 ++ leBytes 8 a2 ++ leBytes 4 limit ++ List.replicate 28 0
/-- Ring 3 of 16 slots, enabled, HEAD 1 and TAIL 2, with an entry in slot 1. -/
def ring (e : List Nat) (ctrl : Nat := 2 ^ 63 + 4 * 2 ^ 16) (tail : Nat := 2) : State :=
  ((((up.setReg .idWringBase [3] 0x10000).setReg .idWringCtrl [3] ctrl).setReg .idWringHead [3] 1).setReg .idWringDb [3] tail).setBytes (hostKey 0x10040) e
/-- The ring waiting for an entry. -/
def waiting (e : List Nat) : State := (ring e).setRingNow 3 e
/-- With no other tile's configuration listed, only tiles 0 and 1 lie in a slice. -/
theorem slice_listed {s : State} (h : s.ctl.all (fun e => e.1 % 256 != 0 || e.1 < 0x2010200) = true) {t : Nat} (ht : 2 ≤ t) : s.slice t = 0 := by
  unfold State.slice
  split
  · rename_i hp
    have hlt : t < 1280 := by simp only [State.present, Bool.and_eq_true, decide_eq_true_eq] at hp; exact hp.1
    simp only [List.all_eq_true, Bool.or_eq_true, bne_iff_ne, ne_eq, decide_eq_true_eq] at h
    have e : regOff .tileTileCfg (tix t) = 0x2010000 + (0x200000 * (t / 160) + (0x100 * (t % 160) + 0)) := rfl
    have hf : regFind (regOff .tileTileCfg (tix t)) = some (.tileTileCfg, tix t) :=
      Laws.regFindIn_own _ _ _ ⟨by show t / 160 < 8; omega, fun h => absurd h (by simp), by show t % 160 < 160; omega, fun _ => Nat.zero_le _, trivial⟩ (Laws.names_nested _ (Laws.names_complete _)) (Laws.names_complete _) Laws.names_apart
    have hr : ctlReset (regOff .tileTileCfg (tix t)) = 0 := by
      unfold ctlReset
      rw [Nat.mod_eq_of_lt (by rw [e]; omega), hf]; rfl
    have hz : s.reg .tileTileCfg (tix t) = 0 := by
      unfold State.reg State.ctlRaw
      rw [tblGet_absent _ _ _ (fun x hx he => by have := h x hx; rw [e] at he; omega), hr]; rfl
    unfold State.rf
    rw [hz]; rfl
  · rfl
theorem sliceTiles_listed {s : State} {a : Nat} (h : s.ctl.all (fun e => e.1 % 256 != 0 || e.1 < 0x2010200) = true) (ha : a ≠ 0) {t : Nat} : t ∈ s.sliceTiles a ↔ t < 2 ∧ s.present t = true ∧ s.slice t = a := by
  simp only [State.sliceTiles, allTiles, List.mem_filter, List.mem_range, Bool.and_eq_true, beq_iff_eq]
  constructor
  · rintro ⟨_, hp, hs⟩
    refine ⟨?_, hp, hs⟩
    apply Classical.byContradiction
    intro h2
    rw [slice_listed h (by omega)] at hs
    exact ha hs.symm
  · rintro ⟨h2, hp, hs⟩; exact ⟨by omega, hp, hs⟩
/-- A doorbell, a bad entry, an entry of each kind, and the words that a ring may not take. -/
theorem witness_WorkRings : HostOpen 0 .idWringDb [3] .full 5 (ring []) ∧ ((ring []).ctlApply .idWringDb [3] .full 5).ringOver 3 = false ∧ ((ring []).ctlApply .idWringDb [3] .full 18).ringOver 3 = true ∧
    (∀ op ∈ [(0 : Nat), 1, 2, 3, 4, 5], let s := ring (ringE op 1 7 0x1C8 0 0 0); s.ringCan 3 = true ∧ entF (s.ringEntry 3) 0 1 = op ∧ badEntry (s.ringEntry 3) = false) ∧
    (ring (ringE 6 0 0 0 0 0 0)).ringCan 3 = true ∧ badEntry ((ring (ringE 6 0 0 0 0 0 0)).ringEntry 3) = true ∧ (ring (ringE 0 0 0 0 0 0 0) 0x40000).ringCan 3 = false ∧
    badEntry (ringE 0 2 0 0 0 0 0) = true ∧ badEntry (ringE 1 0 0 64 0 0 0) = true ∧ badEntry (ringE 4 0 0 4 0 0 0) = true ∧ badEntry (ringE 5 0 0 (2 ^ 26) 0 0 0) = true ∧ badEntry (ringE 2 0 0 1 0 0 1) = true ∧ badEntry (ringE 3 0 0 1 0 0 1) = false := by
  refine ⟨hostOpen_of (by decide +kernel), ?_⟩; decide +kernel
theorem witness_WorkRings_resume : HostOpen 0 .idWringCtrl [3] .full (2 ^ 63 + 2 ^ 62 + 4 * 2 ^ 16) (ring [] (2 ^ 63 + 2 ^ 62 + 4 * 2 ^ 16)) ∧ (ring [] (2 ^ 63 + 2 ^ 62 + 4 * 2 ^ 16)).ringOver 3 = false ∧
    HostOpen 0 .idWringCtrl [3] .full (2 ^ 63 + 2 ^ 62 + 3 * 2 ^ 16) (ring [] (2 ^ 63 + 2 ^ 62 + 3 * 2 ^ 16)) ∧ HostOpen 0 .idWringCtrl [3] .full (2 ^ 63 + 2 ^ 62 + 17 * 2 ^ 16) (ring [] (2 ^ 63 + 2 ^ 62 + 17 * 2 ^ 16)) ∧
    (ring [] (2 ^ 63 + 2 ^ 62 + 4 * 2 ^ 16) 18).ringOver 3 = true ∧ HostOpen 0 .idWringCtrl [3] .full (2 ^ 63 + 2 ^ 62 + 4 * 2 ^ 16) (ring [] (2 ^ 63 + 2 ^ 62 + 4 * 2 ^ 16) 18) :=
  ⟨hostOpen_of (by decide +kernel), by decide +kernel, hostOpen_of (by decide +kernel), hostOpen_of (by decide +kernel), by decide +kernel, hostOpen_of (by decide +kernel)⟩
theorem witness_WorkRings_start : ∀ t ∈ (ring (ringE 1 1 7 1 0 0 0)).sliceTiles 1, (ring (ringE 1 1 7 1 0 0 0)).startRefused t = false → (ring (ringE 1 1 7 1 0 0 0)).reg .tileStartPc (tix t) < 2 ^ 40 := by
  intro t ht
  have h2 := ((sliceTiles_listed (by decide +kernel) (by decide)).1 ht).1
  have : t = 0 ∨ t = 1 := by omega
  rcases this with rfl | rfl <;> decide +kernel
/-- Tile 0 is in slice 1, which has no other. -/
theorem slice_one : (0 : Nat) ∈ (ring (ringE 1 1 7 1 0 0 0)).sliceTiles 1 ∧ (ring (ringE 1 1 7 1 0 0 0)).startRefused 0 = false := by
  refine ⟨(sliceTiles_listed (by decide +kernel) (by decide)).2 ?_, ?_⟩ <;> decide +kernel
theorem witness_WorkRings_write : regFind 0x20 = some (.idMemwin, [0]) ∧ regOff .idMemwin [0] = 0x20 ∧ regFind 0x30068 = some (.idWringCtrl, [3]) ∧ HostOpen 0 .idMemwin [0] .full (entF (ringE 4 1 7 0x20 (2 ^ 46) 0 0) 16 8) (ring (ringE 4 1 7 0x20 (2 ^ 46) 0 0)) :=
  ⟨by decide +kernel, by decide +kernel, by decide +kernel, hostOpen_of (by decide +kernel)⟩
/-- With the slice stopped nothing is left; with its tile running one is. -/
theorem witness_WorkRings_left : (waiting (ringE 3 0 7 1 0 0 9)).ringNow 3 ≠ [] ∧ (waiting (ringE 3 0 7 1 0 0 9)).hostUp ((waiting (ringE 3 0 7 1 0 0 9)).rf .idWringCtrl [3] 56 1) = true ∧
    (waiting (ringE 3 0 7 1 0 0 9)).ringLeft (ringE 3 0 7 1 0 0 9) = 0 ∧ ((waiting (ringE 3 0 7 1 0 0 9)).setTile 0 { Tile.reset with seq := .running }).ringLeft (ringE 3 0 7 1 0 0 9) ≠ 0 := by
  refine ⟨by decide +kernel, by decide +kernel, ?_, ?_⟩
  · unfold State.ringLeft
    rw [List.length_eq_zero_iff, List.filter_eq_nil_iff]
    intro t ht
    have h2 := ((sliceTiles_listed (by decide +kernel) (by decide +kernel)).1 ht).1
    have : t = 0 ∨ t = 1 := by omega
    rcases this with rfl | rfl <;> decide +kernel
  · unfold State.ringLeft
    intro h0
    rw [List.length_eq_zero_iff, List.filter_eq_nil_iff] at h0
    exact h0 0 ((sliceTiles_listed (by decide +kernel) (by decide +kernel)).2 (by decide +kernel)) (by decide +kernel)
theorem witness_WorkRings_wait : rcMask 0x10050 = 0 ∧ (let e := ringE 5 0 7 0x10050 (2 ^ 63) (2 ^ 63) 9; let s := waiting e; s.ringNow 3 = e ∧ s.ctlRead 0 0x10050 &&& entF e 16 8 ≠ entF e 24 8) ∧
    (let e := ringE 5 0 7 0x10050 (2 ^ 63) 0 0; let s := waiting e; s.ctlRead 0 0x10050 &&& entF e 16 8 = entF e 24 8) ∧ (ring []).ringNow 3 = [] := by decide +kernel
/-- A NOP completes with STATUS 1 and moves HEAD; a bad entry stops its ring with ERROR and STATUS 4 (R472, R475). -/
theorem test_ring : (after (.wrNop 3) (ring (ringE 0 0 7 0 0 0 0))).ringHead 3 = 2 ∧ (after (.wrNop 3) (ring (ringE 0 0 7 0 0 0 0))).bytes (hostKey 0x10040) 8 = [0, 0, 1, 0, 7, 0, 0, 0] ∧
    (after (.workRingDoorbell 3 .full 2) (ring (ringE 9 0 7 0 0 0 0) (2 ^ 63 + 4 * 2 ^ 16) 1)).bytes (hostKey 0x10040) 8 = [9, 0, 4, 0, 7, 0, 0, 0] ∧
    (after (.workRingDoorbell 3 .full 2) (ring (ringE 9 0 7 0 0 0 0) (2 ^ 63 + 4 * 2 ^ 16) 1)).flag .idWringCtrl [3] 62 = true := by decide +kernel

/-- The event ring of 256 slots with record 300 next, the vectors of group 3 at 0x100, and vector 0x105 not masked. -/
def events (head : Nat := 290) (ctrl : Nat := 2 ^ 63 + 8 * 2 ^ 16) : State :=
  let s := (((up.setReg .evtRingBase [] 0x20000).setReg .evtRingCtrl [] ctrl).setReg .evtRingHead [] head).setReg .evtRingTail [] 300
  let s := ((s.setReg .evtRoute [3] (0x100 + 0xF * 2 ^ 16)).setCtl (msixOff 0 0x105 - 8) 0xFEE00000).setCtl (msixOff 0 0x105) 0x4321
  { s with isl := { s.isl with cfgs := [⟨true, true, false⟩, ⟨true, true, false⟩] } }
/-- The record of the example. -/
def miss : EvRec := ⟨0x0301, 0, 9, 37, 625000000, 0x14000, 0x3000004E2⟩
/-- The worked example of chapter 12: slot 44, PHASE 0, vector 0x105. -/
theorem test_record : (events.emit miss).bytes (hostKey (0x20000 + 32 * 44)) 32 = [0x01, 0x03, 0x00, 0x00, 0x25, 0x00, 0x00, 0x90, 0x40, 0xBE, 0x40, 0x25, 0, 0, 0, 0, 0x00, 0x40, 0x01, 0, 0, 0, 0, 0, 0xE2, 0x04, 0, 0, 0x03, 0, 0, 0] ∧
    (events.emit miss).out = [.msix 0 0x105 0xFEE00000 0x4321] ∧ (events.emit miss).rf .evtRingTail [] 0 32 = 301 := by decide +kernel
/-- Full, off, full with 1,024 held, a code that is disabled, a masked vector and a vector in its holdoff. -/
theorem witness_EventsAndSnapshots : fld (events.reg .evtEnable [3]) 1 1 = 1 ∧ (events.setReg .evtEnable [3] 0).reg .evtEnable [3] = 0 ∧ events.ringFull = false ∧ (events 44).ringFull = true ∧ events.ev.held = [] ∧ events.ev.lostSince = 0 ∧
    (events 290 0).flag .evtRingCtrl [] 63 = false ∧ ({ events with ev := { events.ev with held := List.replicate 1024 miss } }).ev.held.length = 1024 ∧ events.msixMasked 0 0x105 = false ∧ events.msixMasked 0 0x106 = true ∧
    ({ events with ev := { events.ev with holdoff := [(0x105, false)] } }).ev.holdoff = [(0x105, false)] ∧ (events.cfg events.evPort).msixEnable = true ∧ (events.cfg events.evPort).funcMask = false ∧ (({ events with isl := { events.isl with cfgs := [⟨true, false, true⟩] } } : State).cfg 0).msixEnable = false ∧ (({ events with isl := { events.isl with cfgs := [⟨true, true, true⟩] } } : State).cfg 0).funcMask = true ∧
    events.linkHeld events.evPort = false ∧ ({ events with isl := { events.isl with perst := [0] } } : State).linkHeld 0 = true := by decide +kernel
theorem witness_EventsAndSnapshots_enable : HostOpen 0 .evtRingCtrl [] .full (2 ^ 63 + 8 * 2 ^ 16) (events 290 0) ∧ HostOpen 0 .evtRingCtrl [] .full (8 * 2 ^ 16) (events 290 0) ∧ HostOpen 0 .evtRingCtrl [] .full (2 ^ 63 + 2 ^ 56 + 8 * 2 ^ 16) events ∧
    HostOpen 0 .evtRingCtrl [] .full (8 * 2 ^ 16) events ∧ events.isl.fallback = none ∧ (let s : State := { events 290 0 with ev := { events.ev with lostSince := 3 } }; HostOpen 0 .evtRingCtrl [] .full (2 ^ 63 + 8 * 2 ^ 16) s ∧ 0 < s.ev.lostSince) ∧
    HostOpen 0 .evtRingHead [] .full 300 events ∧ HostOpen 0 .evtRingHead [] .full 40 events ∧ HostOpen 0 .evtRingHead [] .full 44 (events 290 0) :=
  ⟨hostOpen_of (by decide +kernel), hostOpen_of (by decide +kernel), hostOpen_of (by decide +kernel), hostOpen_of (by decide +kernel), by decide +kernel, ⟨hostOpen_of (by decide +kernel), by decide +kernel⟩,
    hostOpen_of (by decide +kernel), hostOpen_of (by decide +kernel), hostOpen_of (by decide +kernel)⟩
theorem witness_EventsAndSnapshots_room : (let s := events.ctlApply .evtRingHead [] .full 300; (s.rf .evtRingTail [] 0 32 + 2 ^ 32 - s.rf .evtRingHead [] 0 32) % 2 ^ 32 = 0) ∧
    (let s := events.ctlApply .evtRingHead [] .full 40; 2 ^ 8 < (s.rf .evtRingTail [] 0 32 + 2 ^ 32 - s.rf .evtRingHead [] 0 32) % 2 ^ 32) ∧
    (let s := events.ctlApply .evtRingHead [] .full 44; (s.rf .evtRingTail [] 0 32 + 2 ^ 32 - s.rf .evtRingHead [] 0 32) % 2 ^ 32 = 2 ^ 8) := by decide +kernel
/-- A ring that was full takes the record that it held when HEAD moves; one that lost three writes EVENT_LOST first when it is enabled. -/
theorem test_held : (let s := after (.eventRingHeadWrite .full 50) { events 44 with ev := { events.ev with held := [miss] } }; s.ev.held = [] ∧ s.rf .evtRingTail [] 0 32 = 301) ∧
    (after (.eventRingEnable .full (2 ^ 63 + 8 * 2 ^ 16)) { events 290 0 with ev := { events.ev with lostSince := 3 } }).bytes (hostKey 0x20000) 32 = [3, 0, 1, 0, 0, 0, 0, 0] ++ leBytes 8 0 ++ leBytes 8 3 ++ leBytes 8 0 := by decide +kernel
/-- R537: where PERST_N holds the link down the record is lost: TAIL moves on and nothing is sent. -/
theorem test_link_held : (let s := ({ events with isl := { events.isl with perst := [0] } } : State).emit miss; s.bytes (hostKey (0x20000 + 32 * 44)) 32 = List.replicate 32 0 ∧ s.out = [] ∧ s.rf .evtRingTail [] 0 32 = 301) := by decide +kernel
/-- A tally with a count, and the state in which a snapshot is being made of it. -/
def tallied : State := { up with tally := [(0x200028, ⟨5, true⟩)] }
theorem witness_EventsAndSnapshots_snapshot : HostOpen 0 .evtSnapCtrl [] .full 0xC000000000000000 tallied ∧ HostOpen 0 .evtSnapCtrl [] .full 0x8000000000000000 tallied ∧ tallied.snap = none ∧ tblWf (fun _ => Tally.zero) tallied.tally ∧
    (∀ e ∈ tallied.tally, isTallyOff e.1 = true) ∧ (after .snapshot tallied).snap ≠ none ∧ isTallyOff 0 = false ∧ isTally .evtLost = true ∧ regFind (regOff .evtLost []) = some (.evtLost, []) ∧ HostOpen 0 .evtLost [] .full (2 ^ 32) tallied ∧
    (⟨5, true⟩ : Tally).count ≤ 0xFFFFFFFF :=
  ⟨hostOpen_of (by decide +kernel), hostOpen_of (by decide +kernel), rfl, by decide +kernel, by decide +kernel, by decide +kernel, by decide +kernel, by decide +kernel, by decide +kernel, hostOpen_of (by decide +kernel), by decide⟩
/-- R488: the snapshot holds the counts; CLEAR restarts them and keeps the sticky bits. R489: a count saturates. -/
theorem test_snapshot : (let s := after .snapshotComplete (after .snapshotClear tallied); (s.ctlRaw 0x200028).toNat = 5 + 2 ^ 32 ∧ s.tallyAt 0x200028 = ⟨0, true⟩) ∧ (⟨0xFFFFFFFE, false⟩ : Tally).add 2 = ⟨0xFFFFFFFF, true⟩ := by decide +kernel

/-! ### Power, supplies and resets -/

/-- The state after reset with the states of slots A and B. -/
def slots (a b : Nat) (i : Island := Island.reset) : State := { State.reset with isl := i }.setReg .shmFw [] (a * 2 ^ 44 + b * 2 ^ 40 + 3 * 2 ^ 56 + 2 * 2 ^ 48)
theorem witness_PowerAndSupplies : MayPower (slots 1 0) ∧ ¬ MayPower up ∧ (slots 1 0).shepUp = false ∧ ((slots 1 0).setReg .shmStatus [] (2 ^ 63)).shepUp = true ∧ MayPower ((slots 1 0).setReg .shmStatus [] (2 ^ 63)) ∧
    FirstSlot 0 (slots 1 0) ∧ FirstSlot 1 (slots 0 1) ∧ FirstSlot 0 (slots 2 2) ∧ FirstSlot 1 (slots 1 2) ∧ (∀ b < 2, (slots 0 3).slotSt b ≠ 1 ∧ (slots 0 3).slotSt b ≠ 2) := by
  refine ⟨?_, ?_, ?_, ?_, ?_, ?_, ?_, ?_, ?_, ?_⟩
  · unfold MayPower; decide +kernel
  · unfold MayPower; decide +kernel
  · decide +kernel
  · decide +kernel
  · unfold MayPower; decide +kernel
  · unfold FirstSlot; decide +kernel
  · unfold FirstSlot; decide +kernel
  · unfold FirstSlot; decide +kernel
  · unfold FirstSlot; decide +kernel
  · decide +kernel
/-- An image of 592 bytes with SVN 2, BUILD 77 and sixteen bytes of each component, signed with ECDSA over P-384 by another implementation. -/
def image : List Nat := beBytes 344 0x534857560100050050020000020000004d0000000000000066e856bcf70f23c34dc51c4b2a4a1105630882a5a6cfd1a21ebd59a309f07cca86c080e66d9b20c02d1d1e1ac36ed0be46fb88959579d68b6dc08e54581f5aa5935dfa16b7549c1fa06931c9df3caaeb9f3ba41a6df4a2551cd525400d450c3d617ff89d8b19184730474d5d49bd4b84ef62c2410ad4ef34103ce76308b8e662813b8e8a20fccfe9a7d4344e8e2fac040a8a61dd6c75dc014216b54737260c74ee724503fbeaf8a128fbbef46c754398df6d2b44f2ad173675fedc1f9d6948451d97a131c0dd219261c9b1e85b93f7e14c3a140f6d6ba173ef64147488271a63fbfde64aa6929262be4c2836f7c064490100000000020000100000000000000002000000100200001000000000000000030000002002000010000000000000000400000030020000100000000000000005000000400200001000000000000000 ++ List.replicate 168 0 ++ (List.range 80).map (16 + ·)
/-- The image in some slots of the NOR, under the hash of its key. -/
def imagesIn (bs : List Nat) (s : State) : State :=
  { s with mem := bs.flatMap (fun b => (image.zipIdx.filter (fun (e : Nat × Nat) => e.1 != 0)).map (fun (e : Nat × Nat) => (norKey (slotBase b + e.2), BitVec.ofNat 8 e.1))), fuses := { s.fuses with fwKeyHash := beBytes 48 0xc0325cb6a188de40d7af1327441e40e53dea1d86b4e0501104b767fb042fa0da394206ce8690b62c573a8367a7c2d0f9 } }
/-- The signature verifies. -/
theorem image_signed : ecdsaVerify ((image.drop 72).take 96) (sha384 (image.take 168)) ((image.drop 168).take 96) = true := by decide +kernel
theorem headerOk_of {s : State} {b : Nat} (hb : s.bytes (norKey (slotBase b)) 264 = image.take 264) (hf : sha384 ((image.drop 72).take 96) = s.fuses.fwKeyHash) (hs : s.rf .shmStatus [] 48 8 ≤ s.hdrLe b 12 4) : s.headerOk b = true := by
  have e : ((image.take 264).drop 72).take 96 = (image.drop 72).take 96 ∧ (image.take 264).take 168 = image.take 168 ∧ ((image.take 264).drop 168).take 96 = (image.drop 168).take 96 := by decide +kernel
  unfold State.headerOk
  simp only [hb, e.1, e.2.1, e.2.2, image_signed, hf, hs, beq_self_eq_true, decide_true, Bool.and_self]
theorem imageFull_of {s : State} {b : Nat} (hh : s.headerOk b = true) (hm : s.magicOk b = true)
    (hr : (sha384 (s.bytes (norKey (slotBase b + 512)) (s.hdrLe b 8 4 - 512)) == s.bytes (norKey (slotBase b + 24)) 48 && [1, 2, 3, 4, 5].all (fun k => (s.components b k).length == 1)) = true) : s.imageFull b = true := by
  unfold State.imageFull
  rw [hm, hh, Bool.and_assoc, hr]; rfl
theorem witness_PowerAndSupplies_images : (imagesIn [0, 1] (slots 1 1)).imageFull 0 = true ∧ (imagesIn [0, 1] (slots 1 1)).imageFull 1 = true :=
  ⟨imageFull_of (headerOk_of (by decide +kernel) (by decide +kernel) (by decide +kernel)) (by decide +kernel) (by decide +kernel), imageFull_of (headerOk_of (by decide +kernel) (by decide +kernel) (by decide +kernel)) (by decide +kernel) (by decide +kernel)⟩
theorem witness_PowerAndSupplies_second : (imagesIn [1] (slots 2 1)).imageFull 0 = false ∧ (imagesIn [1] (slots 2 1)).imageFull 1 = true :=
  ⟨by decide +kernel, imageFull_of (headerOk_of (by decide +kernel) (by decide +kernel) (by decide +kernel)) (by decide +kernel) (by decide +kernel)⟩
theorem witness_PowerAndSupplies_none : (slots 1 2).imageFull 0 = false ∧ (slots 1 2).imageFull 1 = false := by decide +kernel
/-- R524, R525: the first slot fails and the second boots; with no image neither does. -/
theorem test_boot : (let r := (imagesIn [1] (slots 2 1)).boot; r.1 = true ∧ r.2.slotSt 0 = 3 ∧ r.2.slotSt 1 = 1 ∧ r.2.rf .clkStatus [] 36 1 = 1 ∧ r.2.shepUp = true) ∧ (after (.powerUp true true) (slots 1 0)).isl.bootFail = true := by
  have hb : (imagesIn [1] (slots 2 1)).bootSlot = (some 0, imagesIn [1] (slots 2 1)) := by unfold State.bootSlot; rw [if_pos (by decide +kernel)]
  have h1 : ((imagesIn [1] (slots 2 1)).setSlotSt 0 3).imageFull 1 = true := imageFull_of (headerOk_of (by decide +kernel) (by decide +kernel) (by decide +kernel)) (by decide +kernel) (by decide +kernel)
  rw [State.boot, hb]
  simp only [witness_PowerAndSupplies_second.1, Nat.sub_zero, h1, Bool.false_eq_true, if_false, if_true]
  decide +kernel
/-- Shepherd serves already, on slot B. -/
def serving : State := ((imagesIn [1] (slots 0 1)).setReg .shmStatus [] (2 ^ 63)).setRf .clkStatus [] 35 1 1
/-- R494, R499: each die controller runs its image; without J2's clock no PLL locks (R536). -/
theorem test_power_up : (fun s : State => (s.isl.powered, s.isReady, tblGet (fun _ => []) s.isl.images 3, (after .ready s).isReady)) (after (.powerUp true true) serving) = (true, false, (List.range 16).map (32 + ·), true) ∧
    (fun s : State => (s.isl.powered, s.rf .clkStatus [] 48 8, (after .ready s).isReady)) (after (.powerUp false true) serving) = (true, 0, false) := by decide +kernel
/-- A start under way, with every PLL locked; a last-gasp record unread or none. -/
def starting (gasp : Bool) : State :=
  let s := { State.reset with isl := { Island.reset with powered := true, starting := true, gasps := if gasp then [⟨7, 4, [], []⟩] else [] } }
  (s.setReg .clkStatus [] (0xFF * 2 ^ 48)).setReg .shmStatus [] (if gasp then 2 ^ 60 else 0)
theorem witness_PowerAndSupplies_ready : (∀ b ∈ [true, false], (starting b).isl.starting = true ∧ (starting b).rf .clkStatus [] 48 8 = 0xFF ∧ (starting b).flag .shmStatus [] 60 = b) ∧ (starting true).isl.gasps.length = 1 := by decide +kernel
theorem witness_PowerAndSupplies_losses : Registers.wf up.ctl ∧ up.isl.mainOk = true ∧ up.isl.stbyOk = true ∧ up.isl.powered = true ∧ up.isl.down = false ∧ up.isReady = true ∧ (slots 1 0).isl.powered = false ∧
    (after .mainLoss up).isl.mainOk = false ∧ (after .stbyLoss up).isl.stbyOk = false ∧ (after .overVoltage up).isl.overVolt = true ∧ (after .inhibit up).isl.inhibited = true ∧ up.isl.overVolt = false ∧ up.isl.inhibited = false := by decide +kernel
/-- R510, R511: MAIN's loss turns the domain off and leaves a record. -/
theorem test_main_loss : (let s := after .mainLoss up; s.isl.powered = false ∧ s.isReady = false ∧ s.isl.gasps.length = 1 ∧ s.flag .shmStatus [] 60 = true) ∧ (let s := after (.perst 0) up; s.isReady = false ∧ s.isl.running = [⟨2, 0, 2, false⟩]) := by decide +kernel

/-- A reset that has been asked for, or one under way. -/
def asking (kind unit : Nat) : State := { up with isl := { up.isl with asked := [⟨kind, unit, 3, true⟩] } }
def resetting (kind unit : Nat) : State := { up with isl := { up.isl with running := [⟨kind, unit, 3, true⟩] } }
theorem witness_Resets_write : (∀ v ∈ [(0x5A00000002 : Nat), 0x5A00070003, 0x5A04BF0004, 0x5A00230005, 0x5B00000002, 0x5A00080003], opens 0 .clkReset [] .full v up = true) ∧ up.flag .clkReset [] 63 = false := by decide +kernel
theorem witness_Resets : Registers.wf up.ctl ∧ (∀ k ∈ [2, 3, 4, 5], (asking k 2).isl.powered = true ∧ (asking k 2).isl.asked.find? (fun r => r.kind == k && r.unit == 2) = some ⟨k, 2, 3, true⟩) ∧ (asking 5 33).isl.asked.find? (fun r => r.kind == 5 && r.unit == 32 + 1) = some ⟨5, 33, 3, true⟩ ∧
    (asking 3 2).channels = [] ∧ (asking 2 0).isl.asked.find? (fun r => r.kind == 2) = some ⟨2, 0, 3, true⟩ ∧ (resetting 2 0).isl.running = [⟨2, 0, 3, true⟩] ∧ (resetting 3 1).isl.running = [⟨3, 1, 3, true⟩] ∧ State.reset.isl.powered = false ∧ State.reset.isl.running = [] ∧
    tblWf (fun _ => 0) up.cip.pseqs := by
  refine ⟨by decide +kernel, by decide +kernel, by decide +kernel, noChannels (by decide +kernel), ?_⟩; decide +kernel
/-- A clock is good or bad; each port's reference, and what RESET_DONE finds; a die in no wave and one with a counted lk.commit in flight, on the root and elsewhere, before the commit point. -/
def voting (root : Bool) : State :=
  let s := ((asking 3 0).setReg .denWaveCfg [] (2 ^ 63 + bit root * 2 ^ 62 + 2 ^ 32)).setWstate 1
  s.setTile 0 { Tile.reset with flights := [{ queue := .lk, signal := 0, sdst := 0, dep := 0, hasDep := false, overwritten := false, work := .commit 0 false true, stake := Stake.none }] }
theorem witness_Resets_wave : (∀ b ∈ [true, false], (voting b).isRoot = b ∧ (voting b).wave.kind = false ∧ VotesOn 0 (voting b) ∧ (voting b).isl.asked.find? (fun r => r.kind == 3 && r.unit == 0) = some ⟨3, 0, 3, true⟩) ∧ ¬ VotesOn 2 (asking 3 2) ∧
    (∀ r ∈ (asking 3 2).cip.cache, r.dir < 2 ∧ r.bytes.length ≤ 128) := by
  refine ⟨fun b hb => ⟨?_, ?_, ⟨?_, ?_, 0, rfl, { queue := .lk, signal := 0, sdst := 0, dep := 0, hasDep := false, overwritten := false, work := .commit 0 false true, stake := Stake.none }, ?_, rfl⟩, ?_⟩, fun h => ?_, fun r hr => ?_⟩
  iterate 4 (revert b; decide +kernel)
  · revert b; decide +kernel
  · revert b; decide +kernel
  · exact absurd h.1 (by decide +kernel)
  · cases hr
/-- A die reset and a link reset while channel 5 of port 2 is on, its contexts on chip. -/
def chanReset (kind unit : Nat) : State := { linked 2 Chan.reset with isl := { (linked 2 Chan.reset).isl with asked := [⟨kind, unit, 3, true⟩] } }
theorem witness_Resets_channels : 5 ∈ (chanReset 3 2).channels ∧ (chanReset 3 2).isl.asked.find? (fun r => r.kind == 3 && r.unit == 2) = some ⟨3, 2, 3, true⟩ ∧ ¬ VotesOn 2 (chanReset 3 2) ∧ (∀ r ∈ (chanReset 3 2).cip.cache, r.dir < 2 ∧ r.bytes.length ≤ 128) ∧
    Registers.wf (chanReset 3 2).ctl ∧ (chanReset 5 34).chanPort 5 = 2 ∧ (∀ c ∈ (chanReset 5 33).channels, (chanReset 5 33).chanPort c ≠ 1) ∧ (chanReset 5 34).isl.asked.find? (fun r => r.kind == 5 && r.unit == 32 + 2) = some ⟨5, 34, 3, true⟩ := by
  refine ⟨?_, by decide +kernel, fun h => absurd h.1 (by decide +kernel), by decide +kernel, by decide +kernel, by decide +kernel, fun c hc => ?_, by decide +kernel⟩
  · simp only [State.channels, List.mem_filter, List.mem_range, Bool.and_eq_true, decide_eq_true_eq]; exact ⟨by decide, by decide, by decide +kernel⟩
  · have h5 := channels_five (s := chanReset 5 33) (by decide +kernel) c hc
    subst h5; decide +kernel
theorem witness_Resets_done : (resetting 2 0).waitingIds = [] ∧ (resetting 2 0).net.held = [] ∧ (resetting 2 0).ctxs = [] ∧ Unsent (resetting 2 0) ∧ (resetting 2 0).refOk 0 = true ∧ ({ resetting 2 0 with isl := { (resetting 2 0).isl with refclk := [false, true] } } : State).refOk 0 = false ∧
    (resetting 3 1).waitingIds = [] ∧ Unsent (resetting 3 1) ∧ up.isl.powered = true := by unfold Unsent; decide +kernel
/-- R536: without J2's clock no PLL is locked after the reset, and READY stays 0. -/
theorem test_clock_loss : (let s := after (.pllLoss ⟨3, false, true⟩) up; s.rf .clkStatus [] 48 8 = 0 ∧ s.isReady = false ∧ s.isl.refclk = [false, true]) ∧ (after (.pllLoss ⟨3, true, true⟩) up).rf .clkStatus [] (48 + 3) 1 = 0 ∧
    (after .resetDone (after (.pllLoss ⟨3, false, true⟩) up)).isReady = false := by decide +kernel
/-- R521: a die reset takes its tile's vote away: the wave's root ends it ABORTED. -/
theorem test_wave_lost : ((voting true).loseVotes 0).rf .denWaveLast [] 60 4 = 3 ∧ ((voting false).loseVotes 0).wave.lost = true := by decide +kernel
/-- R509: a privileged operation whose memory is in self-refresh waits. -/
def resting (o : PrivOp) : State := { doing o with isl := { (doing o).isl with quiesced := List.range 8 } }
theorem witness_CipherOperations_held : (∀ o ∈ [privOp 1 0x1000 0x4000 16, privOp 2 0x2000 0x4000 16, privOp 3 0x3000 0 0, privOp 4 0x3000 0 0], (doing o).popHeld o = false ∧ (resting o).popHeld o = true ∧ (resting o).popCheck o = 1) ∧
    (doing (privOp 5 0x1000 0 0)).popHeld (privOp 5 0x1000 0 0) = false ∧ (let o := privOp 1 0x1000 0x1000 16; (doing o).popHeld o = false) ∧ (let o := privOp 4 0x50000000 0 0; (doing o).popHeld o = false) ∧
    (let o := privOp 3 0x3000 0 0; ((doing o).setReg .cipCtxCfg [] 0).popHeld o = false ∧ (doing o).popHeld o = false) := by decide +kernel
theorem witness_CipherLocks_unsealed : Unsealed (engine 1 true) ∧ Unsealed (linked 2 { Chan.reset with rxTop := 1 }) ∧ (linked 2 { Chan.reset with rxTop := 1 }).far.chans ≠ [] := by unfold Unsealed; decide +kernel
theorem witness_Resets_tile : (asking 4 3).isl.asked.find? (fun r => r.kind == 4 && (asking 4 3).physical r.unit == some 3) = some ⟨4, 3, 3, true⟩ := by decide +kernel
/-- R517-R521: a warm reset takes READY until RESET_DONE; a tile reset takes no other tile; a reset with another KEY is none. -/
theorem test_resets : (let s := after .warmReset (asking 2 0); s.isReady = false ∧ s.rf .clkStatus [] 40 8 = 0x23 ∧ (after .resetDone s).isReady = true) ∧
    (let s := after (.tileReset 3) ((asking 4 3).setTile 3 { Tile.reset with pc := 8 }); s.tile 3 = Tile.reset ∧ s.isReady = true) ∧ (after (.registerWrite 0 (regOff .clkReset []) .full 0x5B00000002) up).isl.asked = [] ∧
    (after (.registerWrite 0 (regOff .clkReset []) .full 0x5A00000002) up).isl.asked = [⟨2, 0, 3, true⟩] := by decide +kernel

/-- WATTS 100 and RUN 16 with FLOOR 4 and HOST_MAX 16, or RUN 4. -/
def capped (run low above : Nat) : State := { (up.setReg .clkCap [] 100).setReg .clkThrottle [] (run + 4 * 2 ^ 8 + 16 * 2 ^ 16) with isl := { up.isl with lowRun := low, overRun := above } }
theorem witness_PowerAndHeat : (capped 16 0 0).isl.powered = true ∧ (capped 16 0 0).isReady = true ∧ (capped 16 0 0).runFloor < (capped 16 0 0).runNow ∧ (capped 16 0 0).rf .clkCap [] 0 13 = 100 ∧ (capped 4 0 39).runNow ≤ (capped 4 0 39).runFloor ∧
    (capped 4 0 39).isl.overRun + 1 = 40 ∧ (capped 8 39 0).isl.lowRun + 1 = 40 ∧ (capped 8 5 0).isl.lowRun + 1 < 40 := by decide +kernel
/-- R501, R503: above the cap RUN falls by one; at FLOOR the fortieth interval sets CAP_MISS; after forty intervals below 15/16 of it, which is 93.75, RUN rises. -/
theorem test_cap : (after (.powerInterval 101) (capped 16 0 0)).runNow = 15 ∧ (after (.powerInterval 101) (capped 4 0 39)).flag .clkCap [] 63 = true ∧ (after (.powerInterval 93) (capped 8 39 0)).runNow = 9 ∧ (after (.powerInterval 94) (capped 8 39 0)).runNow = 8 := by decide +kernel
/-- The limits after reset: a die at 95 °C, stack and coolant. The list of dies has one above, one in between, or none. -/
def dies (hot : Nat) : List Nat := hot :: List.replicate 7 (16 * 40)
theorem witness_PowerAndHeat_thermal : (∀ h ∈ [16 * 95 + 1, 16 * 95, 16 * 92], (dies h).length = 8 ∧ tempOf h = (h : Int)) ∧ (16 : Int) * up.rf .clkTherm [] 56 8 = 16 * 95 ∧ firstOver (up.rf .clkTherm [] 56 8) (dies (16 * 95 + 1)) = some (0, 16 * 95 + 1) ∧
    (∀ x ∈ dies (16 * 92), tempOf x ≤ 16 * 95 - 48) ∧ ¬ (∀ x ∈ dies (16 * 95), tempOf x ≤ 16 * 95 - 48) ∧ up.isl.dieOver = false ∧ up.rf .clkTherm [] 48 8 ≤ 110 ∧ up.rf .clkTherm [] 32 8 ≤ 105 := by decide +kernel
/-- R504: one reading above the limit lowers the thermal limit; readings three degrees below all limits raise it. -/
theorem test_thermal : (after (.thermalInterval (dies (16 * 95 + 1)) (dies 640) (dies 640) [640, 640, 640, 640]) up).isl.thermLimit = 15 ∧
    (after (.thermalInterval (dies (16 * 95)) (dies 640) (dies 640) [640, 640, 640, 640]) { up with isl := { up.isl with thermLimit := 9 } }).isl.thermLimit = 9 ∧
    (after (.thermalInterval (dies (16 * 92)) (dies 640) (dies 640) [640, 640, 640, 640]) { up with isl := { up.isl with thermLimit := 9 } }).isl.thermLimit = 10 := by decide +kernel
theorem test_trip : (after (.thermalTrip 3 false 110) up).isl.heldOff = true ∧ (after (.thermalTrip 3 false 109) up).isl.heldOff = false := by decide +kernel
/-- Shepherd up, and die 3 with some heartbeats missed. -/
def beating (n : Nat) : State := { up.setReg .shmStatus [] (2 ^ 63) with isl := { up.isl with misses := [0, 0, 0, n, 0, 0, 0, 0] } }
def beats : List Bool := [true, true, true, false, true, true, true, true]
theorem witness_PowerAndHeat_heartbeats : (beating 9).isReady = true ∧ (beating 9).shepUp = true ∧ beats.getD 3 true = false ∧ 9 ≤ (beating 9).isl.misses.getD 3 0 ∧ (∀ e < 8, e ≠ 3 → beats.getD e true = true ∨ (beating 9).isl.misses.getD e 0 < 9) ∧
    Registers.wf (beating 9).ctl ∧ (∀ d < 8, beats.getD d true = true ∨ (beating 8).isl.misses.getD d 0 < 9) ∧ up.shepUp = false := by decide +kernel

/-! ### Service requests, firmware -/

/-- The operator's key, and its signature of an empty request of each operation with NONCE 1, as another implementation of ECDSA over P-384 makes them. -/
def svcPub : Nat := 0x46fb88959579d68b6dc08e54581f5aa5935dfa16b7549c1fa06931c9df3caaeb9f3ba41a6df4a2551cd525400d450c3d617ff89d8b19184730474d5d49bd4b84ef62c2410ad4ef34103ce76308b8e662813b8e8a20fccfe9a7d4344e8e2fac04
def svcSig : Nat → Nat
  | 0x10 => 0x7c7d7f6e8e438f18ebf8ded64f5f15e1d2693b6c77c24d68ada0508ab6ca56d7da42e51c71cfbca8f888b0da29e84750036974a81e44186a6d53034a6283f86ffca4e0568a71bb029d2c9af9ec8debd40951af20972bca5be5e07ca34c1baefc
  | 0x11 => 0x9bcfba9abba79e8221b2d727fecb2ee5fe142200f83bc195980251a765da5ae2cb099c8d2f9d7fdc540c131ab2721f2ec58561351dea8f61e832ddda9dd909332b78c52ace124580cd7f12f91399d6322eb6238892a2f157073bd0d80c1d90c7
  | 0x12 => 0x594b9d8b142d15df46c41a83d593703e8f6c0c80d3a4227d4c575fe7a9517119fbb7e3f0cf6df9544a4f76242552f6b4dfbf0501c738cc0f650ca7123a8cf2faff25c21c0c9c4e2ab710041857d543abaefe3f188f813fffc6d3ed3cab9a87ed
  | 0x13 => 0x202417ef031b1d6b02e0db820cd7bddbd73b7bb912a2c8879fd2b5fb9b9e4b3182d65a7e4288bf2392310d9d62f3e01240b15a905a386df8becf515c86113a793d93ab31c9376dd9a4330e95203f22898ef35ef5a225ce4c90d29698aefbee68
  | 0x14 => 0x45446e0f808624d632e05f31a0ac7c2d2b8a7fb3646c4b90c225fb41c102e48a2691b3727c5b521191d1adf5316229acdb6c1b7b5e5d19856b9181a9e2299625d6a3b119ccc7ca3baddd67ed6afe9281e4c5a170e8df12fca6172b9d134be0fd
  | 0x15 => 0x50d7ebedc0d3a38b28996d4a36df455b828923b27259bc5caf03a66d0437dd6db623819df89381723a3bb696fe18c72e5dcab51b42973f54bdbf6d4c41f03e899695a4fe5de134156aae3e01d72a07d747252fca0bb01665f04c9369d401f60b
  | 0x20 => 0x0c9242c50a049d956164f99ea5092a594e348c681b29994c18ef6af2900653f6c7f170ac26fe567e8a629a114913d0d24d02ba8548ea0f4e2289e40cd393d0f6638ea673ac2556785ff6de1fffc2df2b7910d4cfaca96e7e29a2578e4f2a16ba
  | 0x22 => 0xfdb4c098358c2f0fe511681000977390e93fdd071bccf7af137fb07e0518890272088f2710c708b286c131eb8bc03e2d0d24741e3c6f575522398f010c8827b9bbee5013354c97377f34b68fb5919d7e55634d15e49284f47b518b0a4f853399
  | _ => 0
/-- A request with NONCE 1. -/
def ask (op : Nat) (body sig : List Nat) : List Byte := ([0x10, op] ++ beBytes 2 body.length ++ beBytes 8 1 ++ [0, 0, 0, 0] ++ body ++ sig).map (BitVec.ofNat 8)
def asked (op : Nat) (body : List Nat := []) (sig : List Nat := []) : SvcReq := let h := [0x10, op] ++ beBytes 2 body.length ++ beBytes 8 1 ++ [0, 0, 0, 0]; ⟨op, 1, body, h ++ body, sig⟩
/-- Shepherd under the operator's key, with SVC_ARM closed or open. -/
def served (armed : Bool := true) : State := { up with isl := { up.isl with svcKey := beBytes 96 svcPub, armed := armed } }
def signed (op : Nat) : List Byte := ask op [] (beBytes 96 (svcSig op))
def signedReq (op : Nat) : SvcReq := asked op [] (beBytes 96 (svcSig op))
/-- R514, FIPS 186-5: the signatures verify; a signature of another request does not. -/
theorem test_signatures : ∀ op ∈ [0x10, 0x11, 0x12, 0x13, 0x14, 0x15, 0x20, 0x22], ecdsaVerify (beBytes 96 svcPub) (sha384 (signedReq op).text) (signedReq op).sig = true := by decide +kernel
theorem test_other_signature : ecdsaVerify (beBytes 96 svcPub) (sha384 (signedReq 0x10).text) (signedReq 0x11).sig = false := by decide +kernel
theorem parsed : ∀ op ∈ [0x10, 0x11, 0x12, 0x13, 0x14, 0x15, 0x20, 0x22], svcParse true (signed op) = some (signedReq op) ∧ (signedReq op).op = op ∧ (served true).svcUp op = true ∧ (served false).svcUp op = true := by decide +kernel
theorem witness_ServiceRequests_good : ∀ op ∈ [0x10, 0x11, 0x12, 0x13, 0x14, 0x15, 0x20, 0x22], SvcGood op (signed op) (signedReq op) (served true) := fun op h =>
  ⟨⟨(parsed op h).1, (parsed op h).2.1, (parsed op h).2.2.1⟩, (show ∀ o ∈ [0x10, 0x11, 0x12, 0x13, 0x14, 0x15, 0x20, 0x22], (served true).isl.nonce < (signedReq o).nonce by decide +kernel) op h, test_signatures op h⟩
theorem witness_ServiceRequests_bad : ∀ op ∈ [0x10, 0x11, 0x12, 0x13, 0x14, 0x15], SvcAsk true op (signed op) (signedReq op) (served false) ∧ (served true).armed ∧ (signedReq op).nonce ≤ { (served true).isl with nonce := 1 }.nonce := fun op h =>
  ⟨⟨(parsed op (by revert op; decide)).1, (parsed op (by revert op; decide)).2.1, (parsed op (by revert op; decide)).2.2.2⟩, rfl, by revert op; decide +kernel⟩
theorem witness_ServiceRequests_open : (∀ op ∈ [1, 2, 3], svcParse false (ask op [] []) = some (asked op) ∧ (asked op).op = op ∧ (served true).svcUp op = true) ∧ svcParse false (ask 0x24 (List.replicate 96 7) []) = some (asked 0x24 (List.replicate 96 7)) ∧
    (asked 0x24 (List.replicate 96 7)).op = 0x24 ∧ (served true).svcUp 0x24 = true ∧ svcParse false [] = none ∧ svcParse true [] = none ∧ svcParse true (ask 0x10 [] []) = none ∧ (served true).isl.armed = true ∧ (served false).isl.armed = false ∧
    (served true).isl.down = false := by decide +kernel
theorem test_set_key : (after (.setSvcKey (ask 0x24 (List.replicate 96 7) [])) (served true)).isl.svcKey = List.replicate 96 7 ∧ (after (.setSvcKey (ask 0x24 (List.replicate 96 7) [])) (served false)).isl.svcKey = beBytes 96 svcPub := by decide +kernel

/-- The mailbox with a command; ARG 0 is 0x10000 and ARG 1 is `b`; one last-gasp record. -/
def mailed (op b : Nat) (s : State := up) : State :=
  let s := (((s.setReg .shmStatus [] (2 ^ 63 + 2 ^ 60)).setReg .shmCmd [] (2 ^ 62 + op)).setReg .shmArg [0] 0x10000).setReg .shmArg [1] b
  { s with isl := { s.isl with gasps := [⟨7, 4, [], []⟩] } }
theorem lowFault_low {s : State} (hr : s.reg .idHbmRegion [0] = 2 ^ 18) (hp : s.paddockOn = false) (w : Bool) {as : List Nat} (ha : ∀ a ∈ as, a < 2 ^ 30) : s.lowFault .unit w as = none := by
  unfold State.lowFault
  induction as with
  | nil => rfl
  | cons a as ih =>
    rw [List.foldl_cons, locate_low hr hp w (ha a (List.mem_cons_self ..))]
    exact ih (fun x hx => ha x (List.mem_cons_of_mem _ hx))
/-- The 4,096 bytes at 0x10000 are plain HBM, and a write of them breaches nothing. -/
theorem page {s : State} (hr : s.reg .idHbmRegion [0] = 2 ^ 18) (hp : s.paddockOn = false) (hm : ∀ a, s.mapAt a = none) : PlainBytes s .unit ((List.range 4096).map (0x10000 + ·)) :=
  ⟨Machine.hbmKey 1 0 0, fun a ha => by
    simp only [List.mem_map, List.mem_range] at ha
    obtain ⟨i, hi, rfl⟩ := ha
    exact ⟨locate_low hr hp _ (by omega), locate_low hr hp _ (by omega), by simp only [accGroup]; rw [if_neg (by omega)], hm _⟩, fun a ha b hb h => by
    simp only [List.mem_map, List.mem_range] at ha hb
    obtain ⟨i, hi, rfl⟩ := ha
    obtain ⟨j, hj, rfl⟩ := hb
    rw [show 0x10000 + i = 4096 * 16 + i by omega, show 0x10000 + j = 4096 * 16 + j by omega, key_page hi, key_page hj] at h
    omega⟩
theorem page_any {p : Nat → Bool} (h : ∀ i < 4096, p (0x10000 + i) = false) : ((List.range 4096).map (0x10000 + ·)).any p = false := by
  rw [List.any_eq_false]
  intro a ha
  simp only [List.mem_map, List.mem_range] at ha
  obtain ⟨i, hi, rfl⟩ := ha
  rw [h i hi]; exact Bool.false_ne_true
/-- With no ledger, no flash, no channel, no exchange, no shard, no reduction and nothing in flight, the page breaches a privileged operation's buffer or nothing. -/
theorem page_breach {s : State} (hl : s.flag .ledBase [] 63 = false) (hf : s.flag .drvFlashCtrl [] 63 = false) (hc : s.anyChannel = false) (hx : s.stakes = []) (hr : s.ctxs = []) (hs : s.shard = none) (hn : s.farOn = false) :
    s.wrBreach ((List.range 4096).map (0x10000 + ·)) = if ((List.range 4096).map (0x10000 + ·)).any s.inPrivBuf then some (.ub 56) else none := by
  unfold State.wrBreach State.areaBreach State.storeBreach State.slotBreach State.accBusy State.recBusy State.inReduction
  rw [page_any (fun i hi => by simp only [accGroup]; rw [if_neg (by omega)]), page_any (p := s.inSpill) (fun i hi => by simp only [State.inSpill]; rw [if_neg (by omega)]), page_any (p := s.inRecord) (fun i hi => by simp only [State.inRecord, hr]; rfl),
    page_any (p := s.inEntry) (fun i hi => by simp only [State.inEntry, hl]; rfl), page_any (p := s.inShard) (fun i hi => by simp only [State.inShard, hs]), page_any (p := s.inFold) (fun i hi => by simp only [State.inFold, hn]; rfl)]
  cases h : ((List.range 4096).map (0x10000 + ·)).any s.inPrivBuf <;> simp [hf, hc, hx, hr, hn]
theorem page_lands {s : State} (hr : s.reg .idHbmRegion [0] = 2 ^ 18) (hp : s.paddockOn = false) : s.landing .unit ((List.range 4096).map (0x10000 + ·)) = (List.range 4096).map (0x10000 + ·) := by
  unfold State.landing
  rw [List.filter_eq_self]
  intro a ha
  simp only [List.mem_map, List.mem_range] at ha
  obtain ⟨i, hi, rfl⟩ := ha
  unfold State.lands
  rw [locate_low hr hp true (by omega)]
theorem lowFault_some {s : State} {i : Issuer} {w : Bool} {as : List Nat} (h : ∃ a ∈ as, ∃ k, s.locate i w a = .fault k) : (s.lowFault i w as).isSome = true := by
  have go : ∀ (as : List Nat) (b : Option (Nat × Nat)), (b.isSome = true ∨ ∃ a ∈ as, ∃ k, s.locate i w a = .fault k) → (as.foldl (fun b da => match s.locate i w da with
      | .fault k => (match b with
        | some (x, kx) => if da < x then some (da, k) else some (x, kx)
        | none => some (da, k))
      | _ => b) b).isSome = true := by
    intro as
    induction as with
    | nil => intro b h; rcases h with h | ⟨a, ha, _⟩
             · exact h
             · cases ha
    | cons x r ih =>
      intro b h
      rw [List.foldl_cons]
      apply ih
      rcases h with h | ⟨a, ha, k, hk⟩
      · left; split
        · split
          · split <;> rfl
          · rfl
        · exact h
      · rcases List.mem_cons.1 ha with rfl | ha
        · left; rw [hk]; dsimp only; split
          · split <;> rfl
          · rfl
        · exact .inr ⟨a, ha, k, hk⟩
  exact go as none (.inr h)
theorem witness_ServiceRequests_mail : (∀ op ∈ [(1 : Nat), 2, 3, 4, 5, 9], (mailed op 0).mailFree = true ∧ (mailed op 0).rf .shmCmd [] 0 8 = op) ∧ up.mailFree = false ∧ Registers.wf (mailed 2 0).ctl ∧ (mailed 3 0).isl.gasps[(mailed 3 0).rf .shmArg [1] 0 4]? = some ⟨7, 4, [], []⟩ ∧
    (mailed 3 5).isl.gasps[(mailed 3 5).rf .shmArg [1] 0 4]? = none ∧ (mailed 3 0).reg .shmArg [0] = 0x10000 ∧ ((mailed 3 0).setReg .shmArg [0] 0x40000000).lowFault .unit true [0x40000000] = some (0x40000000, 0) := by decide +kernel
theorem witness_ServiceRequests_gasp : ((mailed 3 0).lowFault .unit true ((List.range 4096).map (0x10000 + ·))).isSome = false ∧ (mailed 3 0).wrBreach ((mailed 3 0).landing .unit ((List.range 4096).map (0x10000 + ·))) = none ∧ PlainBytes (mailed 3 0) .unit ((List.range 4096).map (0x10000 + ·)) := by
  have hr : (mailed 3 0).reg .idHbmRegion [0] = 2 ^ 18 := by decide +kernel
  have hp : (mailed 3 0).paddockOn = false := by decide +kernel
  refine ⟨?_, by rw [page_lands hr hp, page_breach (by decide +kernel) (by decide +kernel) (noChannel (by decide +kernel)) rfl rfl rfl (by decide +kernel), page_any (fun _ _ => rfl)]; rfl, page hr hp (fun _ => rfl)⟩
  rw [lowFault_low hr hp true (by intro a ha; simp only [List.mem_map, List.mem_range] at ha; obtain ⟨i, hi, rfl⟩ := ha; omega)]; rfl
/-- The record's page wraps nowhere; no reset and no quiesce holds it, and nothing else is in flight; a quiesce holds it; a privileged operation's buffer there is UB-56's case; a page that begins in a hole faults, and one beyond HBM is none of it. -/
theorem witness_ServiceRequests_page : (∀ i < 4096, ((mailed 3 0).reg .shmArg [0] + i) % 2 ^ 48 = 0x10000 + i) ∧ (mailed 3 0).halted = false ∧ (∀ as, (mailed 3 0).wrHeld .unit as = false) ∧ (∀ as, OffLedger (mailed 3 0) as) ∧ (∀ ks, Alone (mailed 3 0) .other ks) ∧
    (mailed 3 0).breach = none ∧ (⟨7, 4, [], []⟩ : Gasp).bytes.length = 4096 ∧ ({ mailed 3 0 with isl := { (mailed 3 0).isl with quiesced := [0] } } : State).halted = true := by
  have h : (mailed 3 0).reg .shmArg [0] = 0x10000 := by decide +kernel
  refine ⟨fun i hi => by rw [h, Nat.mod_eq_of_lt (by omega)], rfl, fun as => ?_, fun as hl => ?_, fun ks => ⟨rfl, rfl⟩, rfl, ?_, rfl⟩
  · unfold State.wrHeld State.dieHeld State.quiesceHeld
    rw [show (mailed 3 0).isl.running = [] from rfl, show (mailed 3 0).isl.quiesced = [] from rfl]; rfl
  · rw [show (mailed 3 0).flag .ledBase [] 63 = false by decide +kernel] at hl; cases hl
  · unfold Gasp.bytes; rw [List.length_map, List.length_range]
theorem witness_ServiceRequests_hole : (let s := (mailed 3 0).setReg .shmArg [0] 0x40000000; ∀ as, 0x40000000 ∈ as → (s.lowFault .unit true as).isSome = true) ∧ ((mailed 3 0).setReg .shmArg [0] (2 ^ 40)).reg .shmArg [0] = 2 ^ 40 := by
  refine ⟨fun as h => lowFault_some ⟨_, h, 0, by decide +kernel⟩, by decide +kernel⟩
def spoils : State := { mailed 3 0 with cip := { (mailed 3 0).cip with ops := [privOp 1 0x1000 0x10000 16] } }
theorem witness_ServiceRequests_spoils : spoils.wrBreach ((List.range 4096).map (0x10000 + ·)) = some (.ub 56) := by
  rw [page_breach (by decide +kernel) (by decide +kernel) (noChannel (by decide +kernel)) rfl rfl rfl (by decide +kernel), show ((List.range 4096).map (0x10000 + ·)).any spoils.inPrivBuf = true from List.any_eq_true.2 ⟨0x10000, List.mem_map.2 ⟨0, by decide +kernel, rfl⟩, by decide +kernel⟩]; rfl
/-- R507: the mailbox's QUIESCE and POWER_OFF run after a fatal error of Shepherd too. -/
theorem witness_ServiceRequests_down : ∀ op ∈ [(1 : Nat), 2], let s := (mailed op 0).setReg .shmStatus [] 0; s.shepUp = false ∧ s.flag .shmCmd [] 62 = true ∧ s.isl.result = none ∧ s.rf .shmCmd [] 0 8 = op ∧ Registers.wf s.ctl := by decide +kernel
theorem test_mail_down : (after .powerOff ((mailed 2 0).setReg .shmStatus [] 0)).isl.heldOff = true ∧ (after .quiesce ((mailed 1 0).setReg .shmStatus [] 0)).isl.result = some (1, 0) ∧
    (after .lastGaspClear ((mailed 4 0).setReg .shmStatus [] 0)).isl.result = none := by decide +kernel
theorem test_mail : (after (.powerOff) (mailed 2 0)).isl.heldOff = true ∧ (after .lastGaspClear (mailed 4 0)).flag .shmStatus [] 60 = false ∧ (let s := after .mailboxDone (mailed 9 0); s.rf .shmResult [] 48 16 = 2 ∧ s.flag .shmCmd [] 62 = false) := by decide +kernel

/-- The ledger at 512 MiB with entry 0 active, a weight of 64 bytes at 0x20000; the committed slot is 0; digests go to slot 9 under the key 7; queue 4 is enabled. -/
def swept : State :=
  let s := ((ledgered.pokes .unit 0x20000000 (leBytes 8 (1 + 2 ^ 28))).pokes .unit 0x20000020 (leBytes 6 0x20000)).pokes .unit 0x2000002C (leBytes 4 64)
  let s := ((s.setReg .ledFlockSlots [] (9 + 2 ^ 8)).setReg .ledDigestKeyLo [] 7).setReg .drvQueueCtrl [4] 0x40111
  (mailed 5 64 (s.pokes .unit 0x20000 [1, 2, 3])).setReg .shmArg [2] 4
theorem swept_other : ∀ c < 64, ∀ d < 64, c + d ≠ 0 → Machine.hbmKey 1 0 0 (0x20000000 + 256 * (64 * c + d)) / 256 ∉ swept.mem.map (fun e => e.1 / 256) := by decide +kernel
theorem witness_ServiceRequests_sweep_entries : swept.weightEntries = [0] :=
  (one_entry (by decide +kernel) (by decide +kernel) (by decide +kernel) (by decide +kernel) swept_other (by decide +kernel)).1
theorem witness_ServiceRequests_sweep : swept.mailFree = true ∧ swept.rf .shmCmd [] 0 8 = 5 ∧ swept.entryLe 0 0x2C 4 = 64 ∧ swept.rf .ledFlockSlots [] 8 9 = 1 ∧ swept.reg .shmArg [0] % 64 = 0 ∧ 64 ≤ swept.reg .shmArg [1] ∧
    (swept.lowFault .unit true ((List.range 64).map (0x10000 + ·))).isSome = false ∧ swept.queueOn 4 = true ∧ swept.rf .shmArg [2] 0 8 = 4 ∧ swept.flag .drvQueueCtrl [4] 30 = false ∧ swept.queueHead 4 = swept.queueTail 4 ∧ swept.queueXfers 4 = [] ∧ swept.digestKey = 7 ∧ swept.keyBad = false ∧
    swept.entryLe 0 0x20 6 + swept.rf .ledCommit [] 0 48 % 4 * swept.entryLe 0 0x28 4 = 0x20000 := by decide +kernel
/-- Nothing holds the sweep; a quiesce does, and so does a die whose engines all serve the paddock. -/
theorem witness_ServiceRequests_sweep_held : swept.sweepHeld 4 0x10000 64 [0] = false ∧ ({ swept with isl := { swept.isl with quiesced := [0] } } : State).sweepHeld 4 0x10000 64 [0] = true ∧
    (swept.setReg .drvEngineOwn [0] 0xFFFF).sweepHeld 4 0x10000 64 [0] = true ∧ swept.breach = none := by decide +kernel
/-- A die whose heartbeat is missed may not answer; the others do. -/
theorem witness_ServiceRequests_deaf : up.isl.powered = true ∧ (∀ d < 8, up.dieDown d = false ∧ up.isl.misses.getD d 0 = 0) ∧ State.reset.isl.powered = false ∧ up.deafDies = (0, up) := by decide +kernel

/-- A session that has written the image into slot B. -/
def session : FwSession := ⟨6, 1, 592⟩
def imaged (bad : Bool) : State :=
  let s := imagesIn [1] (served true)
  { s.setReg .shmStatus [] (2 ^ 63 + (if bad then 3 else 2) * 2 ^ 48) with isl := { s.isl with session := some session } }
theorem witness_Firmware_image : (imaged false).imageOk session = true := by
  unfold State.imageOk
  rw [show session.slot = 1 from rfl, headerOk_of (b := 1) (by decide +kernel) (by decide +kernel) (by decide +kernel)]
  decide +kernel
/-- SVN 2 under a fuse that says 3: R523. -/
theorem witness_Firmware_old : (imaged true).imageOk session = false := by
  have h1 : decide ((imaged true).rf .shmStatus [] 48 8 ≤ (imaged true).hdrLe 1 12 4) = false := by decide +kernel
  unfold State.imageOk State.headerOk
  rw [show session.slot = 1 from rfl, h1, Bool.and_false, Bool.and_false]
theorem witness_Firmware : SvcGood 0x20 (signed 0x20) (signedReq 0x20) (served true) ∧ (served true).isl.armed = true ∧ SvcAsk true 0x20 (signed 0x20) (signedReq 0x20) (served false) ∧ SvcAsk false 0x21 (ask 0x21 [] []) (asked 0x21) (served true) ∧
    SvcAsk false 0x21 (ask 0x21 [] []) (asked 0x21) (imaged false) ∧ (imaged false).isl.session = some session ∧ session.slot < 2 ∧ session.src = 6 ∧ SvcGood 0x22 (signed 0x22) (signedReq 0x22) (imaged false) ∧ (imaged false).shepUp = true ∧
    (served true).isl.session = none ∧ SvcGood 0x22 (signed 0x22) (signedReq 0x22) (served true) :=
  ⟨witness_ServiceRequests_good _ (by decide), rfl, ⟨(parsed 0x20 (by decide)).1, rfl, rfl⟩, ⟨by decide +kernel, rfl, rfl⟩, ⟨by decide +kernel, rfl, by decide +kernel⟩, by decide +kernel, by decide, rfl,
    ⟨⟨(parsed 0x22 (by decide)).1, rfl, by decide +kernel⟩, by decide +kernel, test_signatures 0x22 (by decide)⟩, by decide +kernel, rfl, witness_ServiceRequests_good _ (by decide)⟩
/-- A handover under way, D1 lost or not; control has passed to D1, or waits for the command in progress. -/
def handing (lost : Bool) (d1 : Bool := !lost) : State := { slots 1 2 with isl := { Island.reset with powered := true, handover := some (1, lost), onD1 := d1, session := some session, armed := true } }
theorem witness_Firmware_handover : (handing false).isl.handover = some (1, false) ∧ (handing true).isl.handover = some (1, true) ∧ up.isl.handover = none ∧ ((handing true).setReg .shmStatus [] (2 ^ 63)).shepUp = true ∧ (handing true).isl.down = false ∧
    (handing true).isl.armed ≠ false ∧ (handing true).isl.session = some session ∧ (handing true).isl.powered = true ∧
    (handing false).isl.onD1 = true ∧ (handing false false).isl.onD1 = false ∧ ({ imaged false with isl := { (imaged false).isl with result := some (1, 0) } } : State).isl.result ≠ none ∧ (imaged false).isl.result = none ∧ (handing false).isl.heldSvc = [] := by decide +kernel
/-- R528: the slot becomes FAILED, or stays NEXT when D1 was lost; opening SVC_ARM ends the session. -/
theorem test_handover : (after .fwHandoverFail (handing false)).slotSt 1 = 3 ∧ (after .fwHandoverFail (handing true)).slotSt 1 = 2 ∧ (after .fwHandoverDone (handing false)).rf .clkStatus [] 35 1 = 1 ∧ (after (.svcArmChange false) (imaged false)).isl.session = none ∧ (after (.svcArmChange false) (imaged false)).slotSt 1 = 0 ∧
    (after .shepherdFatalError ((handing true).setReg .shmStatus [] (2 ^ 63))).shepUp = false := by decide +kernel

/-- R527: a request that comes during a handover is answered after it. -/
theorem test_svc_held : (after .fwHandoverDone (handing false false)).isl.handover = some (1, false) ∧ (let s := after (.serviceLastGaspRead (ask 3 [] [])) (handing false); s.out = [] ∧ s.isl.heldSvc.length = 1 ∧ (after .fwHandoverDone s).isl.heldSvc = [] ∧ (after .fwHandoverDone s).out.length = 1) := by decide +kernel
/-- R541: a module of more than 25 W stays in low-power mode, and its port has no link. -/
theorem test_module : (after (.plugInModuleChange 2 (some 25)) (linked 2 Chan.reset)).farLink 2 = true ∧ (let s := after (.plugInModuleChange 2 (some 26)) (linked 2 Chan.reset); s.farLink 2 = false ∧ (s.isl.cages.map (fun e => (e.1, e.2.lowPower))) = [(2, true)]) ∧
    (after (.plugInModuleChange 2 none) (linked 2 Chan.reset)).farLink 2 = false := by decide +kernel

/-! ### The whole machine -/

theorem witness_StepKeepsForm : State.reset.Wf ∧ up.Wf ∧ step { up with pending := [.smbusBlockRead 0] } = .next (after (.smbusBlockRead 0) up) :=
  ⟨⟨by decide, by decide +kernel⟩, ⟨by decide +kernel, by decide +kernel⟩, rfl⟩

end Sys2Proof.Tests
end

section
/-!
PROOFS. Host reads of control registers: the value that a read returns, and what it clears (R12, R17, R469).
-/
namespace Sys2Proof.Proofs
open Sys2Proof Sys2Proof.Machine Sys2Proof.Laws

/-! ### The value of a read -/

theorem ctlRead_of_undefined_offset (s : State) (port : Nat) {off : Nat} (h : regFind off = none) : s.ctlRead port off = 0 := by
  simp [State.ctlRead, h]

@[simp] theorem ctlReadRc_full (s : State) (port off : Nat) : (s.ctlReadRc port off .full).1 = s.ctlRead port off := rfl

@[simp] theorem ctlReadRc_low (s : State) (port off : Nat) : (s.ctlReadRc port off .low).1 = s.ctlRead port off % 2 ^ 32 := rfl

@[simp] theorem ctlReadRc_high (s : State) (port off : Nat) : (s.ctlReadRc port off .high).1 = s.ctlRead port off / 2 ^ 32 := rfl

/-! ### What a read clears -/

/-- The register file after a read: nothing is stored where the access covers no read-to-clear bit. -/
theorem ctlReadRc_state (s : State) (port off : Nat) (acc : Acc) :
    (s.ctlReadRc port off acc).2 =
      if rcMask off &&& accMask acc = 0 then s
      else s.setCtl off (s.ctlRaw off &&& ~~~ (BitVec.ofNat 64 (rcMask off &&& accMask acc))) := rfl

theorem ctlReadRc_ctlRaw_same (s : State) (port off : Nat) (acc : Acc) :
    (s.ctlReadRc port off acc).2.ctlRaw off = s.ctlRaw off &&& ~~~ (BitVec.ofNat 64 (rcMask off &&& accMask acc)) := by
  rw [ctlReadRc_state]
  split
  next hnone => rw [hnone, BitVec.not_zero, BitVec.and_allOnes]
  next => exact ctlRaw_setCtl_same s off _

theorem ctlReadRc_ctlRaw_other (s : State) (port : Nat) {off o : Nat} (acc : Acc) (h : o ≠ off) :
    (s.ctlReadRc port off acc).2.ctlRaw o = s.ctlRaw o := by
  rw [ctlReadRc_state]
  split
  next => rfl
  next => exact ctlRaw_setCtl_other s _ h

theorem ctlReadRc_frame (s : State) (port off : Nat) (acc : Acc) :
    (s.ctlReadRc port off acc).2 = { s with ctl := (s.ctlReadRc port off acc).2.ctl } := by
  rw [ctlReadRc_state]
  split <;> rfl

/-- R17: a bit stays unless it is a read-to-clear bit of the part that was read. -/
theorem ctlReadRc_testBit (s : State) (port off : Nat) (acc : Acc) {b : Nat} (hb : b < 64) :
    ((s.ctlReadRc port off acc).2.ctlRaw off).toNat.testBit b =
      ((s.ctlRaw off).toNat.testBit b && !((rcMask off).testBit b && (accMask acc).testBit b)) := by
  rw [ctlReadRc_ctlRaw_same]
  simp only [BitVec.testBit_toNat, BitVec.getLsbD_and, BitVec.getLsbD_not, BitVec.getLsbD_ofNat, Nat.testBit_and, hb, decide_true,
    Bool.true_and]

/-! ### The command -/

theorem exec_rcRegisterRead (port : Fin 2) (off : Nat) (acc : Acc) (s : State) :
    exec (.rcRegisterRead port off acc) s = execRcRegisterRead port off acc s := rfl

/-- R12: a read of another size is undefined (UB-02). -/
theorem exec_rcRegisterRead_other_size (port : Fin 2) (off : Nat) {s : State} (hup : s.hostUp port = true) :
    exec (.rcRegisterRead port off .other) s = .fault (.undefined (.ub 2)) := by
  rw [exec_rcRegisterRead, execRcRegisterRead, if_neg (by simp [hup]), if_pos rfl]
  rfl

/-- What a host read leaves: the register file that `State.ctlReadRc` leaves, and the value sent back over the port. -/
def afterRead (port : Fin 2) (off : Nat) (acc : Acc) (s : State) : State :=
  let r := s.ctlReadRc port off acc
  { r.2 with out := r.2.out ++ [.regData port (BitVec.ofNat 64 r.1)] }

theorem exec_rcRegisterRead_of_hostUp (port : Fin 2) (off : Nat) {acc : Acc} {s : State} (hup : s.hostUp port = true)
    (hacc : acc ≠ .other) : exec (.rcRegisterRead port off acc) s = .next (afterRead port off acc s) := by
  rw [exec_rcRegisterRead, execRcRegisterRead, if_neg (by simp [hup]), if_neg hacc]
  rfl

theorem afterRead_ctlRaw (port : Fin 2) (off : Nat) (acc : Acc) (s : State) (o : Nat) :
    (afterRead port off acc s).ctlRaw o = (s.ctlReadRc port off acc).2.ctlRaw o := rfl

theorem afterRead_out (port : Fin 2) (off : Nat) (acc : Acc) (s : State) :
    (afterRead port off acc s).out = s.out ++ [.regData port (BitVec.ofNat 64 (s.ctlReadRc port off acc).1)] := by
  rw [afterRead, ctlReadRc_frame]

theorem afterRead_frame (port : Fin 2) (off : Nat) (acc : Acc) (s : State) :
    afterRead port off acc s = { s with ctl := (afterRead port off acc s).ctl, out := (afterRead port off acc s).out } := by
  rw [afterRead, ctlReadRc_frame]

/-- Settles O19: a permitted read leaves `afterRead`, whose value, cleared bits and frame are those of `State.ctlReadRc`. -/
theorem registerReads : Obligations.RegisterReads := by
  refine ⟨fun port off s hup => exec_rcRegisterRead_other_size port off hup, fun port off acc s hup hacc =>
    ⟨afterRead port off acc s, exec_rcRegisterRead_of_hostUp port off hup hacc, ?value, ctlRead_of_undefined_offset s port,
      ?cleared, ?others, afterRead_frame port off acc s⟩⟩
  case value =>
    rw [afterRead_out]
    cases acc with
    | full => rw [ctlReadRc_full]
    | low => rw [ctlReadRc_low]
    | high => rw [ctlReadRc_high]
    | other => exact absurd rfl hacc
  case cleared =>
    intro b hb
    rw [afterRead_ctlRaw, ctlReadRc_testBit s port off acc hb]
  case others =>
    intro o ho
    rw [afterRead_ctlRaw, ctlReadRc_ctlRaw_other s port acc ho]

end Sys2Proof.Proofs
end

section
/-!
PROOFS. Tile control (R44, R171-R177): a start, a stop, a write of START_PC or of a token register, the end of a drain, the stall watchdog.
-/
namespace Sys2Proof.Proofs
open Sys2Proof Sys2Proof.Machine Sys2Proof.Laws

/-! ### A host write of a tile's register -/

theorem unsent_of_tileOnly {t : Nat} {w : Nat → Prop} {r ts : List Nat} {s s' : State} (hu : Unsent s) (h : TileOnly t w r ts s s') :
    Unsent s' := by
  rw [h.rest]
  exact hu

theorem unsent_setReg {s : State} (hu : Unsent s) (n : RegName) (idx : List Nat) (v : Nat) : Unsent (s.setReg n idx v) := hu

theorem unsent_setTile {s : State} (hu : Unsent s) (t : Nat) (x : Tile) : Unsent (s.setTile t x) := hu

/-- A host write whose register answers a next state with nothing to send answers that state. -/
theorem hostReg_of_regWrite {s s' : State} {n : RegName} {idx : List Nat} {acc : Acc} {v : Word}
    (hidx : idxOk (regRow n).dims (regRow n).lo idx) (ho : HostOpen 0 n idx acc v.toNat s)
    (hw : s.regWrite 0 n idx acc v.toNat = .next s') (hu : Unsent s') : s.hostReg n idx acc v = .next s' := by
  rw [State.hostReg, hostWrite_eq (regFind_regOff n idx hidx) ho, hw]
  exact flush_none s' hu

/-- The indices of a tile lie in the arrays of the tile registers (R39). -/
theorem idxOk_tix (t : TileId) : idxOk [(0x200000, 8), (0x100, 160)] 0 (tix t) :=
  ⟨by omega, fun _ => Nat.zero_le _, by omega, fun _ => Nat.zero_le _, trivial⟩

theorem idxOk_tix_token (t : TileId) (n : Fin 8) : idxOk [(0x200000, 8), (0x100, 160), (0x8, 8)] 0 (tix t ++ [n.val]) :=
  ⟨by omega, fun _ => Nat.zero_le _, by omega, fun _ => Nat.zero_le _, n.isLt, fun _ => Nat.zero_le _, trivial⟩

/-- The number that a register write takes from a tile's indices. -/
theorem tile_of_tix (t : Nat) : 160 * (t / 160) + t % 160 = t := Nat.div_add_mod t 160

theorem regWrite_tileSeqCtrl (s : State) (port t : Nat) (acc : Acc) (v : Nat) :
    s.regWrite port .tileSeqCtrl (tix t) acc v = s.seqCtrlWrite t acc v :=
  congrArg (s.seqCtrlWrite · acc v) (tile_of_tix t)

theorem regWrite_tileStartPc (s : State) (port t : Nat) (acc : Acc) (v : Nat) :
    s.regWrite port .tileStartPc (tix t) acc v = .next (s.startPcWrite t acc v) :=
  congrArg (Host.Outcome.next <| s.startPcWrite · acc v) (tile_of_tix t)

theorem regWrite_tileToken (s : State) (port t n : Nat) (acc : Acc) (v : Nat) :
    s.regWrite port .tileToken (tix t ++ [n]) acc v = .next (s.tokenWrite t n acc v) :=
  congrArg (Host.Outcome.next <| s.tokenWrite · n acc v) (tile_of_tix t)

/-! ### Start (R44, R173, R174) -/

theorem startForbidden_iff (s : State) (t : Nat) :
    s.startForbidden t = true ↔ s.slice t = 0 ∨ (s.slice t = 63 ∧ s.paddockOn = false) := by
  simp [State.startForbidden]

theorem seqCtrlWrite_start (s : State) (t : Nat) : s.seqCtrlWrite t .full 1 = s.tryStart t := rfl

theorem tryStart_of_permitted {s : State} {t : Nat} (hrun : s.tileRunning t = false) (hslice : s.startForbidden t = false) :
    s.tryStart t = s.startTile t := by
  simp [State.tryStart, hrun, hslice]

theorem tryStart_of_refused {s : State} {t : Nat} (h : s.tileRunning t = true ∨ s.startForbidden t = true) :
    s.tryStart t = .next (s.setTile t { s.tile t with writeReject := true }) := by
  simp [State.tryStart, h]

/-- The record that R174, R208 and R252 give a started tile, but for its tokens and TOKEN_SAT, which it keeps. -/
def startedTile (s : State) (t : Nat) : Tile :=
  { Tile.reset with
    seq := .running, cause := (s.tile t).cause, watchdog := (s.tile t).watchdog, fetchFault := (s.tile t).fetchFault
    writeReject := (s.tile t).writeReject, cfgReject := (s.tile t).cfgReject, icGen := s.gen }

theorem startTile_eq_seek (s : State) (t : Nat) :
    s.startTile t =
      (s.setTile t { startedTile s t with tok := (s.tile t).tok, tokenSat := (s.tile t).tokenSat }).seek t (s.reg .tileStartPc (tix t)) := by
  rw [State.startTile, setTile_reg]
  rfl

/-- A start leaves the tile as a jump to START_PC leaves the record of R174; its first fetch may meet a fault there (R169). -/
theorem startTile_retired {s : State} {t : Nat} (hpc : s.reg .tileStartPc (tix t) < 2 ^ 40) :
    ∃ s', s.startTile t = .next s' ∧
      SqRetired t (startedTile s t) (s.tile t).token 0 (s.reg .tileStartPc (tix t)) (fun _ => False) s s' ∧
      (s'.tile t).tokenSat = (s.tile t).tokenSat := by
  rw [startTile_eq_seek]
  generalize s.reg .tileStartPc (tix t) = pc at hpc ⊢
  have hset := TileOnly.setTile s t (fun _ => False) [regOff .idAddrFault []] []
    { startedTile s t with tok := (s.tile t).tok, tokenSat := (s.tile t).tokenSat }
  obtain ⟨s', hseek, rq, q, c, f, htile, hgo⟩ := seek_tile (s.setTile t _) t pc hpc
  rw [tile_setTile_same] at htile hgo
  refine ⟨s', hseek, ⟨hset.trans (seek_only _ _ _ _ _ hseek), ?pc, ?rest, ?token, ?goes⟩, ?sat⟩
  case pc => rw [htile]
  case rest => rw [htile]
  case sat => rw [htile]
  case token =>
    intro k
    rw [htile]
    by_cases hk : k = 0 <;> simp [Tile.token, hk]
  case goes =>
    rw [htile]
    rcases hgo with hsame | ⟨hfault, hq, hc, hf⟩
    · exact .inl hsame
    · exact .inr ⟨(hset.lineFaults _ (by omega)).symm.trans hfault, hq, hc, hf⟩

theorem exec_tileStart {t : TileId} {s s' : State} (ho : HostOpen 0 .tileSeqCtrl (tix t) .full 1 s)
    (hstart : s.tryStart t = .next s') (hu : Unsent s') : exec (.tileStart t) s = .next s' :=
  hostReg_of_regWrite (v := 1) (idxOk_tix t) ho
    ((regWrite_tileSeqCtrl s 0 t .full 1).trans ((seqCtrlWrite_start s t).trans hstart)) hu

/-! ### Stop (R174, R175, R374) -/

/-- The issued instructions that a stop leaves in flight: all but the link instructions that it abandons (R374). -/
def outlivesStop (f : Flight) : Bool :=
  match f.queue, f.work with
  | .lk, .transfer _ => true
  | .lk, _ => false
  | _, _ => true

theorem outlivesStop_of_not_link {f : Flight} (h : f.queue ≠ .lk) : outlivesStop f = true := by
  unfold outlivesStop
  split
  next => rfl
  next hlk _ => exact absurd hlk h
  next => rfl

/-- Freeing contexts moves nothing but the contexts. -/
theorem freeCtxs_frame (l : List (Nat × Option Ctx)) (s : State) :
    l.foldl (fun s e => { s with ctxs := tblSet (fun _ => none) s.ctxs e.1 none }) s =
      { s with ctxs := l.foldl (fun c e => tblSet (fun _ => none) c e.1 none) s.ctxs } := by
  induction l generalizing s with
  | nil => rfl
  | cons e l ih => exact ih _

/-- Abandoning a tile's link instructions moves its flights, the contexts, the wave and the barrier. -/
theorem abandonLinks_eq (s : State) (t : Nat) : ∃ c w b, s.abandonLinks t =
    { s.setTile t { s.tile t with flights := (s.tile t).flights.filter outlivesStop } with ctxs := c, wave := w, barrier := b } := by
  unfold State.abandonLinks
  dsimp only
  rw [freeCtxs_frame]
  exact ⟨_, _, _, rfl⟩

/-- The record of a tile that a stop leaves draining (R175), one that already drained after a halt or a fetch fault among them (log 51). -/
def stoppingTile (x : Tile) : Tile :=
  { x with
    flights := x.flights.filter outlivesStop, seq := .draining, cause := .stop, qMx := [], qVx := [], qDv := [], qLk := [], icReq := [] }

theorem stopTile_of_not_running {s : State} {t : Nat} (h : s.tileRunning t = false) : s.stopTile t = s := by
  rw [State.stopTile, if_pos (by simpa [State.tileRunning] using h)]

theorem stopTile_of_running {s : State} {t : Nat} (h : s.tileRunning t = true) : s.stopTile t =
    (s.abandonLinks t).setTile t { (s.abandonLinks t).tile t with
      seq := .draining, cause := .stop, qMx := [], qVx := [], qDv := [], qLk := [], icReq := [] } := by
  rw [State.stopTile, if_neg (by simpa [State.tileRunning] using h)]

theorem abandonLinks_tile (s : State) (t u : Nat) : (s.abandonLinks t).tile u =
    if u = t then { s.tile t with flights := (s.tile t).flights.filter outlivesStop } else s.tile u := by
  obtain ⟨c, w, b, heq⟩ := abandonLinks_eq s t
  rw [heq]
  exact tile_setTile s t u _

theorem stopTile_tile_same {s : State} {t : Nat} (h : s.tileRunning t = true) : (s.stopTile t).tile t = stoppingTile (s.tile t) := by
  rw [stopTile_of_running h, tile_setTile_same, abandonLinks_tile, if_pos rfl]
  rfl

theorem stopTile_tile_other {s : State} {t u : Nat} (h : s.tileRunning t = true) (hu : u ≠ t) : (s.stopTile t).tile u = s.tile u := by
  rw [stopTile_of_running h, tile_setTile_other _ _ hu, abandonLinks_tile, if_neg hu]

theorem stopTile_frame {s : State} {t : Nat} (h : s.tileRunning t = true) : s.stopTile t =
    { s with tiles := (s.stopTile t).tiles, ctxs := (s.stopTile t).ctxs, wave := (s.stopTile t).wave, barrier := (s.stopTile t).barrier } := by
  obtain ⟨c, w, b, heq⟩ := abandonLinks_eq s t
  rw [stopTile_of_running h, heq]
  rfl

theorem seqCtrlWrite_stop (s : State) (t : Nat) : s.seqCtrlWrite t .full 2 = .next (s.stopTile t) := rfl

theorem exec_tileStop {t : TileId} {s s' : State} (ho : HostOpen 0 .tileSeqCtrl (tix t) .full 2 s) (hstop : s.stopTile t = s')
    (hu : Unsent s') : exec (.tileStop t) s = .next s' := by
  subst hstop
  exact hostReg_of_regWrite (v := 2) (idxOk_tix t) ho ((regWrite_tileSeqCtrl s 0 t .full 2).trans (seqCtrlWrite_stop s t)) hu

/-! ### START_PC and the tokens (R173) -/

theorem startPcWrite_of_running {s : State} {t : Nat} (h : s.tileRunning t = true) (acc : Acc) (v : Nat) :
    s.startPcWrite t acc v = s.setTile t { s.tile t with writeReject := true } := if_pos h

theorem startPcWrite_of_not_running {s : State} {t : Nat} (h : s.tileRunning t = false) (acc : Acc) (v : Nat) :
    s.startPcWrite t acc v = s.setReg .tileStartPc (tix t) (ctlMerge .tileStartPc acc (s.reg .tileStartPc (tix t)) v) :=
  if_neg (by simp [h])

theorem exec_startPcWrite {t : TileId} {s s' : State} {acc : Acc} {v : Word} (ho : HostOpen 0 .tileStartPc (tix t) acc v.toNat s)
    (hwrite : s.startPcWrite t acc v.toNat = s') (hu : Unsent s') : exec (.startPcWrite t acc v) s = .next s' := by
  subst hwrite
  exact hostReg_of_regWrite (idxOk_tix t) ho (regWrite_tileStartPc s 0 t acc v.toNat) hu

/-- A tile with the first `m` tokens of token register `n` at the bytes of `w`. -/
def setTokens (x : Tile) (n w m : Nat) : Tile := (List.range m).foldl (fun (x : Tile) b => x.setToken (8 * n + b) (w / 256 ^ b % 256)) x

theorem setTokens_succ (x : Tile) (n w m : Nat) :
    setTokens x n w (m + 1) = (setTokens x n w m).setToken (8 * n + m) (w / 256 ^ m % 256) := by
  simp [setTokens, List.range_succ]

theorem setTokens_rest (x : Tile) (n w m : Nat) : setTokens x n w m = { x with tok := (setTokens x n w m).tok } := by
  induction m with
  | zero => rfl
  | succ m ih => rw [setTokens_succ, setToken_rest, ih]

theorem setTokens_token_outside (x : Tile) {n m k : Nat} (w : Nat) (h : k < 8 * n ∨ 8 * n + m ≤ k) :
    (setTokens x n w m).token k = x.token k := by
  induction m with
  | zero => rfl
  | succ m ih =>
    rw [setTokens_succ, token_setToken, ih (by omega)]
    by_cases hk : k = 0
    · simp [hk, Tile.token]
    · rw [if_neg hk, if_neg (by omega)]

theorem setTokens_token_inside (x : Tile) {n m b : Nat} (w : Nat) (hb : b < m) (h0 : 8 * n + b ≠ 0) :
    (setTokens x n w m).token (8 * n + b) = w / 256 ^ b % 256 := by
  induction m with
  | zero => omega
  | succ m ih =>
    rw [setTokens_succ, token_setToken, if_neg h0]
    by_cases hbm : b = m
    · rw [if_pos (by omega), hbm]
    · rw [if_neg (by omega), ih (by omega)]

theorem tokenWrite_of_running {s : State} {t : Nat} (h : s.tileRunning t = true) (n : Nat) (acc : Acc) (v : Nat) :
    s.tokenWrite t n acc v = s.setTile t { s.tile t with writeReject := true } := if_pos h

theorem tokenWrite_of_not_running {s : State} {t : Nat} (h : s.tileRunning t = false) (n : Nat) (acc : Acc) (v : Nat) :
    s.tokenWrite t n acc v = s.setTile t (setTokens (s.tile t) n (accMerge acc ((s.tile t).tokenReg n) v) 8) :=
  if_neg (by simp [h])

theorem exec_tokenWrite {t : TileId} {n : Fin 8} {s s' : State} {acc : Acc} {v : Word}
    (ho : HostOpen 0 .tileToken (tix t ++ [n.val]) acc v.toNat s) (hwrite : s.tokenWrite t n acc v.toNat = s') (hu : Unsent s') :
    exec (.tokenWrite t n acc v) s = .next s' := by
  subst hwrite
  exact hostReg_of_regWrite (idxOk_tix_token t n) ho (regWrite_tileToken s 0 t n acc v.toNat) hu

/-! ### The end of a drain, and the watchdog (R151, R169, R175, R177) -/

section
variable {t : TileId} {s : State}

/-- A tile that has drained after a halt or a fetch fault stops; only a halt raises TILE_HALT (R151, R169). -/
theorem exec_tileHalt (hdraining : (s.tile t).seq = .draining) (hclock : s.gated t = false) (hdrained : (s.tile t).drained = true)
    (hcause : (s.tile t).cause = .halt ∨ (s.tile t).cause = .fetchFault) :
    exec (.tileHalt t) s = .next (if (s.tile t).cause = .halt
      then (s.setTile t { s.tile t with seq := .stopped }).raise 0x0104 0 1 (s.logical t) (s.tile t).haltCode 0
      else s.setTile t { s.tile t with seq := .stopped }) :=
  if_pos (by simp [hdraining, hclock, hdrained, hcause])

theorem exec_tileStopComplete (hdraining : (s.tile t).seq = .draining) (hclock : s.gated t = false) (hdrained : (s.tile t).drained = true)
    (hcause : (s.tile t).cause = .stop) : exec (.tileStopComplete t) s = .next (s.setTile t { s.tile t with seq := .stopped }) :=
  if_pos (by simp [hdraining, hclock, hdrained, hcause])

theorem exec_tileStall (hruns : (s.tile t).seq ≠ .stopped) (hclock : s.gated t = false) (hlimit : s.rf .tileWatchdog (tix t) 0 32 ≠ 0) :
    exec (.tileStall t) s = .next ((s.setTile t { s.tile t with watchdog := true }).raise 0x0105 0 1 (s.logical t) 0 0) :=
  if_pos (by simp [hruns, hclock, hlimit])

end

/-! ### The obligation -/

/-- Settles O20: each clause is what its command's own lemmas say; what a host write leaves has nothing to send, so that the write ends there. -/
theorem tileControl : Obligations.TileControl := by
  intro t s
  refine ⟨?start, ?refused, startForbidden_iff s t, ?stop, ?stopped, ?startPc, ?token, ?drained, exec_tileStall⟩
  case start =>
    intro ho hrun hslice hpc
    obtain ⟨s', hstart, hret, hsat⟩ := startTile_retired hpc
    exact ⟨s', exec_tileStart ho ((tryStart_of_permitted hrun hslice).trans hstart) (unsent_of_tileOnly ho.sent hret.frame), hret, hsat⟩
  case refused =>
    intro ho h
    exact exec_tileStart ho (tryStart_of_refused h) (unsent_setTile ho.sent t _)
  case stop =>
    intro ho hrun
    have hframe := stopTile_frame hrun
    refine ⟨s.stopTile t, exec_tileStop ho rfl (by rw [hframe]; exact ho.sent), ?_⟩
    rw [stopTile_tile_same hrun]
    refine ⟨rfl, rfl, rfl, rfl, rfl, rfl, rfl, rfl, rfl, ?kept, ?issued, fun u hu => stopTile_tile_other hrun hu, ?bytes, ?ctl⟩
    case kept => exact fun f hf hlk => List.mem_filter.2 ⟨hf, outlivesStop_of_not_link hlk⟩
    case issued => exact fun f hf => (List.mem_filter.1 hf).1
    case bytes => intro k; rw [hframe]; rfl
    case ctl => rw [hframe]
  case stopped => exact fun ho hrun => exec_tileStop ho (stopTile_of_not_running hrun) ho.sent
  case startPc =>
    intro acc v ho
    exact ⟨fun hrun => exec_startPcWrite ho (startPcWrite_of_not_running hrun _ _) (unsent_setReg ho.sent _ _ _),
      fun hrun => exec_startPcWrite ho (startPcWrite_of_running hrun _ _) (unsent_setTile ho.sent _ _)⟩
  case token =>
    intro n acc v ho
    refine ⟨fun hrun => ?_, fun hrun => exec_tokenWrite ho (tokenWrite_of_running hrun _ _ _) (unsent_setTile ho.sent _ _)⟩
    refine ⟨_, exec_tokenWrite ho (tokenWrite_of_not_running hrun _ _ _) (unsent_setTile ho.sent _ _), ?_⟩
    rw [tile_setTile_same]
    exact ⟨fun b hb h0 => setTokens_token_inside _ _ hb h0, fun k hk => setTokens_token_outside _ _ (by omega),
      setTokens_rest _ _ _ _, rfl, fun u hu => tile_setTile_other s _ hu⟩
  case drained =>
    intro hdraining hclock hdrained
    refine ⟨fun hcause => ?_, fun hcause => ?_, exec_tileStopComplete hdraining hclock hdrained⟩
    · rw [exec_tileHalt hdraining hclock hdrained (.inl hcause), if_pos hcause]
    · rw [exec_tileHalt hdraining hclock hdrained (.inr hcause), if_neg (by simp [hcause])]

end Sys2Proof.Proofs
end

section
/-!
PROOFS. What a sequencer instruction leaves that goes on at the next word, and the integer arithmetic of the sequencer (R140, R141).
-/
namespace Sys2Proof.Proofs
open Sys2Proof Sys2Proof.Machine Sys2Proof.Laws

/-! ### An instruction that goes on at the next word -/

section
variable {s st : State} {t : Nat} {i : KInsn} {want ready : KBody → Bool} {f : KBody → KInsn → State → Except UB Done} {own : Tile} {w : Nat → Prop}

/-- The retirement of an instruction moves no byte of the module: what it writes, its own effect has written. -/
theorem retire_seq_byte {s1 s' : State} (hroom : ((s1.tile t).pc + 8) % 2 ^ 48 < 2 ^ 40) (h : s1.retire t i (.seq st) = .next s') {k : Nat}
    (hk : deviceKey k) : s'.byte k = st.byte k := by
  obtain ⟨s'', hs'', hret⟩ := retire_spec st s1 t i (.seq st) (fun _ => False) (st.tile t) rfl hroom (TileOnly.refl _ _ _ _ _) ⟨_, _, _, _, rfl⟩
  obtain rfl : s'' = s' := Host.Outcome.next.inj (hs''.symm.trans h)
  exact hret.frame.mem k hk not_false

/-- A going instruction whose own effect completes retires with it. -/
theorem sqRun_of_ok {d : Done} (h : SqGo t i s) (hwant : want i.body = true) (hready : ready i.body = true)
    (heffect : f i.body i (ran s t i s.free) = .ok d) : s.sqRun t want ready f = (ran s t i s.free).retire t i d := by
  have hd : f i.body i (s.setTile t (((s.tile t).takeToken i.wait.val).touch ((s.tile t).pc / 256))) = .ok d := heffect
  rw [sqRun_go s t i want ready f h hwant hready]
  dsimp only
  rw [hd]
  rfl

/-- A going instruction whose own effect is undefined stops the step. -/
theorem sqRun_of_error {u : UB} (h : SqGo t i s) (hwant : want i.body = true) (hready : ready i.body = true)
    (heffect : f i.body i (ran s t i s.free) = .error u) : s.sqRun t want ready f = .fault (.undefined u) := by
  have hu : f i.body i (s.setTile t (((s.tile t).takeToken i.wait.val).touch ((s.tile t).pc / 256))) = .error u := heffect
  rw [sqRun_go s t i want ready f h hwant hready]
  dsimp only
  rw [hu]

/-- An instruction whose own effect leaves `st`, with its tile's record `own` but for tokens and cached lines, retires with `own`, on the bytes of `st`. -/
theorem sqRun_seq (h : SqGo t i s) (hwant : want i.body = true) (hready : ready i.body = true)
    (heffect : f i.body i (ran s t i s.free) = .ok (.seq st)) (hst : TileOnly t w [] [] s st)
    (hown : st.tile t = { own with tok := (ranTile (s.tile t) i).tok, icache := (ranTile (s.tile t) i).icache }) :
    ∃ s', s.sqRun t want ready f = .next s' ∧ SqRetired t own (waited (s.tile t) i) i.signal.val ((s.tile t).pc + 8) w s s' ∧
      ∀ k, deviceKey k → s'.byte k = st.byte k := by
  have htoken : ∀ k, (st.tile t).token k = waited (s.tile t) i k := fun k => by
    rw [hown, ← ranTile_token]
    rfl
  obtain ⟨s', hrun, hret⟩ := sqRun_spec s t i want ready f h hwant hready (.seq st) heffect own (waited (s.tile t) i) w
    ((s.tile t).pc + 8) rfl rfl h.room hst ⟨_, _, _, _, hown⟩ htoken
  refine ⟨s', hrun, hret, fun k hk => retire_seq_byte ?_ ((sqRun_of_ok h hwant hready heffect).symm.trans hrun) hk⟩
  rw [ran_tile, ranTile_rest]
  exact (Nat.mod_le _ _).trans_lt h.room

/-- An instruction whose own effect sets its tile's record, after some reads, retires with that record. -/
theorem sqRun_setTile {n : Nat} {x : Tile} (h : SqGo t i s) (hwant : want i.body = true) (hready : ready i.body = true)
    (heffect : f i.body i (ran s t i s.free) = .ok (.seq ((ran s t i n).setTile t x)))
    (hown : x = { own with tok := (ranTile (s.tile t) i).tok, icache := (ranTile (s.tile t) i).icache }) :
    ∃ s', s.sqRun t want ready f = .next s' ∧
      SqRetired t own (waited (s.tile t) i) i.signal.val ((s.tile t).pc + 8) (fun _ => False) s s' := by
  obtain ⟨s', hrun, hret, -⟩ := sqRun_seq h hwant hready heffect ((ran_only s t i n _).trans (TileOnly.setTile _ _ _ _ _ x))
    ((tile_setTile_same _ _ _).trans hown)
  exact ⟨s', hrun, hret⟩

/-- An instruction whose own effect writes an s-register, after some reads, retires with that register written. -/
theorem sqRun_writeS {n r : Nat} {v : Word} (h : SqGo t i s) (hwant : want i.body = true) (hready : ready i.body = true)
    (heffect : f i.body i (ran s t i s.free) = .ok (.seq ((ran s t i n).writeS t r v))) :
    ∃ s', s.sqRun t want ready f = .next s' ∧
      SqRetired t ((s.writeS t r v).tile t) (waited (s.tile t) i) i.signal.val ((s.tile t).pc + 8) (fun _ => False) s s' := by
  have hown := writeS_ran s t i n r v
  rw [State.writeS, tile_setTile_same] at hown
  exact sqRun_setTile h hwant hready heffect hown

end

/-! ### The table of R140 -/

theorem eq_ofNat_of_toNat_eq {a : Word} {x : Nat} (h : a.toNat = x) : a = BitVec.ofNat 64 x := by
  rw [← h, BitVec.ofNat_toNat, BitVec.setWidth_eq]

theorem eq_ofInt_of_toInt_eq {a : Word} {x : Int} (h : a.toInt = x) : a = BitVec.ofInt 64 x := by
  rw [← h, BitVec.ofInt_toInt]

theorem shiftLeft_eq_ofNat (a : Word) (n : Nat) : a <<< n = BitVec.ofNat 64 (a.toNat * 2 ^ n) := by
  apply BitVec.eq_of_toNat_eq
  rw [BitVec.toNat_shiftLeft, BitVec.toNat_ofNat, Nat.shiftLeft_eq]

theorem ushiftRight_eq_ofNat (a : Word) (n : Nat) : a >>> n = BitVec.ofNat 64 (a.toNat / 2 ^ n) :=
  eq_ofNat_of_toNat_eq (by rw [BitVec.toNat_ushiftRight, Nat.shiftRight_eq_div_pow])

theorem sshiftRight_eq_ofInt (a : Word) (n : Nat) : a.sshiftRight n = BitVec.ofInt 64 (a.toInt / 2 ^ n) :=
  eq_ofInt_of_toInt_eq (by rw [BitVec.toInt_sshiftRight, Int.shiftRight_eq_div_pow]; rfl)

theorem add_eq_ofNat (a b : Word) : a + b = BitVec.ofNat 64 (a.toNat + b.toNat) :=
  BitVec.eq_of_toNat_eq (by rw [BitVec.toNat_add, BitVec.toNat_ofNat])

theorem mul_eq_ofNat (a b : Word) : a * b = BitVec.ofNat 64 (a.toNat * b.toNat) :=
  BitVec.eq_of_toNat_eq (by rw [BitVec.toNat_mul, BitVec.toNat_ofNat])

theorem sub_eq_ofInt (a b : Word) : a - b = BitVec.ofInt 64 (a.toInt - b.toInt) :=
  BitVec.eq_of_toInt_eq (by rw [BitVec.toInt_sub, BitVec.toInt_ofInt])

theorem ite_slt_eq_min (a b : Word) : (if b.slt a then b else a) = BitVec.ofInt 64 (min a.toInt b.toInt) := by
  apply eq_ofInt_of_toInt_eq
  rw [min_comm, min_def_lt, apply_ite BitVec.toInt]
  simp only [BitVec.slt_eq_decide, decide_eq_true_eq]

theorem ite_slt_eq_max (a b : Word) : (if a.slt b then b else a) = BitVec.ofInt 64 (max a.toInt b.toInt) := by
  apply eq_ofInt_of_toInt_eq
  rw [max_def_lt, apply_ite BitVec.toInt]
  simp only [BitVec.slt_eq_decide, decide_eq_true_eq]

theorem ite_lt_eq_min (a b : Word) : (if b < a then b else a) = BitVec.ofNat 64 (min a.toNat b.toNat) := by
  apply eq_ofNat_of_toNat_eq
  rw [min_comm, min_def_lt, apply_ite BitVec.toNat]
  rfl

theorem ite_lt_eq_max (a b : Word) : (if a < b then b else a) = BitVec.ofNat 64 (max a.toNat b.toNat) := by
  apply eq_ofNat_of_toNat_eq
  rw [max_def_lt, apply_ite BitVec.toNat]
  rfl

theorem countP_lt_range (m n : Nat) : (List.range n).countP (fun k => k < m) = min n m := by
  induction n with
  | zero => simp
  | succ n ih => rw [List.range_succ, List.countP_append, ih, List.countP_singleton]; grind

/-- Bit 63 - k and those above it are 0 for as many `k` as there are leading zeros. -/
theorem clz64_eq_countP {a : Nat} (ha : a < 2 ^ 64) : clz64 a = (List.range 64).countP (fun k => a < 2 ^ (63 - k)) := by
  unfold clz64
  split
  next h0 => subst h0; decide
  next h0 =>
    have hlog : a.log2 < 64 := (Nat.log2_lt h0).2 ha
    have hbit : ∀ k ∈ List.range 64, decide (a < 2 ^ (63 - k)) = true ↔ decide (k < 63 - a.log2) = true := by
      intro k hk
      simp only [decide_eq_true_eq, ← Nat.log2_lt h0]
      omega
    rw [List.countP_congr hbit, countP_lt_range]
    omega

theorem length_filter_testBit (a : Nat) (l : List Nat) : (l.filter (fun k => a.testBit k)).length = (l.map (fun k => a / 2 ^ k % 2)).sum := by
  induction l with
  | nil => rfl
  | cons k l ih =>
    rw [List.filter_cons, Nat.testBit_eq_decide_div_mod_eq, List.map_cons, List.sum_cons, ← ih]
    rcases Nat.mod_two_eq_zero_or_one (a / 2 ^ k) with h | h
    · simp [h]
    · simp [h, Nat.add_comm]

/-- The model's operations give the results of R140's table. -/
theorem aluEval_eq_aluTable (op : AluOp) (a b : Word) (p : Bool) : aluEval op a b p = aluTable op a b p := by
  have hzero : b = 0 ↔ b.toNat = 0 := BitVec.toNat_eq
  cases op with
  | add => exact add_eq_ofNat a b
  | sub => exact sub_eq_ofInt a b
  | shl => exact shiftLeft_eq_ofNat a _
  | shr => exact ushiftRight_eq_ofNat a _
  | sra => exact sshiftRight_eq_ofInt a _
  | mul => exact mul_eq_ofNat a b
  | min => exact ite_slt_eq_min a b
  | max => exact ite_slt_eq_max a b
  | minu => exact ite_lt_eq_min a b
  | maxu => exact ite_lt_eq_max a b
  | clz => exact congrArg (BitVec.ofNat 64) (clz64_eq_countP a.isLt)
  | popc => exact congrArg (BitVec.ofNat 64) (length_filter_testBit a.toNat _)
  | shori => exact congrArg (· ||| b) (shiftLeft_eq_ofNat a 28)
  | divu => simp only [aluEval, aluTable, hzero]; rfl
  | remu => simp only [aluEval, aluTable, hzero]
  | and | or | xor | mulhu | mulhs | sel | li => rfl

/-- R141: the immediate is sign-extended, that of shori zero-extended. -/
theorem aluImm_eq_immTable (op : AluOp) (imm : BitVec 28) : aluImm op imm = immTable op imm := by
  unfold aluImm immTable
  split
  · exact (BitVec.ofNat_toNat 64 imm).symm
  · rfl

/-! ### The obligation -/

theorem exec_aluCmd (t : TileId) (op : AluOp) (s : State) : exec (aluCmd t op) s = s.sqAlu t op := by
  cases op <;> rfl

section
variable {t : TileId} {s : State} {i : KInsn} {op : AluOp} {d a b : Fin 32}

theorem exec_alu {c : Fin 8} (h : SqGo t i s) (hbody : i.body = .alu op d a b c) : ∃ s', exec (aluCmd t op) s = .next s' ∧
    SqRetired t ((s.writeS t d.val (aluTable op (s.readS t a.val).1 ((s.readS t a.val).2.readS t b.val).1 ((s.tile t).preg c.val))).tile t)
      (waited (s.tile t) i) i.signal.val ((s.tile t).pc + 8) (fun _ => False) s s' := by
  rw [exec_aluCmd, State.sqAlu]
  refine sqRun_writeS (n := ((s.readS t a.val).2.readS t b.val).2.free) h (by simp [hbody]) rfl ?_
  rw [hbody]
  dsimp only
  rw [readS_ran, readS_ran2, aluEval_eq_aluTable, ran_tile, ranTile_rest]
  rfl

theorem exec_aluI {imm : BitVec 28} (h : SqGo t i s) (hbody : i.body = .aluI op d a imm) : ∃ s', exec (aluCmd t op) s = .next s' ∧
    SqRetired t ((s.writeS t d.val (aluTable op (s.readS t a.val).1 (immTable op imm) false)).tile t)
      (waited (s.tile t) i) i.signal.val ((s.tile t).pc + 8) (fun _ => False) s s' := by
  rw [exec_aluCmd, State.sqAlu]
  refine sqRun_writeS (n := (s.readS t a.val).2.free) h (by simp [hbody]) rfl ?_
  rw [hbody]
  dsimp only
  rw [readS_ran, aluEval_eq_aluTable, aluImm_eq_immTable]

end

/-- Settles O3: each form's own effect writes DST with what `aluEval` gives, which is the table's result; retiring does the rest. -/
theorem sequencerArithmetic : Obligations.SequencerArithmetic := fun _ _ _ h =>
  ⟨fun _ _ _ _ _ hbody => exec_alu h hbody, fun _ _ _ _ hbody => exec_aluI h hbody⟩

end Sys2Proof.Proofs
end

section
/-!
PROOFS. Scalar memory of the sequencer (R68, R153, R154): the address, what a load sees and what a store leaves beside an unordered write in flight; the statement
over tile tables in canonical form, and why it fails over any other.
-/
namespace Sys2Proof.Proofs
open Sys2Proof Sys2Proof.Machine Sys2Proof.Laws

/-! ### The address and the unit of a scalar access (R68, R153, R154) -/

/-- The address of a scalar access in plain arithmetic (R153). -/
def memAddr (x : Tile) (a : Fin 16) (imm : BitVec 28) : Nat := (((x.areg a.val).toNat + imm.toInt) % 2 ^ 48).toNat

theorem scalarAddr_eq_memAddr (x : Tile) (a : Fin 16) (imm : BitVec 28) : scalarAddr x a imm = memAddr x a imm := by
  have h : (x.areg a.val) + imm.signExtend 48 = BitVec.ofInt 48 ((x.areg a.val).toNat + imm.toInt) := by
    rw [BitVec.ofInt_add, BitVec.ofInt_natCast, BitVec.ofNat_toNat, BitVec.setWidth_eq]
    rfl
  rw [scalarAddr, h, BitVec.toNat_ofInt]
  rfl

/-- A width of R153 in bytes: a power of two of at most 8. -/
abbrev ScalarWidth (n : Nat) : Prop := n = 1 ∨ n = 2 ∨ n = 4 ∨ n = 8

theorem scalarWidth_memWidth (op : MemOp) : ScalarWidth (memWidth op).1 := by
  cases op <;> decide

theorem scalarOk_iff (t da n : Nat) : scalarOk t da n = true ↔ da % n = 0 ∧ inTileStore t da n = true := by
  simp [scalarOk]

theorem scalarOk_eq_false_iff (t da n : Nat) : scalarOk t da n = false ↔ da % n ≠ 0 ∨ inTileStore t da n = false := by
  rw [← Bool.not_eq_true, scalarOk_iff, not_and_or, Bool.not_eq_true]

/-- A permitted scalar access lies in one unit of 16 bytes of the tile's store. -/
structure InUnit (da n : Nat) : Prop where
  low : 2 ^ 40 ≤ da
  high : da < 2 ^ 48
  pos : 0 < n
  within : da % 16 + n ≤ 16

theorem inUnit_of_scalarOk {t : TileId} {da n : Nat} (hn : ScalarWidth n) (h : scalarOk t da n = true) : InUnit da n := by
  obtain ⟨halign, hin⟩ := (scalarOk_iff _ _ _).1 h
  simp only [inTileStore, Bool.and_eq_true, decide_eq_true_eq] at hin
  simp only [tileBase] at hin
  have ht := t.isLt
  rcases hn with rfl | rfl | rfl | rfl <;> exact ⟨by omega, by omega, by omega, by omega⟩

section
variable {da n : Nat} (h : InUnit da n)
include h

theorem InUnit.unitOf_add {j : Nat} (hj : j < n) : unitOf (da + j) = da / 16 * 16 := by
  obtain ⟨hlow, hhigh, -, hwithin⟩ := h
  have hwide : ¬(da + j < 2 ^ 40 ∨ 2 ^ 64 ≤ da + j) := by omega
  simp only [unitOf, Bool.or_eq_true, decide_eq_true_eq, if_neg hwide]
  omega

theorem InUnit.unitLen_unit : unitLen (da / 16 * 16) = 16 := by
  obtain ⟨hlow, hhigh, -, -⟩ := h
  have hwide : ¬(da / 16 * 16 < 2 ^ 40 ∨ 2 ^ 64 ≤ da / 16 * 16) := by omega
  simp only [unitLen, Bool.or_eq_true, decide_eq_true_eq, if_neg hwide]

theorem InUnit.units : ((scalarAddrs da n).map unitOf).eraseDups = [da / 16 * 16] := by
  have hall : (scalarAddrs da n).map unitOf = List.replicate n (da / 16 * 16) := by
    refine List.eq_replicate_iff.2 ⟨by simp [scalarAddrs], fun u hu => ?_⟩
    simp only [scalarAddrs, List.map_map, List.mem_map, List.mem_range, Function.comp] at hu
    obtain ⟨j, hj, rfl⟩ := hu
    exact h.unitOf_add hj
  obtain ⟨m, rfl⟩ := Nat.exists_eq_succ_of_ne_zero h.pos.ne'
  rw [hall, List.replicate_succ, List.eraseDups_cons, List.filter_eq_nil_iff.2 (by simp), List.eraseDups_nil]

/-- An access of one unit meets that unit or none. -/
theorem InUnit.racedUnits_eq (ks : List Stake) :
    racedUnits ks (scalarAddrs da n) = ((oldUnit ks (da / 16 * 16)).map (fun b => (da / 16 * 16, b))).toList := by
  unfold racedUnits
  split
  next hempty =>
    have hnone : ks.flatMap Stake.lines = [] := List.flatMap_eq_nil_iff.2 (fun k hk => List.isEmpty_iff.1 (List.all_eq_true.1 hempty k hk))
    rw [oldUnit, hnone]
    rfl
  next =>
    rw [h.units, List.filterMap_cons, List.filterMap_nil]
    cases oldUnit ks (da / 16 * 16) <;> rfl

theorem InUnit.racedUnits_cases (ks : List Stake) :
    racedUnits ks (scalarAddrs da n) = [] ∨ ∃ b, racedUnits ks (scalarAddrs da n) = [(da / 16 * 16, b)] := by
  rw [h.racedUnits_eq]
  cases oldUnit ks (da / 16 * 16) with
  | none => exact .inl rfl
  | some b => exact .inr ⟨b, rfl⟩

end

theorem contains_scalarAddrs (da n k : Nat) : (scalarAddrs da n).contains k = true ↔ da ≤ k ∧ k < da + n := by
  simp only [scalarAddrs, List.contains_iff_mem, List.mem_map, List.mem_range]
  constructor
  · rintro ⟨j, hj, rfl⟩
    omega
  · rintro ⟨hlow, hhigh⟩
    exact ⟨k - da, by omega, by omega⟩

/-! ### Bytes that were written -/

theorem setBytes_free (s : State) (m k : Nat) (l : List Nat) : ({ s with free := m } : State).setBytes k l = { s.setBytes k l with free := m } := by
  induction l generalizing s k with
  | nil => rfl
  | cons b l ih => exact ih (s.setByte k b) (k + 1)

theorem byte_setBytes_congr {s s' : State} (h : ∀ k, s'.byte k = s.byte k) (u : Nat) (l : List Nat) (k : Nat) :
    (s'.setBytes u l).byte k = (s.setBytes u l).byte k := by
  induction l generalizing s s' u with
  | nil => exact h k
  | cons b l ih => exact ih (fun j => by simp only [byte_setByte, h]) (u + 1)

theorem byte_setBytes_map (s : State) (u : Nat) (f : Nat → Nat) {m j : Nat} (h : j < m) :
    (s.setBytes u ((List.range m).map f)).byte (u + j) = f j % 256 := by
  have hj : j < ((List.range m).map f).length := by simpa using h
  rw [byte_setBytes_at _ _ _ hj]
  simp

theorem byte_lt (s : State) (k : Nat) : s.byte k < 256 := (tblGet memDefault s.mem k).isLt

theorem leBytes_getElem {n j : Nat} (v : Nat) (h : j < (leBytes n v).length) : (leBytes n v)[j] = v / 256 ^ j % 256 := by
  induction n generalizing v j with
  | zero => exact absurd h (Nat.not_lt_zero j)
  | succ n ih =>
    cases j with
    | zero => simp [leBytes]
    | succ j =>
      simp only [leBytes, List.getElem_cons_succ]
      rw [ih, Nat.div_div_eq_div_mul, Nat.pow_succ']

theorem byte_setLe_inside (s : State) {da n k : Nat} (v : Nat) (h : da ≤ k ∧ k < da + n) : (s.setLe da n v).byte k = v / 256 ^ (k - da) % 256 := by
  obtain ⟨j, rfl⟩ := Nat.exists_eq_add_of_le h.1
  have hj : j < (leBytes n v).length := by rw [leBytes_length]; omega
  rw [State.setLe, byte_setBytes_at _ _ _ hj, leBytes_getElem, Nat.mod_mod, Nat.add_sub_cancel_left]

theorem mod_pow_div_pow_mod {n j : Nat} (v : Nat) (h : j < n) : v % 256 ^ n / 256 ^ j % 256 = v / 256 ^ j % 256 := by
  obtain ⟨m, rfl⟩ := Nat.exists_eq_add_of_lt h
  rw [show 256 ^ (j + m + 1) = 256 ^ j * (256 * 256 ^ m) by rw [Nat.pow_succ, Nat.pow_add]; ring, Nat.mod_mul_right_div_self,
    Nat.mod_mul_right_mod]

/-! ### What a load sees (R68) -/

section
variable {s : State} {t da n : Nat}

theorem scalarLoad_of_alone (h : racedUnits (s.stakesBut (.sq t)) (scalarAddrs da n) = []) : s.scalarLoad t da n = (s.le da n, s) := by
  rw [State.scalarLoad, State.seen, h]
  rfl

theorem scalarLoad_of_raced {u : Nat} {b : List Nat} (h : racedUnits (s.stakesBut (.sq t)) (scalarAddrs da n) = [(u, b)]) :
    s.scalarLoad t da n = (if Config.freeBool s.free then (s.setBytes u b).le da n else s.le da n, { s with free := s.free + 1 }) := by
  rw [State.scalarLoad, State.seen, h]
  simp only [List.foldl_cons, List.foldl_nil, State.takeBool, setBytes_free]
  cases Config.freeBool s.free <;> rfl

end

/-! ### What a store leaves (R68) -/

/-- What a scalar store leaves, where it is not undefined. -/
def stored (s : State) (t da n v : Nat) : State := s.raceWrite (s.setLe da n v) (.sq t) (scalarAddrs da n)

theorem scalarStore_of_no_breach {s : State} {da n : Nat} (h : s.storeBreach (scalarAddrs da n) = none) (t v : Nat) :
    s.scalarStore t da n v = .ok (.seq (stored s t da n v)) := by
  rw [State.scalarStore, h]
  rfl

theorem scalarStore_of_breach {s : State} {da n : Nat} {u : UB} (h : s.storeBreach (scalarAddrs da n) = some u) (t v : Nat) :
    s.scalarStore t da n v = .error u := by
  rw [State.scalarStore, h]

/-- The whole unit that a store leaves where it comes after the other write: its own bytes over what the unit held before either. -/
def storedUnit (s : State) (da n v u : Nat) (b : List Nat) : List Nat :=
  (List.range (unitLen u)).map (fun i => if (scalarAddrs da n).contains (u + i) then (s.setLe da n v).byte (u + i) else b.getD i 0)

section
variable {s : State} {t da n v : Nat}

theorem stored_of_alone (h : racedUnits (s.stakesBut (.sq t)) (scalarAddrs da n) = []) : stored s t da n v = s.setLe da n v := by
  simp only [stored, State.raceWrite, Bool.false_and, Bool.not_false, List.filter_true, h, List.foldl_nil]

theorem stored_of_raced {u : Nat} {b : List Nat} (h : racedUnits (s.stakesBut (.sq t)) (scalarAddrs da n) = [(u, b)]) :
    stored s t da n v = ({ s.setLe da n v with free := s.free + 1 } : State).setBytes u
      (if Config.freeBool s.free then storedUnit s da n v u b else s.bytes u (unitLen u)) := by
  simp only [stored, State.raceWrite, Bool.false_and, Bool.not_false, List.filter_true, h, List.foldl_cons, List.foldl_nil, State.takeBool, setLe_free]
  split <;> rfl

theorem setLe_only (s : State) (t : Nat) {w : Nat → Prop} {da n : Nat} (v : Nat) (h : ∀ k, da ≤ k → k < da + n → w k) :
    TileOnly t w [] [] s (s.setLe da n v) :=
  TileOnly.setBytes s t w [] [] da (leBytes n v) (fun i hi => h _ (by omega) (by rw [leBytes_length] at hi; omega))

/-- A store moves bytes of its own unit at most. -/
theorem stored_only (h : InUnit da n) (s : State) (t v : Nat) : TileOnly t (fun k => k / 16 = da / 16) [] [] s (stored s t da n v) := by
  have hset : TileOnly t (fun k => k / 16 = da / 16) [] [] s (s.setLe da n v) :=
    setLe_only s t v (fun k hlow hhigh => by have := h.within; omega)
  rcases h.racedUnits_cases (s.stakesBut (.sq t)) with halone | ⟨b, hraced⟩
  · rw [stored_of_alone halone]
    exact hset
  · rw [stored_of_raced hraced]
    refine (hset.trans (TileOnly.free _ _ _ _ _ _)).trans (TileOnly.setBytes _ _ _ _ _ _ _ (fun j hj => ?_))
    have hlen : j < 16 := by
      split at hj
      · simpa [storedUnit, h.unitLen_unit] using hj
      · simpa [State.bytes, h.unitLen_unit] using hj
    omega

theorem stored_tile (h : InUnit da n) (s : State) (t v u : Nat) : (stored s t da n v).tile u = s.tile u := by
  rcases h.racedUnits_cases (s.stakesBut (.sq t)) with halone | ⟨b, hraced⟩
  · rw [stored_of_alone halone, setLe_tile]
  · rw [stored_of_raced hraced, setBytes_tile]
    exact setLe_tile s da n v u

/-- R68: beside an unordered write in flight a store leaves one whole unit, what stood there or its own bytes over what the unit held before. -/
theorem stored_byte_of_raced (h : InUnit da n) {b : List Nat}
    (hraced : racedUnits (s.stakesBut (.sq t)) (scalarAddrs da n) = [(da / 16 * 16, b)]) :
    (∀ j < 16, (stored s t da n v).byte (da / 16 * 16 + j) = s.byte (da / 16 * 16 + j)) ∨
      ∀ j < 16, (stored s t da n v).byte (da / 16 * 16 + j) =
        if da ≤ da / 16 * 16 + j ∧ da / 16 * 16 + j < da + n then v % 256 ^ n / 256 ^ (da / 16 * 16 + j - da) % 256 else b.getD j 0 % 256 := by
  rw [stored_of_raced hraced]
  split
  next =>
    refine .inr (fun j hj => ?_)
    rw [storedUnit, h.unitLen_unit, byte_setBytes_map _ _ _ hj]
    simp only [contains_scalarAddrs]
    split
    next hown => rw [byte_setLe_inside s v hown, Nat.mod_mod, mod_pow_div_pow_mod v (by omega)]
    next => rfl
  next =>
    refine .inl (fun j hj => ?_)
    rw [State.bytes, h.unitLen_unit, byte_setBytes_map _ _ _ hj, Nat.mod_eq_of_lt (byte_lt s _)]

end

/-! ### The instruction -/

section
variable {t : TileId} {s : State} {i : KInsn} {op : MemOp} {d : Fin 32} {a : Fin 16} {imm : BitVec 28}

theorem scalarAddr_ran (s : State) (t : Nat) (i : KInsn) (n : Nat) (a : Fin 16) (imm : BitVec 28) :
    scalarAddr ((ran s t i n).tile t) a imm = memAddr (s.tile t) a imm := by
  rw [scalarAddr_eq_memAddr, ran_tile, ranTile_rest]
  rfl

theorem exec_memCmd (t : TileId) (op : MemOp) (s : State) : ∃ want : MemOp → Bool, want op = true ∧ exec (memCmd t op) s = s.sqMem t want := by
  cases op <;> exact ⟨_, rfl, rfl⟩

/-- R154: an access that is not aligned, or lies outside the tile's own store, is undefined. -/
theorem exec_mem_misplaced (h : SqGo t i s) (hbody : i.body = .mem op d a imm)
    (hplace : scalarOk t (memAddr (s.tile t) a imm) (memWidth op).1 = false) : exec (memCmd t op) s = .fault (.undefined (.ub 17)) := by
  obtain ⟨want, hwant, hexec⟩ := exec_memCmd t op s
  rw [hexec, State.sqMem]
  refine sqRun_of_error h (by rw [hbody]; exact hwant) rfl ?_
  rw [hbody]
  dsimp only
  rw [scalarAddr_ran, if_pos hplace]

section
variable (h : SqGo t i s) (hbody : i.body = .mem op d a imm) (hplace : scalarOk t (memAddr (s.tile t) a imm) (memWidth op).1 = true)
include h hbody hplace

theorem exec_store_undefined {u : UB} (hstore : memStores op = true)
    (hbreach : (ran s t i (s.readS t d.val).2.free).storeBreach (scalarAddrs (memAddr (s.tile t) a imm) (memWidth op).1) = some u) :
    exec (memCmd t op) s = .fault (.undefined u) := by
  obtain ⟨want, hwant, hexec⟩ := exec_memCmd t op s
  rw [hexec, State.sqMem]
  refine sqRun_of_error h (by rw [hbody]; exact hwant) rfl ?_
  rw [hbody]
  dsimp only
  rw [scalarAddr_ran, if_neg (by simp [hplace]), if_pos hstore, readS_ran]
  exact scalarStore_of_breach hbreach _ _

theorem exec_store (hstore : memStores op = true)
    (hbreach : (ran s t i (s.readS t d.val).2.free).storeBreach (scalarAddrs (memAddr (s.tile t) a imm) (memWidth op).1) = none) :
    ∃ s', exec (memCmd t op) s = .next s' ∧
      SqRetired t (s.tile t) (waited (s.tile t) i) i.signal.val ((s.tile t).pc + 8) (fun k => k / 16 = memAddr (s.tile t) a imm / 16) s s' ∧
      ∀ k, deviceKey k → s'.byte k =
        (stored (ran s t i (s.readS t d.val).2.free) t (memAddr (s.tile t) a imm) (memWidth op).1 (s.readS t d.val).1.toNat).byte k := by
  obtain ⟨want, hwant, hexec⟩ := exec_memCmd t op s
  have hunit := inUnit_of_scalarOk (scalarWidth_memWidth op) hplace
  rw [hexec, State.sqMem]
  refine sqRun_seq h (by rw [hbody]; exact hwant) rfl ?effect ((ran_only s t i _ _).trans (stored_only hunit _ _ _)) ?own
  case effect =>
    rw [hbody]
    dsimp only
    rw [scalarAddr_ran, if_neg (by simp [hplace]), if_pos hstore, readS_ran]
    exact scalarStore_of_no_breach hbreach _ _
  case own =>
    rw [stored_tile hunit, ran_tile]
    exact ranTile_rest _ _

theorem exec_load {v m : Nat} (hload : memStores op = false) (hlda : op ≠ .lda)
    (hread : (ran s t i s.free).scalarLoad t (memAddr (s.tile t) a imm) (memWidth op).1 = (v, ran s t i m)) :
    ∃ s', exec (memCmd t op) s = .next s' ∧
      SqRetired t ((s.writeS t d.val (loadValue op v)).tile t) (waited (s.tile t) i) i.signal.val ((s.tile t).pc + 8) (fun _ => False) s s' := by
  obtain ⟨want, hwant, hexec⟩ := exec_memCmd t op s
  rw [hexec, State.sqMem]
  refine sqRun_writeS (n := m) h (by rw [hbody]; exact hwant) rfl ?_
  rw [hbody]
  dsimp only
  rw [scalarAddr_ran, if_neg (by simp [hplace]), if_neg (by simp [hload]), hread, if_neg hlda]

theorem exec_lda {v m : Nat} (hlda : op = .lda)
    (hread : (ran s t i s.free).scalarLoad t (memAddr (s.tile t) a imm) (memWidth op).1 = (v, ran s t i m)) :
    ∃ s', exec (memCmd t op) s = .next s' ∧
      SqRetired t ((s.tile t).setAreg d.val v) (waited (s.tile t) i) i.signal.val ((s.tile t).pc + 8) (fun _ => False) s s' := by
  obtain ⟨want, hwant, hexec⟩ := exec_memCmd t op s
  rw [hexec, State.sqMem]
  refine sqRun_setTile (n := m) (x := ((ran s t i m).tile t).setAreg d.val v) h (by rw [hbody]; exact hwant) rfl ?effect ?own
  case effect =>
    rw [hbody]
    dsimp only
    rw [scalarAddr_ran, if_neg (by simp [hplace]), if_neg (by simp [hlda, memStores]), hread, if_pos hlda]
  case own =>
    rw [ran_tile, ranTile_rest]
    rfl

end
end

/-! ### Tile tables in canonical form: the wait and the cache leave what is at stake alone -/

section
variable {α β : Type}

theorem exists_mem_of_tblGet_ne {d : Nat → α} {l : Tbl α} {k : Nat} (h : tblGet d l k ≠ d k) : ∃ e ∈ l, e.1 = k := by
  induction l with
  | nil => exact absurd rfl h
  | cons e l ih =>
    by_cases he : e.1 = k
    · exact ⟨e, List.mem_cons_self, he⟩
    · obtain ⟨e', he', hk⟩ := ih (by rwa [tblGet, if_neg he] at h)
      exact ⟨e', List.mem_cons_of_mem _ he', hk⟩

theorem tblErase_of_forall_ne {l : Tbl α} {k : Nat} (h : ∀ e ∈ l, e.1 ≠ k) : tblErase l k = l := by
  induction l with
  | nil => rfl
  | cons e l ih => rw [tblErase, if_neg (h e List.mem_cons_self), ih (fun x hx => h x (List.mem_cons_of_mem _ hx))]

theorem tblInsert_of_forall_lt {l : Tbl α} {k : Nat} (v : α) (h : ∀ e ∈ l, k < e.1) : tblInsert l k v = (k, v) :: l := by
  cases l with
  | nil => rfl
  | cons e l => rw [tblInsert, if_pos (h e List.mem_cons_self)]

/-- A list made of a table's entries in their order stays as it is when a listed entry is set to one that gives the same. -/
theorem flatMap_tblInsert_tblErase {g : Nat × α → List β} {d : Nat → α} {l : Tbl α} {k : Nat} {v : α} (hsorted : l.Pairwise (fun a b => a.1 < b.1))
    (hlisted : tblGet d l k ≠ d k) (hsame : g (k, v) = g (k, tblGet d l k)) : (tblInsert (tblErase l k) k v).flatMap g = l.flatMap g := by
  induction l with
  | nil => exact absurd rfl hlisted
  | cons e l ih =>
    obtain ⟨j, w⟩ := e
    obtain ⟨hlater, hrest⟩ := List.pairwise_cons.1 hsorted
    by_cases hj : j = k
    · subst hj
      rw [tblErase, if_pos rfl, tblErase_of_forall_ne (fun x hx => (hlater x hx).ne'), tblInsert_of_forall_lt v hlater, List.flatMap_cons,
        List.flatMap_cons, hsame, tblGet, if_pos rfl]
    · rw [tblGet, if_neg hj] at hlisted hsame
      obtain ⟨x, hx, rfl⟩ := exists_mem_of_tblGet_ne hlisted
      have hlt : ¬x.1 < j := (hlater x hx).asymm
      rw [tblErase, if_neg hj, tblInsert, if_neg hlt, List.flatMap_cons, List.flatMap_cons, ih hrest hlisted hsame]

end

/-- The tile table is in the canonical form of tables: tiles in rising order, none that reads as after reset. -/
def TilesWf (s : State) : Prop := tblWf (fun _ => Tile.reset) s.tiles

theorem tilesWf_reset : TilesWf State.reset := tblWf_nil (fun _ => Tile.reset)

theorem tilesWf_setTile {s : State} (h : TilesWf s) (t : Nat) (x : Tile) : TilesWf (s.setTile t x) := tblWf_set (fun _ => Tile.reset) t x h

theorem running_of_fetch {s : State} {t : Nat} {i : KInsn} (h : s.fetch t = .insn i) : (s.tile t).seq = .running := by
  by_contra hseq
  rw [State.fetch, if_pos (.inl hseq)] at h
  cases h

section
variable {s : State} {t : Nat} {i : KInsn}

theorem flatMap_tiles_ran {β : Type} {g : Nat × Tile → List β} (hwf : TilesWf s) (h : SqGo t i s) (n : Nat)
    (hg : ∀ x y : Tile, x.flights = y.flights → g (t, x) = g (t, y)) : (ran s t i n).tiles.flatMap g = s.tiles.flatMap g := by
  have hrun := running_of_fetch h.fetch
  have hlisted : s.tile t ≠ Tile.reset := fun e => by rw [e] at hrun; cases hrun
  have hran : ranTile (s.tile t) i ≠ Tile.reset := fun e => by
    have hseq : (ranTile (s.tile t) i).seq = (s.tile t).seq := by rw [ranTile_rest]
    rw [e, hrun] at hseq
    cases hseq
  change (tblSet (fun _ => Tile.reset) s.tiles t (ranTile (s.tile t) i)).flatMap g = _
  rw [tblSet, if_neg hran]
  exact flatMap_tblInsert_tblErase (d := fun _ => Tile.reset) hwf.1 hlisted (hg _ _ (by rw [ranTile_rest]; rfl))

theorem stakesBut_ran (hwf : TilesWf s) (h : SqGo t i s) (n : Nat) (w : Actor) : (ran s t i n).stakesBut w = s.stakesBut w := by
  rw [State.stakesBut, flatMap_tiles_ran hwf h n (fun x y hxy => by simp only [hxy])]
  rfl

theorem stakes_ran (hwf : TilesWf s) (h : SqGo t i s) (n : Nat) : (ran s t i n).stakes = s.stakes := by
  rw [State.stakes, flatMap_tiles_ran hwf h n (fun x y hxy => by simp only [hxy])]
  rfl

theorem ran_group (s : State) (t : Nat) (i : KInsn) (n u g : Nat) : ((ran s t i n).tile u).group g = (s.tile u).group g := by
  by_cases hu : u = t
  · rw [hu, ran_tile, ranTile_rest]
    rfl
  · exact congrArg (Tile.group · g) (tile_setTile_other s _ hu)

theorem storeBreach_ran (hwf : TilesWf s) (h : SqGo t i s) (n : Nat) (as : List Nat) : (ran s t i n).storeBreach as = s.storeBreach as := by
  have hspill : (ran s t i n).inSpill = s.inSpill := funext fun a => by simp only [State.inSpill, ran_group]
  simp only [State.storeBreach, State.slotBreach, State.accBusy, State.recBusy, ran_group, hspill, stakes_ran hwf h]
  rfl

theorem scalarLoad_ran {da n : Nat} (hwf : TilesWf s) (h : SqGo t i s) (hunit : InUnit da n) :
    (ran s t i s.free).scalarLoad t da n = ((s.scalarLoad t da n).1, ran s t i (s.scalarLoad t da n).2.free) := by
  have hstakes := stakesBut_ran hwf h s.free (.sq t)
  rcases hunit.racedUnits_cases (s.stakesBut (.sq t)) with halone | ⟨b, hraced⟩
  · rw [scalarLoad_of_alone halone, scalarLoad_of_alone (by rw [hstakes]; exact halone)]
    rfl
  · rw [scalarLoad_of_raced hraced, scalarLoad_of_raced (by rw [hstakes]; exact hraced),
      le_congr (fun j _ => byte_setBytes_congr (s := s) (s' := ran s t i s.free) (fun _ => rfl) _ b _)]
    rfl

end

/-- R153: a signed load takes a value whose top bit is set as a negative one. -/
theorem loadValue_eq (op : MemOp) (v : Nat) : loadValue op v =
    if (memWidth op).2 = true ∧ 2 ^ (8 * (memWidth op).1 - 1) ≤ v then BitVec.ofInt 64 ((v : Int) - 2 ^ (8 * (memWidth op).1))
    else BitVec.ofNat 64 v := by
  simp only [loadValue, sext]
  by_cases hsigned : (memWidth op).2 = true
  · by_cases hlow : v < 2 ^ (8 * (memWidth op).1 - 1)
    · rw [if_pos hsigned, if_pos hlow, if_neg (by omega), BitVec.ofInt_natCast]
    · rw [if_pos hsigned, if_neg hlow, if_pos ⟨hsigned, by omega⟩]
  · rw [if_neg hsigned, if_neg (fun hc => hsigned hc.1)]

/-! ### The statement over tile tables in canonical form -/

/-- What `Obligations.SequencerMemory` says holds of every state whose tile table is in canonical form, which a set of a tile's record keeps. -/
theorem sequencerMemory_of_tilesWf (t : TileId) (s : State) (i : KInsn) (op : MemOp) (d : Fin 32) (a : Fin 16) (imm : BitVec 28) (hwf : TilesWf s)
    (h : SqGo t i s) (hbody : i.body = .mem op d a imm) :
    let da := memAddr (s.tile t) a imm
    let n := (memWidth op).1
    (da % n = 0 → inTileStore t da n = true →
      let v := (s.readS t d.val).1.toNat % 256 ^ n
      let w := (s.scalarLoad t da n).1
      (memStores op = true → s.storeBreach (scalarAddrs da n) = none → ∃ s', exec (memCmd t op) s = .next s' ∧
        SqRetired t (s.tile t) (waited (s.tile t) i) i.signal.val ((s.tile t).pc + 8) (fun k => k / 16 = da / 16) s s' ∧
        (Alone s (.sq t) (scalarAddrs da n) → s'.le da n = v ∧ ∀ k, deviceKey k → ¬ (da ≤ k ∧ k < da + n) → s'.byte k = s.byte k) ∧
        ∀ u ∈ racedUnits (s.stakesBut (.sq t)) (scalarAddrs da n), u.1 = da / 16 * 16 ∧
          ((∀ j < 16, s'.byte (u.1 + j) = s.byte (u.1 + j)) ∨
            ∀ j < 16, s'.byte (u.1 + j) = if da ≤ u.1 + j ∧ u.1 + j < da + n then v / 256 ^ (u.1 + j - da) % 256 else u.2.getD j 0 % 256)) ∧
      (memStores op = true → ∀ u, s.storeBreach (scalarAddrs da n) = some u → exec (memCmd t op) s = .fault (.undefined u)) ∧
      (Alone s (.sq t) (scalarAddrs da n) → w = s.le da n) ∧
      (∀ u b, racedUnits (s.stakesBut (.sq t)) (scalarAddrs da n) = [(u, b)] → w = s.le da n ∨ w = (s.setBytes u b).le da n) ∧
      (op = .lda → ∃ s', exec (memCmd t op) s = .next s' ∧
        SqRetired t ((s.tile t).setAreg d.val w) (waited (s.tile t) i) i.signal.val ((s.tile t).pc + 8) (fun _ => False) s s') ∧
      (memStores op = false → op ≠ .lda → ∃ s', exec (memCmd t op) s = .next s' ∧
        SqRetired t ((s.writeS t d.val (if (memWidth op).2 = true ∧ 2 ^ (8 * n - 1) ≤ w then BitVec.ofInt 64 ((w : Int) - 2 ^ (8 * n))
            else BitVec.ofNat 64 w)).tile t)
          (waited (s.tile t) i) i.signal.val ((s.tile t).pc + 8) (fun _ => False) s s')) ∧
    (da % n ≠ 0 ∨ inTileStore t da n = false → exec (memCmd t op) s = .fault (.undefined (.ub 17))) := by
  intro da n
  refine ⟨fun halign hin => ?placed, fun hmisplaced => exec_mem_misplaced h hbody ((scalarOk_eq_false_iff _ _ _).2 hmisplaced)⟩
  have hplace : scalarOk t da n = true := (scalarOk_iff _ _ _).2 ⟨halign, hin⟩
  have hunit : InUnit da n := inUnit_of_scalarOk (scalarWidth_memWidth op) hplace
  have hread := scalarLoad_ran hwf h hunit
  intro v w
  refine ⟨?store, ?breach, ?alone, ?raced, fun hlda => exec_lda h hbody hplace hlda hread, fun hload hlda => ?load⟩
  case store =>
    intro hstore hbreach
    obtain ⟨s', hexec, hret, hbytes⟩ := exec_store h hbody hplace hstore ((storeBreach_ran hwf h _ _).trans hbreach)
    change ∀ k, deviceKey k → s'.byte k = (stored (ran s t i _) t da n _).byte k at hbytes
    refine ⟨s', hexec, hret, fun halone => ?_, fun u hu => ?_⟩
    · rw [stored_of_alone (by rw [stakesBut_ran hwf h]; exact halone.1)] at hbytes
      refine ⟨?_, fun k hk hout => (hbytes k hk).trans (byte_setLe_other _ _ _ _ (by omega))⟩
      rw [le_congr (fun j hj => hbytes (da + j) (.inl (by have := hunit.high; have := hunit.within; omega))), le_setLe_same]
    · rcases hunit.racedUnits_cases (s.stakesBut (.sq t)) with hnone | ⟨b, hraced⟩
      · rw [hnone] at hu
        exact absurd hu List.not_mem_nil
      · rw [hraced, List.mem_singleton] at hu
        subst hu
        have hdevice : ∀ j < 16, deviceKey (da / 16 * 16 + j) := fun j hj => .inl (by have := hunit.high; omega)
        exact ⟨rfl, (stored_byte_of_raced hunit ((congrArg (racedUnits · _) (stakesBut_ran hwf h _ _)).trans hraced)).imp
          (fun hold j hj => (hbytes _ (hdevice j hj)).trans (hold j hj)) (fun hnew j hj => (hbytes _ (hdevice j hj)).trans (hnew j hj))⟩
  case breach => exact fun hstore u hbreach => exec_store_undefined h hbody hplace hstore ((storeBreach_ran hwf h _ _).trans hbreach)
  case alone => exact fun halone => congrArg Prod.fst (scalarLoad_of_alone halone.1)
  case raced =>
    intro u b hraced
    have hw : w = if Config.freeBool s.free then (s.setBytes u b).le da n else s.le da n := congrArg Prod.fst (scalarLoad_of_raced hraced)
    split at hw
    · exact .inr hw
    · exact .inl hw
  case load =>
    have hloaded := exec_load h hbody hplace hload hlda hread
    rw [loadValue_eq] at hloaded
    exact hloaded

/-! ### A tile table with two entries for one tile -/

/-- st64 of s7 at a3. -/
def storeInsn : KInsn := ⟨0, 0, 0, .mem .st64 7 3 0⟩

/-- Tile 0 before `storeInsn`, with the address of the second unit of its store in a3. -/
def storingTile : Tile :=
  { Tile.reset with
    seq := .running, icache := [(0, leBytes 8 (kEncode storeInsn).toNat)], a := [(3, 0x200000000010)], s := [(7, 0x8182838485868788)] }

/-- The hypotheses of `sequencerMemory_of_tilesWf` can be met. -/
theorem storingTile_go : TilesWf (State.reset.setTile 0 storingTile) ∧ SqGo 0 storeInsn (State.reset.setTile 0 storingTile) :=
  ⟨tilesWf_setTile tilesWf_reset 0 storingTile, by decide +kernel, by decide +kernel, by decide +kernel, by decide +kernel⟩

/-- A tile with a vector instruction in flight that has written the second unit of tile 0's store, which held sixteen bytes of 7 before. -/
def writingTile : Tile :=
  { Tile.reset with
    flights := [⟨.vx, 0, 0, 0, false, false, .vector none none, ⟨[], [], [(0x200000000010, List.replicate 16 7)], [], [], false⟩⟩] }

/-- A state whose tile table is not in canonical form: it has two entries for tile 0. `State.tile` reads the first; `State.stakesBut` lists the flights of both; and
setting tile 0's record, as the wait of an instruction does, drops the second. -/
def twoEntries : State := { State.reset with tiles := [(0, storingTile), (0, writingTile)] }

theorem twoEntries_go : SqGo 0 storeInsn twoEntries := ⟨by decide +kernel, by decide +kernel, by decide +kernel, by decide +kernel⟩

theorem twoEntries_raced :
    racedUnits (twoEntries.stakesBut (.sq 0)) (scalarAddrs 0x200000000010 8) = [(0x200000000010, List.replicate 16 7)] := by decide +kernel

theorem twoEntries_no_breach : twoEntries.storeBreach (scalarAddrs 0x200000000010 8) = none := by decide +kernel

/-- The store leaves its own bytes in the unit's lower half, and the upper half as it stood, not as it was before the write in flight. -/
theorem twoEntries_store_bytes {s' : State} (h : exec (.sqStore 0) twoEntries = .next s') :
    s'.byte 0x200000000010 = 0x88 ∧ s'.byte 0x200000000018 = 0 := by
  have hbytes : (match exec (.sqStore 0) twoEntries with
      | .next s' => [s'.byte 0x200000000010, s'.byte 0x200000000018]
      | _ => []) = [0x88, 0] := by decide +kernel
  rw [h] at hbytes
  simpa using hbytes

/-- Refutes O10, which asks no canonical form of the tile table: in `twoEntries` a write in flight stands in an entry that is dropped before the store looks for
it, so that the store leaves neither of the two whole units of R68. Over canonical tile tables the statement holds (`sequencerMemory_of_tilesWf`). -/
theorem not_sequencerMemory : ¬ Obligations.SequencerMemory := by
  unfold Obligations.SequencerMemory
  intro h
  obtain ⟨hplaced, -⟩ := h 0 twoEntries storeInsn .st64 7 3 0 twoEntries_go rfl
  obtain ⟨hstore, -⟩ := hplaced (by decide +kernel) (by decide +kernel)
  obtain ⟨s', hexec, -, -, hraced⟩ := hstore rfl twoEntries_no_breach
  obtain ⟨hlow, hhigh⟩ := twoEntries_store_bytes hexec
  obtain ⟨-, hold | hnew⟩ := hraced (0x200000000010, List.replicate 16 7) (twoEntries_raced ▸ List.mem_singleton_self _)
  · exact absurd (hlow.symm.trans (hold 0 (by decide))) (by decide +kernel)
  · exact absurd (hhigh.symm.trans (hnew 8 (by decide))) (by decide +kernel)

end Sys2Proof.Proofs
end
